-- ==== Sys2Proof/Word.lean ====
section
/-! DEFINITION. The word types of the Borzor and their plainest arithmetic (R2, R9). -/

namespace Sys2Proof

/-- A 32-bit stack entry, local or word of memory (R66). -/
abbrev Word := BitVec 32

/-- A 64-bit scalar or dword of memory (R68). -/
abbrev DWord := BitVec 64

/-- A byte of memory. -/
abbrev Byte := BitVec 8

/-- A set of lanes of one team, bit i for lane i (R75, R77). -/
abbrev Mask := BitVec 1024

/-- The number of a scalar register, 0 to 31 (R68). -/
abbrev SReg := BitVec 5

/-- A 16-bit parcel of code (R42). -/
abbrev Parcel := BitVec 16

end Sys2Proof
end

