-- ==== Sys2Proof/Machine/Bits.lean ====
section
/-! DEFINITION. Bit fields, pairs, sign extension and byte order (R8, R42, R55). -/

namespace Sys2Proof.Machine

/-- Bits 31:0 of a dword. -/
def lo32 (d : DWord) : Word := d.setWidth 32

/-- Bits 63:32 of a dword. -/
def hi32 (d : DWord) : Word := (d >>> 32).setWidth 32

/-- The dword of a low and a high word, as a pair stands on a stack (R55). -/
def pair (lo hi : Word) : DWord := (hi.setWidth 64 <<< 32) ||| lo.setWidth 64

/-- A field of a bit vector: the bits from lo up to lo + n - 1, as a number. -/
def fld {w : Nat} (d : BitVec w) (lo n : Nat) : Nat := d.toNat / 2 ^ lo % 2 ^ n

/-- The word 1 for true and 0 for false, as a comparison pushes it (R138). -/
def boolWord (b : Bool) : Word := if b then 1 else 0

/-- n rounded up to the next multiple of m. -/
def roundUp (n m : Nat) : Nat := (n + (m - 1)) / m * m

/-- The signed integer nearest to x in 0 - 2^(w-1) to 2^(w-1) - 1. -/
def clampS (w : Nat) (x : Int) : Int :=
  if x < -(2 ^ (w - 1) : Int) then -(2 ^ (w - 1) : Int)
  else if (2 ^ (w - 1) : Int) - 1 < x then (2 ^ (w - 1) : Int) - 1 else x

/-- The unsigned integer nearest to x in 0 to 2^w - 1. -/
def clampU (w : Nat) (x : Int) : Int :=
  if x < 0 then 0 else if (2 ^ w : Int) - 1 < x then (2 ^ w : Int) - 1 else x

/-- The bytes of a number, least significant first (little-endian, R42). -/
def leBytes : Nat → Nat → List Byte
  | 0, _ => []
  | n + 1, v => BitVec.ofNat 8 v :: leBytes n (v / 256)

/-- The number whose little-endian bytes are these. -/
def leNat : List Byte → Nat
  | [] => 0
  | b :: bs => b.toNat + 256 * leNat bs

/-- The signed value of the low w bits of a number. -/
def sxt (w : Nat) (v : Nat) : Int := (BitVec.ofNat w v).toInt

/-- A 64-bit word holding an integer modulo 2^64. -/
def dw (x : Int) : DWord := BitVec.ofInt 64 x

/-- A 32-bit word holding an integer modulo 2^32. -/
def wd (x : Int) : Word := BitVec.ofInt 32 x

/-- Structural integer square root by bits, from bit k down: the largest r with r * r ≤ n and r < 2^(k+1) when started at 0. -/
def isqrtFrom : Nat → Nat → Nat → Nat
  | 0, n, r => if (r + 1) * (r + 1) ≤ n then r + 1 else r
  | k + 1, n, r =>
    let r' := r + 2 ^ (k + 1)
    isqrtFrom k n (if r' * r' ≤ n then r' else r)

/-- The integer square root. -/
def isqrt (n : Nat) : Nat := isqrtFrom (Nat.log2 n / 2 + 1) n 0

/-- The number of bits of n: 0 for 0, else 1 + ⌊log2 n⌋. -/
def bitLen (n : Nat) : Nat := if n = 0 then 0 else Nat.log2 n + 1

end Sys2Proof.Machine
end

