-- ==== Sys2Proof/Syntax.lean ====
section
/-! DEFINITION. The abstract syntax: one constructor of Instr for each row of spec/opcode_table.json.
Each constructor's comment gives the rule of spec/ that describes it and what it does. -/

namespace Sys2Proof

/-- The rounding selectors of R53: the mode in FMT, or a mode of its own. -/
inductive Rnd
  | fmt | rn | rz | ru | rd
  deriving DecidableEq, Repr

/-- The condition codes of CMP, FCMP and DCMP (R53), in code order. -/
inductive Cc
  | eq | ne | lt | le | gt | ge | lo | ls | hi | hs | un | or
  deriving DecidableEq, Repr

/-- The conditions of BRC (R55), code 1 first. -/
inductive BrCond
  | eq | ne | lt | ge | le | gt | lo | hs | ls | hi | mz | mnz | f | nf
  deriving DecidableEq, Repr

/-- The widths of a lane access (R55, R216). -/
inductive Width
  | i8 | n8 | i16 | n16 | w32 | w64
  deriving DecidableEq, Repr

/-- The forms of LDS: plain, full/empty, full/empty and clear (R220). -/
inductive LdsForm
  | plain | fe | fec
  deriving DecidableEq, Repr

/-- The forms of STS (R220). -/
inductive StsForm
  | plain | fe
  deriving DecidableEq, Repr

/-- The types of SCATADD (R223). -/
inductive ScatTy
  | i32 | f32 | f64
  deriving DecidableEq, Repr

/-- The operations of ATOM (R224), in code order. -/
inductive AtomOp
  | add | sub | min | max | minu | maxu | and | or | xor | xchg | cas | fadd | dadd | fmax
  deriving DecidableEq, Repr

/-- The order qualifiers of layout A (R45). -/
inductive MemOrder
  | none | acq | rel | ar
  deriving DecidableEq, Repr

/-- The scopes of R45, in code order. -/
inductive Scope
  | core | quad | die | pkg | pod | sys
  deriving DecidableEq, Repr

/-- The operations of REDUCE and SCAN (R55), in code order. -/
inductive RedOp
  | add | min | max | minu | maxu | and | or | xor | fadd | fmin | fmax
  deriving DecidableEq, Repr

/-- The types of CVT (R54), in code order. -/
inductive CvtTy
  | f32 | f64 | f16 | bf16 | i32 | n32 | i64 | n64 | i16 | n16 | i8 | n8
  deriving DecidableEq, Repr

/-- The kinds of COPY (R235), in code order. -/
inductive CopyKind
  | oneD | twoD | gather | fill | zero
  deriving DecidableEq, Repr

/-- The modes of IXSET (R268); code 3 is out of limits. -/
inductive IxMode
  | and | or | diff
  deriving DecidableEq, Repr

/-- The special registers of R56, in index order. -/
inductive SpecReg
  | lane | team | teams | nlane | bench | core | quad | die | pkg | depth | tcyc | gtime | rprog | rentry | fmt | cc | uhvec | fpsf | emuop | emuf16 | emui32 | emupc | trapcode
  deriving DecidableEq, Repr

/-- What a scrubber or a check finds (R211, R311): nothing, a corrected error, an uncorrectable error. -/
inductive ErrKind
  | clean | corrected | uncorrectable
  deriving DecidableEq, Repr

/-- Who writes a launch packet (R343): the host, as a deferrable or a posted write, through the PF's BAR 0 or that of VF fn, whose n-th
window is then the one named (R340), or a peer's context. -/
inductive PktSrc
  | host (posted : Bool)
  | vf (fn : Nat) (posted : Bool)
  | peer (pkg : Nat) (stag : BitVec 12)
  deriving DecidableEq, Repr

/-- What a host, a peer or an RDMA engine does to memory (R435, R438, R442). -/
inductive ExtOp
  | read (bytes : Nat)
  | write (data : List (BitVec 8))
  | atomic (op : AtomOp) (v cmp : BitVec 64)
  deriving DecidableEq, Repr

/-- The instructions and events of the opcode table (R52, R55 and the event rows). -/
inductive Instr
  /-- R59. Parcel 0x0000: a class S trap for executed zeroed memory, with the PC left at the BRKZ. -/
  | brkz
  /-- R185. Has no effect. -/
  | nop
  /-- R128. Pushes the 8-bit immediate, sign-extended to 32 bits. -/
  | pushi8 (imm : BitVec 8)
  /-- R128. Pushes local k. -/
  | pushl (k : BitVec 8)
  /-- R128. Pushes locals k and k+1 as a pair. -/
  | pushl2 (k : BitVec 8)
  /-- R130. Pops TOS into local k in the active lanes. -/
  | popl (k : BitVec 8)
  /-- R130. Pops a pair into locals k and k+1. -/
  | popl2 (k : BitVec 8)
  /-- R131. Pushes a special register, or the high half of one when bit 7 is set. -/
  | pushx (hi : Bool) (x : SpecReg)
  /-- R131. Pushes bits 31:0 of a scalar to every lane. -/
  | pushs (sa : SReg)
  /-- R131. Pushes all 64 bits of a scalar as a pair. -/
  | pushs2 (sa : SReg)
  /-- R128. Duplicates TOS. -/
  | dup
  /-- R128. Duplicates the top pair. -/
  | dup2
  /-- R128. Discards TOS. -/
  | drop
  /-- R128. Discards the top pair. -/
  | drop2
  /-- R128. Swaps the top two entries. -/
  | swap
  /-- R128. Swaps the top two pairs. -/
  | swap2
  /-- R128. Copies NOS to the top. -/
  | overTop
  /-- R128. Rotates the third entry to the top. -/
  | rot
  /-- R128. Copies entry k below TOS to the top. -/
  | pick (k : BitVec 8)
  /-- R128. Moves entry k below TOS to the top. -/
  | roll (k : BitVec 8)
  /-- R136. Selects x or y by c, moving bits without computing. -/
  | sel
  /-- R133. 32-bit add, wrapping. -/
  | add
  /-- R133. 32-bit subtract, wrapping. -/
  | sub
  /-- R133. Low 32 bits of the product. -/
  | mul
  /-- R133. High 32 bits of the signed product. -/
  | mulh
  /-- R133. High 32 bits of the unsigned product. -/
  | mulhu
  /-- R133. Low 32 bits of a×b+c. -/
  | mad
  /-- R133. Signed divide, long-latency. -/
  | div (la : BitVec 4)
  /-- R133. Unsigned divide, long-latency. -/
  | divu (la : BitVec 4)
  /-- R133. Signed remainder, long-latency. -/
  | rem (la : BitVec 4)
  /-- R133. Unsigned remainder, long-latency. -/
  | remu (la : BitVec 4)
  /-- R133. Two's-complement negate. -/
  | neg
  /-- R133. Signed absolute value. -/
  | abs
  /-- R133. Signed minimum. -/
  | min
  /-- R133. Signed maximum. -/
  | max
  /-- R133. Unsigned minimum. -/
  | minu
  /-- R133. Unsigned maximum. -/
  | maxu
  /-- R133. Signed saturating add. -/
  | adds
  /-- R133. Signed saturating subtract. -/
  | subs
  /-- R133. Bitwise and. -/
  | and
  /-- R133. Bitwise or. -/
  | or
  /-- R133. Bitwise exclusive or. -/
  | xor
  /-- R133. Bitwise not. -/
  | not
  /-- R133. a AND NOT b. -/
  | andn
  /-- R133. Shift left by n mod 32. -/
  | shl
  /-- R133. Logical shift right by n mod 32. -/
  | shr
  /-- R133. Arithmetic shift right by n mod 32. -/
  | sar
  /-- R133. Rotate left by n mod 32. -/
  | rotl
  /-- R133. Counts leading zero bits. -/
  | clz
  /-- R133. Counts set bits. -/
  | popc
  /-- R133. Reverses the bit order. -/
  | brev
  /-- R135. Extracts a bit field, sign-extended. -/
  | bfx
  /-- R135. Extracts a bit field, zero-extended. -/
  | bfxu
  /-- R135. Inserts a bit field. -/
  | bfi
  /-- R135. Gathers and transforms bytes under a selector. -/
  | permb
  /-- R137. 64-bit pair add. -/
  | add64
  /-- R137. 64-bit pair subtract. -/
  | sub64
  /-- R137. Low 64 bits of the 64-bit product. -/
  | mul64
  /-- R137. 64-bit shift left. -/
  | shl64
  /-- R137. 64-bit logical shift right. -/
  | shr64
  /-- R137. 64-bit arithmetic shift right. -/
  | sar64
  /-- R137. Signed 32×32 product delivered as i64. -/
  | mulw
  /-- R138. Integer compare under a condition code; pushes 1 or 0. -/
  | cmp (cc : Cc)
  /-- R138. f32 compare under a condition code. -/
  | fcmp (cc : Cc)
  /-- R138. f64 compare under a condition code. -/
  | dcmp (cc : Cc)
  /-- R139. f32 add. -/
  | fadd (r : Rnd)
  /-- R139. f32 subtract. -/
  | fsub (r : Rnd)
  /-- R139. f32 multiply. -/
  | fmul (r : Rnd)
  /-- R139. f32 fused multiply-add. -/
  | ffma (r : Rnd)
  /-- R139. f32 divide, correctly rounded, long-latency. -/
  | fdiv (la : BitVec 4) (r : Rnd)
  /-- R139. f32 square root, long-latency. -/
  | fsqrt (la : BitVec 4) (r : Rnd)
  /-- R110. f32 minimumNumber. -/
  | fmin
  /-- R110. f32 maximumNumber. -/
  | fmax
  /-- R139. Clears the f32 sign bit. -/
  | fabs
  /-- R139. Inverts the f32 sign bit. -/
  | fneg
  /-- R112. Correctly rounded reciprocal. -/
  | frcp (la : BitVec 4)
  /-- R112. Correctly rounded reciprocal square root. -/
  | frsq (la : BitVec 4)
  /-- R112. Correctly rounded 2^x. -/
  | fexp2 (la : BitVec 4)
  /-- R112. Correctly rounded log2. -/
  | flog2 (la : BitVec 4)
  /-- R112. Correctly rounded sine. -/
  | fsin (la : BitVec 4)
  /-- R112. Correctly rounded cosine. -/
  | fcos (la : BitVec 4)
  /-- R112. Correctly rounded tanh. -/
  | ftanh (la : BitVec 4)
  /-- R140. Rounds an f32 to an integral value without setting NX. -/
  | frnd (r : Rnd)
  /-- R139. f64 add. -/
  | dadd (r : Rnd)
  /-- R139. f64 subtract. -/
  | dsub (r : Rnd)
  /-- R139. f64 multiply. -/
  | dmul (r : Rnd)
  /-- R139. f64 fused multiply-add. -/
  | dfma (r : Rnd)
  /-- R139. f64 divide, long-latency. -/
  | ddiv (la : BitVec 4) (r : Rnd)
  /-- R139. f64 square root, long-latency. -/
  | dsqrt (la : BitVec 4) (r : Rnd)
  /-- R110. f64 minimumNumber. -/
  | dmin
  /-- R110. f64 maximumNumber. -/
  | dmax
  /-- R139. Clears the f64 sign bit. -/
  | dabs
  /-- R139. Inverts the f64 sign bit. -/
  | dneg
  /-- R141. Packed 16-bit add. -/
  | hadd2 (r : Rnd)
  /-- R141. Packed 16-bit multiply. -/
  | hmul2 (r : Rnd)
  /-- R141. Packed 16-bit fused multiply-add. -/
  | hfma2 (r : Rnd)
  /-- R141. Packed 16-bit maximumNumber. -/
  | hmax2
  /-- R143. Packs two f32 values into a 16-bit pair. -/
  | pack2 (r : Rnd)
  /-- R143. Unpacks a 16-bit pair into two f32 values. -/
  | unpk2
  /-- R147. Reads the lane named by x mod 32 within the mask word. -/
  | shflIdx
  /-- R147. Reads lane i XOR k. -/
  | shflXor (k : BitVec 8)
  /-- R147. Reads lane i−k. -/
  | shflUp (k : BitVec 8)
  /-- R147. Reads lane i+k. -/
  | shflDn (k : BitVec 8)
  /-- R148. Forms the mask word of source lanes whose flag is nonzero. -/
  | ballot
  /-- R149. Sets CC.Z when any source lane has a nonzero flag. -/
  | voteAny
  /-- R149. Sets CC.Z when no source lane has a zero flag. -/
  | voteAll
  /-- R148. Marks the lower source lanes that hold an equal value. -/
  | conflict
  /-- R168. Arrives at the join; the last arrival fuses the children. -/
  | join
  /-- R165. Removes the active lanes from the team. -/
  | exit
  /-- R166. Makes every active lane a helper. -/
  | demote
  /-- R164. Saves the active mask to slot k and narrows it by the popped flags. -/
  | mand (k : BitVec 8)
  /-- R164. Restores the active mask from slot k ANDed with the member mask. -/
  | mrest (k : BitVec 8)
  /-- R172. Pops the innermost loop and continues after its end. -/
  | leave
  /-- R175. Closes any open region and opens a new one with a snapshot. -/
  | region
  /-- R175. Closes the open region and publishes its buffered lines. -/
  | rclose
  /-- R161. Returns through the fragment's newest call-stack entry. -/
  | ret
  /-- R182. Raises the class U trap TRAP with ARG imm8. -/
  | trap (imm : BitVec 8)
  /-- R181. Returns from the user handler and restores the trapped fragment. -/
  | tret
  /-- R182. Raises the class U trap BKPT. -/
  | bkpt
  /-- R185. Records a heartbeat for a persistent launch's watchdog. -/
  | hbeat
  /-- R185. Yields the team to other READY fragments. -/
  | pause
  /-- R154. sd = sa. -/
  | smov (sd : SReg) (sa : SReg)
  /-- R154. 64-bit scalar add, setting CC. -/
  | sadd (sd : SReg) (sa : SReg) (sb : SReg)
  /-- R154. 64-bit scalar subtract. -/
  | ssub (sd : SReg) (sa : SReg) (sb : SReg)
  /-- R154. 64-bit scalar multiply. -/
  | smul (sd : SReg) (sa : SReg) (sb : SReg)
  /-- R154. Scalar bitwise and. -/
  | sand (sd : SReg) (sa : SReg) (sb : SReg)
  /-- R154. Scalar bitwise or. -/
  | sor (sd : SReg) (sa : SReg) (sb : SReg)
  /-- R154. Scalar bitwise exclusive or. -/
  | sxor (sd : SReg) (sa : SReg) (sb : SReg)
  /-- R154. Scalar shift left. -/
  | sshl (sd : SReg) (sa : SReg) (sb : SReg)
  /-- R154. Scalar logical shift right. -/
  | sshr (sd : SReg) (sa : SReg) (sb : SReg)
  /-- R154. Scalar arithmetic shift right. -/
  | ssar (sd : SReg) (sa : SReg) (sb : SReg)
  /-- R154. Sets CC from sa−sb. -/
  | scmp (sa : SReg) (sb : SReg)
  /-- R157. Reads a special register into a scalar. -/
  | sread (sd : SReg) (x : SpecReg)
  /-- R157. Writes CC, FPSF or UHVEC from a scalar. -/
  | swrite (x : SpecReg) (sa : SReg)
  /-- R155. Loads a sign-extended 32-bit immediate into sd. -/
  | sli (sd : SReg) (imm : BitVec 32)
  /-- R155. Loads an immediate into bits 63:32 of sd. -/
  | sliw (sd : SReg) (imm : BitVec 32)
  /-- R155. Adds a sign-extended immediate to sa. -/
  | saddi (sd : SReg) (sa : SReg) (imm : BitVec 32)
  /-- R155. Sets CC from sa − immediate. -/
  | scmpi (sa : SReg) (imm : BitVec 32)
  /-- R158. Scalar 8-byte load from global memory. -/
  | sld (sd : SReg) (sa : SReg) (imm : BitVec 32)
  /-- R158. Scalar 8-byte store to global memory. -/
  | sst (sb : SReg) (sa : SReg) (imm : BitVec 32)
  /-- R128. Pushes the 32-bit immediate held in f32 (format L). -/
  | pushi32 (imm : BitVec 32)
  /-- R128. Pushes a 64-bit immediate pair, in its sign-extended form or its high-half form. -/
  | pushw (hi : Bool) (imm : BitVec 32)
  /-- R142. Converts between numeric types. -/
  | cvt (src : CvtTy) (dst : CvtTy) (r : Rnd) (sat : Bool)
  /-- R144. Quantises a row into HSE2 through a descriptor. -/
  | qntHse2 (sa : SReg)
  /-- R144. Quantises a row into HSE4. -/
  | qntHse4 (sa : SReg)
  /-- R144. Quantises a row into HSE7. -/
  | qntHse7 (sa : SReg)
  /-- R146. Dequantises an HSE2 element to f32, long-latency. -/
  | dqntHse2 (la : BitVec 4) (sa : SReg)
  /-- R146. Dequantises an HSE4 element. -/
  | dqntHse4 (la : BitVec 4) (sa : SReg)
  /-- R146. Dequantises an HSE7 element. -/
  | dqntHse7 (la : BitVec 4) (sa : SReg)
  /-- R160. Unconditional branch, 16-bit offset. -/
  | brW (off : BitVec 16)
  /-- R160. Unconditional branch, 32-bit offset. -/
  | brL (off : BitVec 32)
  /-- R160. Conditional branch on CC, 16-bit offset. -/
  | brcW (cond : BrCond) (off : BitVec 16)
  /-- R160. Conditional branch on CC, 32-bit offset. -/
  | brcL (cond : BrCond) (off : BitVec 32)
  /-- R161. Jumps to the address in sa. -/
  | jmps (sa : SReg)
  /-- R161. Pushes a call-stack entry and branches, 16-bit offset. -/
  | callW (off : BitVec 16)
  /-- R161. Pushes a call-stack entry and branches, 32-bit offset. -/
  | callL (off : BitVec 32)
  /-- R161. Pushes a call-stack entry and jumps to sa. -/
  | calls (sa : SReg)
  /-- R167. Divides the fragment by the popped flag into two sides under a join record. -/
  | split (els : BitVec 16) (join : BitVec 32)
  /-- R170. Starts a zero-overhead loop with an immediate count. -/
  | loop (count : BitVec 16) (last : BitVec 32)
  /-- R170. Starts a zero-overhead loop with the count in sa. -/
  | loops (sa : SReg) (last : BitVec 32)
  /-- R174. Replaces the fragment's FMT from an immediate. -/
  | fmtImm (imm : BitVec 32)
  /-- R174. Replaces the fragment's FMT from sa. -/
  | fmtReg (sa : SReg)
  /-- R184. Arms or disarms the TCYC deadline. -/
  | timerV (sa : SReg)
  /-- R184. Arms or disarms the GTIME deadline. -/
  | timerG (sa : SReg)
  /-- R150. Reduces the source lanes into sd, optionally broadcasting. -/
  | reduce (la : BitVec 4) (op : RedOp) (bc : Bool) (sd : SReg)
  /-- R152. Reads the lowest active lane's value into sd. -/
  | readl (sd : SReg)
  /-- R151. Inclusive or exclusive prefix combination across lanes. -/
  | scan (la : BitVec 4) (op : RedOp) (excl : Bool)
  /-- R216. Global load at sa plus scaled lane offset. -/
  | ldW (la : BitVec 4) (w : Width) (scale : BitVec 2) (sa : SReg)
  /-- R216. Global load with a 32-bit constant. -/
  | ldL (la : BitVec 4) (w : Width) (scale : BitVec 2) (sa : SReg) (c : BitVec 32)
  /-- R216. Global store at sa plus scaled lane offset. -/
  | stW (w : Width) (scale : BitVec 2) (sa : SReg)
  /-- R216. Global store with a 32-bit constant. -/
  | stL (w : Width) (scale : BitVec 2) (sa : SReg) (c : BitVec 32)
  /-- R217. Global load at a lane's own 64-bit address. -/
  | ldaW (la : BitVec 4) (w : Width)
  /-- R217. Lane-address load with a constant. -/
  | ldaL (la : BitVec 4) (w : Width) (c : BitVec 32)
  /-- R217. Global store at a lane's own 64-bit address. -/
  | staW (w : Width)
  /-- R217. Lane-address store with a constant. -/
  | staL (w : Width) (c : BitVec 32)
  /-- R218. Loads 16 aligned bytes as four entries. -/
  | ldvW (la : BitVec 4) (scale : BitVec 2) (sa : SReg)
  /-- R218. Vector load with a constant. -/
  | ldvL (la : BitVec 4) (scale : BitVec 2) (sa : SReg) (c : BitVec 32)
  /-- R218. Stores four entries as 16 aligned bytes. -/
  | stvW (scale : BitVec 2) (sa : SReg)
  /-- R218. Vector store with a constant. -/
  | stvL (scale : BitVec 2) (sa : SReg) (c : BitVec 32)
  /-- R220. Scratchpad word load, optionally waiting for or clearing full. -/
  | ldsW (la : BitVec 4) (q : LdsForm) (scale : BitVec 2) (sa : SReg)
  /-- R220. Scratchpad load with a constant. -/
  | ldsL (la : BitVec 4) (q : LdsForm) (scale : BitVec 2) (sa : SReg) (c : BitVec 32)
  /-- R220. Scratchpad word store, optionally setting full. -/
  | stsW (q : StsForm) (scale : BitVec 2) (sa : SReg)
  /-- R220. Scratchpad store with a constant. -/
  | stsL (q : StsForm) (scale : BitVec 2) (sa : SReg) (c : BitVec 32)
  /-- R223. Conflict-combining scatter-add at the home slice. -/
  | scataddW (t : ScatTy) (scale : BitVec 2) (sa : SReg)
  /-- R223. Scatter-add with a constant. -/
  | scataddL (t : ScatTy) (scale : BitVec 2) (sa : SReg) (c : BitVec 32)
  /-- R224. Atomic read-modify-write at the place its scope decides. -/
  | atomW (la : BitVec 4) (op : AtomOp) (ord : MemOrder) (sc : Scope) (scale : BitVec 2) (sa : SReg)
  /-- R224. Atomic with a constant. -/
  | atomL (la : BitVec 4) (op : AtomOp) (ord : MemOrder) (sc : Scope) (scale : BitVec 2) (sa : SReg) (c : BitVec 32)
  /-- R229. Reads the object word and invalidates the bound ranges. -/
  | acq (sa : SReg)
  /-- R229. Writes back the bound ranges and increments the object word. -/
  | rel (sa : SReg)
  /-- R227. Acquire fence at a scope. -/
  | fenceAcq (sc : Scope)
  /-- R227. Release fence at a scope. -/
  | fenceRel (sc : Scope)
  /-- R227. Release then acquire fence at a scope. -/
  | fenceFull (sc : Scope)
  /-- R228. Attaches a size-coded range to a synchronisation object. -/
  | bind (sa : SReg) (sb : SReg)
  /-- R228. Removes an object's binding entry. -/
  | unbind (sa : SReg)
  /-- R230. Parks until the watched line is written or 4096 cycles pass. -/
  | waitv (sa : SReg)
  /-- R232. Arrives at a scratchpad barrier word and records the mark. -/
  | barArrive (sa : SReg)
  /-- R232. Waits for the generation of the fragment's own arrival. -/
  | barWait (sa : SReg)
  /-- R232. Arrives and then waits. -/
  | barSync (sa : SReg)
  /-- R233. Syncs on a quad named barrier. -/
  | nbarQuad (id : BitVec 4)
  /-- R233. Syncs on a die named barrier. -/
  | nbarDie (id : BitVec 4)
  /-- R233. Syncs on a package named barrier. -/
  | nbarPkg (id : BitVec 4)
  /-- R233. Syncs every team of a coresident launch. -/
  | gbar
  /-- R235. Checks a copy descriptor, queues the command and returns its ticket. -/
  | copy (kind : CopyKind) (fe : Bool) (sd : SReg) (sa : SReg) (sb : SReg)
  /-- R241. Parks until a counter reaches a value, then acquires at pkg scope. -/
  | tlwait (sa : SReg) (sb : SReg)
  /-- R241. Reads a counter into sd without acquiring. -/
  | tlread (sd : SReg) (sa : SReg)
  /-- R241. Releases at pkg scope and raises a timeline to at least sb. -/
  | tlsig (sa : SReg) (sb : SReg)
  /-- R249. Checks and queues a dense multiply-accumulate into a tile. -/
  | mma (fe : Bool) (sa : SReg) (sb : SReg) (sc : SReg) (se : SReg) (tile : BitVec 8)
  /-- R249. Checks and queues a dense multiply into a zeroed tile. -/
  | mmaz (fe : Bool) (sa : SReg) (sb : SReg) (sc : SReg) (se : SReg) (tile : BitVec 8)
  /-- R257. Queues a block-sparse multiply over a strip. -/
  | mmaBsr (fe : Bool) (sa : SReg) (sb : SReg) (sc : SReg) (se : SReg) (tile : BitVec 8)
  /-- R257. Queues a compressed-row sparse multiply over a strip. -/
  | mmaCsr (fe : Bool) (sa : SReg) (sb : SReg) (sc : SReg) (se : SReg) (tile : BitVec 8)
  /-- R258. Zeroes a tile, its status word and its poison. -/
  | accz (tile : BitVec 8)
  /-- R259. Loads a sub-block of a tile from memory. -/
  | accld (fe : Bool) (sa : SReg) (sb : SReg) (tile : BitVec 8) (ty : BitVec 4)
  /-- R261. Stores a tile sub-block, optionally merging its amax. -/
  | accst (fe : Bool) (sa : SReg) (sb : SReg) (sc : SReg) (tile : BitVec 8) (ty : BitVec 4) (scope : Scope) (amax : Bool)
  /-- R263. Reads tile elements or the status word into lanes. -/
  | accrd (la : BitVec 4) (wide : Bool) (tile : BitVec 8)
  /-- R263. Writes lane values into tile elements or the status word. -/
  | accwr (wide : Bool) (tile : BitVec 8)
  /-- R268. Sets the team's intersection stream from a descriptor. -/
  | ixset (mode : IxMode) (sa : SReg)
  /-- R269. Delivers the next position pairs to the lanes. -/
  | ixnext (la : BitVec 4) (sd : SReg)
  /-- R270. Writes the stream's next pairs to scratchpad. -/
  | ixsp (sa : SReg)
  /-- R271. Writes the stream status word to sd. -/
  | ixcnt (sd : SReg)
  /-- R287. Sets the team's power priority. -/
  | pwrprio (p : BitVec 2)
  /-- R288. Reads the quad's power status word. -/
  | pwrread (sd : SReg)
  /-- R312. Walks a context's tables without faulting and reports the result. -/
  | xprobe (sd : SReg) (sa : SReg)
  /-- R376. Opens an activity and returns its handle. -/
  | actOpen (sd : SReg)
  /-- R376. Releases at pkg scope and appends a compensation entry. -/
  | actStep (sd : SReg) (sa : SReg) (sb : SReg) (sc : SReg) (se : SReg)
  /-- R376. Closes an activity and frees its entries without running them. -/
  | actClose (sa : SReg)
  /-- R377. Starts the reverse compensation walk of an activity. -/
  | actAbandon (sa : SReg)
  /-- R381. Reads an activity's status word. -/
  | actStat (sd : SReg) (sa : SReg)
  /-- R380. Frees a stuck entry without running it and continues the walk. -/
  | actSkip (sa : SReg)
  /-- R380. Relaunches a failed compensation or restarts a key wait. -/
  | actRetry (sa : SReg)
  /-- R383. Releases, records a compensation status and retires the team. -/
  | cret (sa : SReg)
  /-- R397. Opens a state-store record. -/
  | ssOpen (sd : SReg) (sa : SReg)
  /-- R398. Queues a copy of a live-body range into scratchpad. -/
  | ssLoad (sd : SReg) (sa : SReg) (sb : SReg) (sc : SReg) (se : SReg)
  /-- R397. Writes bytes into the live body and advances the head. -/
  | ssStore (sa : SReg) (sb : SReg) (sc : SReg) (se : SReg)
  /-- R397. Takes, pins or unpins snapshots at the head. -/
  | ssSnap (sa : SReg)
  /-- R397. Rolls the live body back to a snapshot. -/
  | ssRoll (sd : SReg) (sa : SReg) (sb : SReg)
  /-- R397. Forks a new record sharing a snapshot. -/
  | ssFork (sd : SReg) (sa : SReg) (sb : SReg)
  /-- R397. Unmaps every version and frees the slot. -/
  | ssDrop (sa : SReg)
  /-- R397. Writes the record header to memory. -/
  | ssInfo (sa : SReg) (sb : SReg)
  /-- R397. Reads, and with .set replaces, the draft-head mask. -/
  | ssHeads (wr : Bool) (sd : SReg) (sa : SReg) (sb : SReg)
  /-- R387. Takes a page number from a page pool. -/
  | poolTake (sd : SReg) (sa : SReg)
  /-- R387. Returns a page number to a page pool. -/
  | poolGive (sa : SReg) (sb : SReg)
  /-- R402. Releases and writes a launch packet to a local or peer queue. -/
  | launch (sa : SReg) (sb : SReg)
  /-- R415. Reads 8 bytes of debug state. -/
  | dbgRd (sd : SReg) (sa : SReg)
  /-- R415. Writes 8 bytes of debug state. -/
  | dbgWr (sa : SReg) (sb : SReg)
  /-- R57. A fetched pattern that is no instruction enters the user handler with EMU registers set, or escalates. -/
  | illop (form : Nat) (cause : Nat) (first : BitVec 16) (arg : BitVec 16) (f32 : BitVec 32) (parcels : Nat)
  /-- R445. A closing region publishes once every parked store has replayed. -/
  | regionPublish (team : Nat)
  /-- R195. A long-latency result is written, freeing its scoreboard entry. -/
  | resultWrite (team : Nat) (sb : Nat)
  /-- R91. A shelf fill or drain row transfer ends. -/
  | drawerTransfer (team : Nat) (frag : Nat)
  /-- R200. A fragment that found the waiter table full retries every 64 cycles. -/
  | waiterTableRetry (team : Nat) (frag : Nat)
  /-- R302. An unrecorded faulting access is presented again every 256 cycles. -/
  | faultRepresent (team : Nat) (frag : Nat)
  /-- R230. Another agent writes the watched line and the fragment becomes READY. -/
  | waitvWake (team : Nat) (frag : Nat)
  /-- R230. 4096 cycles pass and the parked fragment becomes READY. -/
  | waitvTimeout (team : Nat) (frag : Nat)
  /-- R241. A counter update reaches the core and satisfies a parked TLWAIT. -/
  | tlwaitWake (team : Nat) (frag : Nat)
  /-- R295. An engine moves up to 512 bytes of a context's oldest command. -/
  | copyEngineTurn (die : Nat) (engine : Nat)
  /-- R237. A command's last byte lands and the counter becomes its ticket. -/
  | copyComplete (die : Nat) (ctx : Nat)
  /-- R249. The matrix unit executes the next accepted command. -/
  | matrixExecute (core : Nat)
  /-- R267. The IXU serves the next accepted command. -/
  | ixuExecute (core : Nat)
  /-- R184. A due timer traps at a fragment's issue. -/
  | timerFire (team : Nat)
  /-- R359. A launch's period passes; first stop, then termination. -/
  | watchdogFire (launch : Nat)
  /-- R280. At each 10 µs interval quads bid and grants are loaded. -/
  | powerInterval
  /-- R284. A team withheld for 64 passed pulses becomes exempt. -/
  | issueFloorExempt (team : Nat)
  /-- R286. Every 100 µs the die temperature moves the thermal state. -/
  | thermalSample (die : Nat) (quarterDegrees : Int)
  /-- R211. Every 4096 cycles one row of each bank is read and corrected. -/
  | sramScrub (core : Nat) (row : Nat) (err : ErrKind)
  /-- R311. The patrol scrubber reads a raw HBM line in free cycles. -/
  | patrolScrub (line : Nat) (err : ErrKind)
  /-- R354. A frame changing owner has been zeroed and the parked access proceeds. -/
  | frameZeroDone (die : Nat) (frame : Nat)
  /-- R353. An error not pinned to a tag resets the package, saving uninvolved contexts. -/
  | warmReset (implicated : List (BitVec 12))
  /-- R360. Power-on or cold reset starts the ROM boot. -/
  | coldReset
  /-- R360. ROM verifies the firmware and the Bureau starts. -/
  | bootFirmwareVerified
  /-- R360. Stage-2 has been fetched. -/
  | bootStage2Fetched
  /-- R360. A valid stage-2 enters RUN and enables dispatch. -/
  | bootVerified
  /-- R360. A boot failure returns to ROM with the other image. -/
  | bootFailure (reason : Nat)
  /-- R360. No RUN within 60 s returns to ROM. -/
  | bootTimeout
  /-- R343. A 128-byte packet write is appended to a queue or refused. -/
  | launchPacketWrite (src : PktSrc) (queue : Nat) (offset : Nat) (data : List (BitVec 8))
  /-- R346. The dispatcher takes a ready head candidate and checks its header. -/
  | launchDispatch
  /-- R348. A team is placed on the first fitting core as capacity frees. -/
  | teamPlace (launch : Nat)
  /-- R347. After the last team retires, write-backs end and SIG advances. -/
  | launchComplete (launch : Nat)
  /-- R344. Reconfigures a queue once it is empty and idle. -/
  | qcfgWrite (queue : Nat) (value : BitVec 32)
  /-- R349. Validates or frees a context slot. -/
  | cxctlWrite (slot : Nat) (value : BitVec 32)
  /-- R356. Stops and saves every team of the context. -/
  | cxcmdPreempt (slot : Nat)
  /-- R350. Resumes a stopped or saved context. -/
  | cxcmdResume (slot : Nat)
  /-- R352. Terminates a context and writes its termination record. -/
  | cxcmdTerminate (slot : Nat)
  /-- R355. A VF reset terminates its contexts and revokes their records. -/
  | vfReset (vf : Nat)
  /-- R209. Starts draining a core or returns a retired core to service. -/
  | cstateWrite (core : Nat) (value : BitVec 32)
  /-- R314. Remaps physical quads when their cores are retired. -/
  | dqmapWrite (die : Nat) (value : BitVec 64)
  /-- R301. Removes matching translations from every TLB of the package. -/
  | xinvWrite (die : Nat) (value : BitVec 64)
  /-- R301. All accesses translated by removed entries have finished; DONE reads 1. -/
  | xinvDone (die : Nat)
  /-- R304. OUTCOME 0 makes the walker walk a pending entry again. -/
  | fbresRewalk (die : Nat) (entry : Nat)
  /-- R304. OUTCOME 1 turns every waiter into PERM INFO 1. -/
  | fbresFail (die : Nat) (entry : Nat)
  /-- R304. A successful re-walk replays the waiters in list order. -/
  | waiterReplay (die : Nat) (entry : Nat)
  /-- R296. Configures a copy context once its queue is empty. -/
  | cctxWrite (die : Nat) (ctx : Nat) (value : BitVec 32)
  /-- R422. Arms an error injection at a data line. -/
  | deinjWrite (die : Nat) (value : BitVec 64)
  /-- R282. Sets the package power budget, clamped to 416–3200. -/
  | pbudgetWrite (value : BitVec 32)
  /-- R370. Enables activities or sets the timeout, clamped. -/
  | actcfgWrite (value : BitVec 32)
  /-- R386. Enables a page pool and initialises its list, or discards it. -/
  | poolctlWrite (pool : Nat) (value : BitVec 64)
  /-- R388. Enables the state store and frees every slot. -/
  | sscfgWrite (value : BitVec 64)
  /-- R441. Enables a pod barrier channel and records its counter bases. -/
  | pbcfgWrite (chan : Nat) (value : BitVec 64)
  /-- R439. All members' arrivals complete a generation and RELEASE advances. -/
  | podBarrierRelease (chan : Nat)
  /-- R406. A BCTL HALT write freezes the bench. -/
  | benchHalt (core : Nat) (bench : Nat)
  /-- R405. A BCTL CLAIM write makes the issuing team the claimant. -/
  | benchClaim (core : Nat) (bench : Nat) (team : Nat)
  /-- R407. The halt broadcast arrives and freezes another bench of the context. -/
  | haltBroadcast (core : Nat) (bench : Nat)
  /-- R410. A breakpoint comparator hits before an issue and freezes the bench. -/
  | comparatorHit (team : Nat) (comp : Nat)
  /-- R411. The sample period passes and a sample record is written. -/
  | benchSample (core : Nat) (bench : Nat)
  /-- R378. A compensation returns its status and the walk proceeds. -/
  | compensationDone (launch : Nat)
  /-- R379. The later holder of a key lets it go and the walk proceeds. -/
  | keyWaitEnd (tag : BitVec 12) (slot : Nat)
  /-- R379. A key wait exceeds TMO and the activity becomes ENTANGLED. -/
  | keyWaitTimeout (tag : BitVec 12) (slot : Nat)
  /-- R435. A pod-window request from a peer is admitted and performed at the home package. -/
  | podAccess (pkg : Nat) (stag : BitVec 12) (va : BitVec 64) (op : ExtOp)
  /-- R432. A request unacknowledged for 10 ms raises PERM INFO 8. -/
  | fabricAckTimeout (team : Nat)
  /-- R433. A failing link lane is replaced by the spare. -/
  | laneSwap (link : Nat)
  /-- R442. A host BAR 2 access is translated and performed at the home slices. -/
  | hostAccess (fn : Nat) (offset : Nat) (op : ExtOp)
  /-- R443. An RDMA work completion advances its timeline. -/
  | rdmaCompletion (fn : Nat) (timeline : Nat) (value : BitVec 64)
  /-- R10. A write to a register with no behaviour of its own. -/
  | registerWrite (pa : Nat) (value : BitVec 64)
  /-- R441. A flit that arrives with a failed CRC is resent by link-level retry and counted in TLINK.RETRIES. -/
  | linkLevelRetry (link : Nat)
  /-- R441. A Trestle link finishes training and starts carrying flits, or stops carrying them, which changes TLINK.UP. -/
  | linkTrained (link : Nat) (up : Bool) (peer : Nat)
  deriving DecidableEq, Repr

end Sys2Proof
end

