-- ==== Sys2Proof/Machine/Limits.lean ====
section
/-! DEFINITION. The limits of operands that the encoding tables state (R44, R53, R54, R56, R72, R142). -/

namespace Sys2Proof

/-- The conditions of CMP (R52). -/
def Cc.cmpOk : Cc → Bool
  | .un | .or => false
  | _ => true

/-- The conditions of FCMP and DCMP (R52). -/
def Cc.fcmpOk : Cc → Bool
  | .lo | .ls | .hi | .hs => false
  | _ => true

/-- The floating-point types of CVT (R54). -/
def CvtTy.isFloat : CvtTy → Bool
  | .f32 | .f64 | .f16 | .bf16 => true
  | _ => false

/-- The 64-bit types of CVT (R54). -/
def CvtTy.is64 : CvtTy → Bool
  | .f64 | .i64 | .n64 => true
  | _ => false

/-- The 64-bit special registers (R56). -/
def SpecReg.wide : SpecReg → Bool
  | .tcyc | .gtime | .rentry | .uhvec | .emupc => true
  | _ => false

/-- The special registers that SWRITE accepts (R56). -/
def SpecReg.writable : SpecReg → Bool
  | .cc | .fpsf | .uhvec => true
  | _ => false

/-- A value that FMT may hold: no reserved code and no nonzero reserved bit (R72, R73). -/
def fmtLegal (v : BitVec 32) : Bool :=
  let n := v.toNat
  decide (n < 0x10000) && decide (n / 256 % 8 ≤ 2) && decide (n / 16 % 16 ≤ 10) && decide (n % 16 ≤ 10)

/-- Bytes, signedness and words of a width (R216). -/
def Width.bytes : Width → Nat
  | .i8 | .n8 => 1
  | .i16 | .n16 => 2
  | .w32 => 4
  | .w64 => 8

/-- Whether a load of a width extends by sign. -/
def Width.signed : Width → Bool
  | .i8 | .i16 => true
  | _ => false

/-- The stack entries of a width. -/
def Width.entries : Width → Nat
  | .w64 => 2
  | _ => 1

/-- The scope codes in order. -/
def Scope.rank : Scope → Nat
  | .core => 0
  | .quad => 1
  | .die => 2
  | .pkg => 3
  | .pod => 4
  | .sys => 5

end Sys2Proof
end

