-- ==== Sys2Proof/Machine/Float.lean ====
section
/-! DEFINITION. Floating-point values and exact arithmetic with one rounding (R103 to R111, R113, R114). -/

namespace Sys2Proof.Machine

/-- A floating-point format: exponent bits and fraction bits (R103). -/
structure FFmt where
  eb : Nat
  fb : Nat
  deriving DecidableEq, Repr

/-- binary32 (R103). -/
def f32F : FFmt := ⟨8, 23⟩
/-- binary64 (R103). -/
def f64F : FFmt := ⟨11, 52⟩
/-- binary16 (R103). -/
def f16F : FFmt := ⟨5, 10⟩
/-- bf16, the upper half of binary32 (R103). -/
def bf16F : FFmt := ⟨8, 7⟩

/-- The width of a format in bits. -/
def FFmt.width (F : FFmt) : Nat := 1 + F.eb + F.fb
/-- The exponent bias. -/
def FFmt.bias (F : FFmt) : Int := 2 ^ (F.eb - 1) - 1
/-- The exponent of the least subnormal, 2 to this power. -/
def FFmt.emin (F : FFmt) : Int := 1 - F.bias - F.fb
/-- The bits of +∞. -/
def FFmt.infBits (F : FFmt) : Nat := (2 ^ F.eb - 1) * 2 ^ F.fb
/-- The sign bit. -/
def FFmt.signBit (F : FFmt) : Nat := 2 ^ (F.eb + F.fb)
/-- The canonical quiet NaN, sign clear (R23, R108). -/
def FFmt.qnan (F : FFmt) : Nat := F.infBits + 2 ^ (F.fb - 1)

/-- The rounding modes of R105. -/
inductive RMode
  | rn | rz | ru | rd
  deriving DecidableEq, Repr

/-- The five flags of FPSF (R71). -/
abbrev Flags := BitVec 5
/-- No flag. -/
def flNone : Flags := 0
/-- NV, invalid operation. -/
def flNV : Flags := 1
/-- DZ, division by zero. -/
def flDZ : Flags := 2
/-- OF, overflow. -/
def flOF : Flags := 4
/-- UF, underflow. -/
def flUF : Flags := 8
/-- NX, inexact. -/
def flNX : Flags := 16

/-- A flag, where a condition holds. -/
def flIf (b : Bool) (f : Flags) : Flags := if b then f else 0

/-- The bits of a result and the flags it raises. -/
structure FRes where
  bits : Nat
  fl : Flags
  deriving DecidableEq, Repr

/-- A floating-point value: a NaN (signalling or not), an infinity, or (−1)^neg × m × 2^e. -/
inductive FV
  | nan (signalling : Bool)
  | inf (neg : Bool)
  | fin (neg : Bool) (m : Nat) (e : Int)
  deriving DecidableEq, Repr

/-- The value of a bit pattern; under FTZ a subnormal reads as a zero of its sign (R103, R107). -/
def unpack (F : FFmt) (ftz : Bool) (b : Nat) : FV :=
  let neg := b / F.signBit % 2 == 1
  let ex := b / 2 ^ F.fb % 2 ^ F.eb
  let fr := b % 2 ^ F.fb
  if ex = 2 ^ F.eb - 1 then
    if fr = 0 then .inf neg else .nan (fr / 2 ^ (F.fb - 1) == 0)
  else if ex = 0 then .fin neg (if ftz then 0 else fr) F.emin
  else .fin neg (2 ^ F.fb + fr) (F.emin + (ex : Int) - 1)

/-- The bits with a sign. -/
def withSign (F : FFmt) (neg : Bool) (n : Nat) : Nat := if neg then F.signBit + n else n

/-- The overflowed result of a sign in a mode (R106). -/
def overflowBits (F : FFmt) (md : RMode) (neg : Bool) : Nat :=
  let toInf := match md with
    | .rn => true
    | .rz => false
    | .ru => !neg
    | .rd => neg
  withSign F neg (if toInf then F.infBits else F.infBits - 1)

/-- Whether a magnitude is rounded up: half and above tell the discarded part against one half of the last place. -/
def roundsUp (md : RMode) (neg odd : Bool) (cmpHalf : Ordering) (inexact : Bool) : Bool :=
  match md with
  | .rn => match cmpHalf with
    | .lt => false
    | .eq => odd
    | .gt => true
  | .rz => false
  | .ru => inexact && !neg
  | .rd => inexact && neg

/-- m × 2^sh (or ÷ 2^-sh) as an integer rounded in a mode, with sticky saying that the exact value lies
strictly above m × 2^e by less than one unit of m; second component: inexact. -/
def roundShift (md : RMode) (neg : Bool) (m : Nat) (sh : Int) (sticky : Bool) : Nat × Bool :=
  match sh with
  | .ofNat k =>
    if k = 0 then
      let up := roundsUp md neg (m % 2 == 1) .lt sticky
      (if up then m + 1 else m, sticky)
    else
      let q := m / 2 ^ k
      let r := m % 2 ^ k
      let half := 2 ^ (k - 1)
      let c : Ordering := if r < half then .lt else if r = half then (if sticky then .gt else .eq) else .gt
      let inex := r != 0 || sticky
      (if roundsUp md neg (q % 2 == 1) c inex then q + 1 else q, inex)
  | .negSucc k => (m * 2 ^ (k + 1), sticky)

/-- The result of rounding (−1)^neg × m × 2^e once to a format (R105 to R107); sticky says that the exact magnitude
lies strictly above by less than 2^e, and m then has at least two bits more than the format. -/
def roundPack (F : FFmt) (md : RMode) (ftz neg : Bool) (m : Nat) (e : Int) (sticky : Bool) : FRes :=
  if m = 0 && !sticky then ⟨withSign F neg 0, 0⟩
  else
    let L : Int := bitLen m
    let qn := e + L - (F.fb + 1)
    let q := max qn F.emin
    let (n, inex) := roundShift md neg m (q - e) sticky
    let mag := ((q - F.emin).toNat) * 2 ^ F.fb + n
    if F.infBits ≤ mag then ⟨overflowBits F md neg, flOF ||| flNX⟩
    else
      -- tininess after rounding: the magnitude rounded with unbounded exponent lies below the least normal
      let n' := (roundShift md neg m (qn - e) sticky).1
      let tiny := decide (qn < F.emin) && !(decide (n' = 2 ^ (F.fb + 1)) && decide (qn + 1 = F.emin))
      if ftz && decide (mag < 2 ^ F.fb) && mag != 0 then ⟨withSign F neg 0, flUF ||| flNX⟩
      else ⟨withSign F neg mag, flIf inex flNX ||| flIf (tiny && inex) flUF⟩

/-- The canonical NaN with the NV flag where a condition holds. -/
def nanRes (F : FFmt) (nv : Bool) : FRes := ⟨F.qnan, flIf nv flNV⟩

/-- A signalling NaN. -/
def FV.isSNaN : FV → Bool
  | .nan s => s
  | _ => false

/-- A NaN. -/
def FV.isNaN : FV → Bool
  | .nan _ => true
  | _ => false

/-- The value with its sign inverted. -/
def FV.negate : FV → FV
  | .nan s => .nan s
  | .inf n => .inf (!n)
  | .fin n m e => .fin (!n) m e

/-- A finite value as a signed integer over 2^q, for q at or below its exponent. -/
def scaleTo (neg : Bool) (m : Nat) (e q : Int) : Int :=
  let v : Int := m * 2 ^ (e - q).toNat
  if neg then -v else v

/-- Rounding of a signed integer over 2^q; an exact zero takes the sign given. -/
def roundInt2 (F : FFmt) (md : RMode) (ftz : Bool) (v : Int) (q : Int) (zneg : Bool) : FRes :=
  if v = 0 then ⟨withSign F zneg 0, 0⟩
  else roundPack F md ftz (decide (v < 0)) v.natAbs q false

/-- The sign of an exact zero sum (R106). -/
def zeroSign (md : RMode) (na nb : Bool) : Bool :=
  if na == nb then na else md == .rd

/-- The sum of two values. -/
def faddV (F : FFmt) (md : RMode) (ftz : Bool) (a b : FV) : FRes :=
  match a, b with
  | .nan s, y => nanRes F (s || y.isSNaN)
  | x, .nan s => nanRes F (s || x.isSNaN)
  | .inf n, .inf k => if n == k then ⟨withSign F n F.infBits, 0⟩ else nanRes F true
  | .inf n, _ => ⟨withSign F n F.infBits, 0⟩
  | _, .inf n => ⟨withSign F n F.infBits, 0⟩
  | .fin na ma ea, .fin nb mb eb =>
    let q := min ea eb
    roundInt2 F md ftz (scaleTo na ma ea q + scaleTo nb mb eb q) q (zeroSign md na nb)

/-- The exact product of two values; none for 0 × ∞. -/
def mulV : FV → FV → Option FV
  | .nan s, .nan t => some (.nan (s || t))
  | .nan s, _ => some (.nan s)
  | _, .nan s => some (.nan s)
  | .inf n, .inf k => some (.inf (n != k))
  | .inf n, .fin k m _ => if m = 0 then none else some (.inf (n != k))
  | .fin k m _, .inf n => if m = 0 then none else some (.inf (n != k))
  | .fin n m e, .fin k m' e' => some (.fin (n != k) (m * m') (e + e'))

/-- The value rounded to a format. -/
def roundV (F : FFmt) (md : RMode) (ftz : Bool) : FV → FRes
  | .nan s => nanRes F s
  | .inf n => ⟨withSign F n F.infBits, 0⟩
  | .fin n m e => roundPack F md ftz n m e false

/-- The product of two values. -/
def fmulV (F : FFmt) (md : RMode) (ftz : Bool) (a b : FV) : FRes :=
  match mulV a b with
  | none => nanRes F true
  | some p => roundV F md ftz p

/-- a × b + c with one rounding; 0 × ∞ is invalid whatever c is (R109). -/
def ffmaV (F : FFmt) (md : RMode) (ftz : Bool) (a b c : FV) : FRes :=
  match mulV a b with
  | none => nanRes F true
  | some p => faddV F md ftz p c

/-- The quotient, correctly rounded. -/
def fdivV (F : FFmt) (md : RMode) (ftz : Bool) (a b : FV) : FRes :=
  match a, b with
  | .nan s, y => nanRes F (s || y.isSNaN)
  | _, .nan s => nanRes F s
  | .inf _, .inf _ => nanRes F true
  | .inf n, .fin k _ _ => ⟨withSign F (n != k) F.infBits, 0⟩
  | .fin n _ _, .inf k => ⟨withSign F (n != k) 0, 0⟩
  | .fin n m e, .fin k m' e' =>
    if m' = 0 then (if m = 0 then nanRes F true else ⟨withSign F (n != k) F.infBits, flDZ⟩)
    else if m = 0 then ⟨withSign F (n != k) 0, 0⟩
    else
      let sh := 2 * F.fb + 8
      let num := m * 2 ^ sh
      roundPack F md ftz (n != k) (num / m') (e - e' - sh) (num % m' != 0)

/-- The square root, correctly rounded; √−0 = −0. -/
def fsqrtV (F : FFmt) (md : RMode) (ftz : Bool) (a : FV) : FRes :=
  match a with
  | .nan s => nanRes F s
  | .inf n => if n then nanRes F true else ⟨F.infBits, 0⟩
  | .fin n m e =>
    if m = 0 then ⟨withSign F n 0, 0⟩
    else if n then nanRes F true
    else
      let sh := 2 * F.fb + 8
      let odd := (e - 2 * sh) % 2
      let k := m * 2 ^ (2 * sh + odd.toNat)
      let r := isqrt k
      roundPack F md ftz false r ((e - 2 * sh - odd) / 2) (r * r != k)

/-- −0 below +0, then by value: whether a is below b (R110). -/
def ltTotal (na : Bool) (ma : Nat) (ea : Int) (nb : Bool) (mb : Nat) (eb : Int) : Bool :=
  let q := min ea eb
  let x := scaleTo na ma ea q
  let y := scaleTo nb mb eb q
  if x = 0 && y = 0 then na && !nb else decide (x < y)

/-- Whether a is below b for values that are not NaN, −0 below +0. -/
def FV.lt : FV → FV → Bool
  | .inf n, .inf k => n && !k
  | .inf n, _ => n
  | _, .inf k => !k
  | .fin na ma ea, .fin nb mb eb => ltTotal na ma ea nb mb eb
  | _, _ => false

/-- minimumNumber (mx false) or maximumNumber (mx true) of two bit patterns (R110). -/
def fminmax (F : FFmt) (mx ftz : Bool) (a b : Nat) : FRes :=
  let x := unpack F ftz a
  let y := unpack F ftz b
  let nv := flIf (x.isSNaN || y.isSNaN) flNV
  let px := (roundV F .rn false x).bits
  let py := (roundV F .rn false y).bits
  if x.isNaN && y.isNaN then ⟨F.qnan, nv⟩
  else if x.isNaN then ⟨py, nv⟩
  else if y.isNaN then ⟨px, nv⟩
  else if (if mx then y.lt x else x.lt y) then ⟨px, nv⟩ else ⟨py, nv⟩

/-- FABS, FNEG, DABS, DNEG: no flush, NaN to canonical (R107, R108). -/
def fsign (F : FFmt) (neg : Bool) (a : Nat) : FRes :=
  match unpack F false a with
  | .nan s => nanRes F s
  | _ =>
    let mag := a % F.signBit
    ⟨if neg then (if a / F.signBit % 2 = 1 then mag else F.signBit + mag) else mag, 0⟩

/-- The comparison of two bit patterns under a condition of FCMP or DCMP, and its flag (R111). -/
def fcmp (F : FFmt) (ftz : Bool) (cc : Cc) (a b : Nat) : Bool × Flags :=
  let x := unpack F ftz a
  let y := unpack F ftz b
  let nan := x.isNaN || y.isNaN
  let snan := x.isSNaN || y.isSNaN
  let zero : FV → Bool := fun v => match v with
    | .fin _ m _ => m == 0
    | _ => false
  let eq := !nan && ((zero x && zero y) || (!x.lt y && !y.lt x))
  let lt := !nan && !eq && x.lt y
  let ordered := flIf nan flNV
  let quiet := flIf snan flNV
  match cc with
  | .eq => (eq, quiet)
  | .ne => (!eq, quiet)
  | .lt => (lt, ordered)
  | .le => (lt || eq, ordered)
  | .gt => (!nan && !lt && !eq, ordered)
  | .ge => (!nan && !lt, ordered)
  | .un => (nan, quiet)
  | .or => (!nan, quiet)
  | .lo | .ls | .hi | .hs => (false, quiet)

/-- (−1)^neg × m × 2^e rounded to an integer in a mode, and whether that changed it. -/
def toIntegral (md : RMode) (neg : Bool) (m : Nat) (e : Int) : Int × Bool :=
  let (n, inex) := roundShift md neg m (-e) false
  (if neg then -(n : Int) else n, inex)

/-- FRND: an integral value of the same format, no NX (R140). -/
def frnd (F : FFmt) (md : RMode) (ftz : Bool) (a : Nat) : FRes :=
  match unpack F ftz a with
  | .nan s => nanRes F s
  | .inf n => ⟨withSign F n F.infBits, 0⟩
  | .fin n m e =>
    let v := (toIntegral md n m e).1
    ⟨(roundPack F md false n v.natAbs 0 false).bits, 0⟩

/-- A conversion between floating-point formats (R113). -/
def fcvt (G F : FFmt) (md : RMode) (ftz : Bool) (a : Nat) : FRes := roundV F md ftz (unpack G ftz a)

/-- A conversion from an integer to a floating-point format (R113). -/
def icvt (F : FFmt) (md : RMode) (ftz : Bool) (x : Int) : FRes := roundInt2 F md ftz x 0 false

/-- The limits of an integer type of w bits. -/
def intLo (signed : Bool) (w : Nat) : Int := if signed then -(2 ^ (w - 1)) else 0
/-- The greatest value of an integer type of w bits. -/
def intHi (signed : Bool) (w : Nat) : Int := if signed then 2 ^ (w - 1) - 1 else 2 ^ w - 1

/-- A conversion from a floating-point value to an integer type: the value and the flags (R114). -/
def ftoi (md : RMode) (sat signed : Bool) (w : Nat) (v : FV) : Int × Flags :=
  let indef := if signed then intLo true w else intHi false w
  match v with
  | .nan _ => (if sat then 0 else indef, flNV)
  | .inf n => (if sat then (if n then intLo signed w else intHi signed w) else indef, flNV)
  | .fin n m e =>
    let (x, inex) := toIntegral md n m e
    if x < intLo signed w then (if sat then intLo signed w else indef, flNV)
    else if intHi signed w < x then (if sat then intHi signed w else indef, flNV)
    else (x, flIf inex flNX)

/-- The least multiple of the exponent over a list of finite values, for an exact sum. -/
def minExp : List FV → Int → Int
  | [], q => q
  | .fin _ _ e :: r, q => minExp r (min e q)
  | _ :: r, q => minExp r q

/-- The exact sum of values as one value: NaN for a NaN or opposite infinities; a zero sum is +0 unless
every term is −0 (R117). -/
def exactSum (l : List FV) : FV :=
  if l.any FV.isNaN then .nan false
  else
    let pos := l.any (fun v => v == .inf false)
    let neg := l.any (fun v => v == .inf true)
    if pos && neg then .nan false
    else if pos then .inf false
    else if neg then .inf true
    else
      let q := minExp l 0
      let s := l.foldl (fun (acc : Int) v => match v with
        | .fin n m e => acc + scaleTo n m e q
        | _ => acc) 0
      if s = 0 then
        .fin (l != [] && l.all (fun v => match v with
          | .fin n m _ => n && m == 0
          | _ => false)) 0 q
      else .fin (decide (s < 0)) s.natAbs q

end Sys2Proof.Machine
end

