-- ==== Sys2Proof/Machine/Approx.lean ====
section
/-! DEFINITION. FRCP, FRSQ, FEXP2, FLOG2, FSIN, FCOS and FTANH: the exact value correctly rounded to f32 (R112).
Each function is enclosed in a fixed-point interval, whose two ends are rounded; the precision is raised until both
ends round alike. -/

namespace Sys2Proof.Machine

/-- Product of two fixed-point numbers with P fraction bits, truncated towards −∞. -/
def fxMul (P : Nat) (a b : Int) : Int := (a * b) / (2 ^ P : Int)

/-- One as a fixed-point number. -/
def fxOne (P : Nat) : Int := 2 ^ P

/-- Σ z^(2k+1)/(2k+1) for k < n, alternating when alt: atanh z, or arctan z; pw is the current power, z2 is z squared. -/
def oddSeries (P : Nat) (alt : Bool) (z2 : Int) : Nat → Nat → Int → Int → Int
  | 0, _, _, acc => acc
  | n + 1, k, pw, acc =>
    let t := pw / ((2 * k + 1 : Nat) : Int)
    let acc' := if alt && k % 2 == 1 then acc - t else acc + t
    oddSeries P alt z2 n (k + 1) (fxMul P pw z2) acc'

/-- atanh of a fixed-point z with |z| ≤ 1/3. -/
def fxAtanh (P : Nat) (z : Int) : Int := oddSeries P false (fxMul P z z) (P / 3 + 4) 0 z 0

/-- ln 2 = 2 atanh(1/3). -/
def fxLn2 (P : Nat) : Int := 2 * fxAtanh P (fxOne P / 3)

/-- arctan(1/n) for n ≥ 5. -/
def fxAtanInv (P n : Nat) : Int :=
  let z := fxOne P / (n : Int)
  oddSeries P true (fxMul P z z) (P / 4 + 4) 0 z 0

/-- π by Machin's formula. -/
def fxPi (P : Nat) : Int := 16 * fxAtanInv P 5 - 4 * fxAtanInv P 239

/-- Σ x^k/k! from the term t of index k on, n terms; alt and step choose exp (step 1), or sin and cos (step 2, alternating). -/
def facSeries (P step : Nat) (alt : Bool) (x : Int) : Nat → Nat → Int → Bool → Int → Int
  | 0, _, _, _, acc => acc
  | n + 1, k, t, minus, acc =>
    let acc' := if minus then acc - t else acc + t
    let t1 := fxMul P t x / ((k + 1 : Nat) : Int)
    let t2 := if step = 2 then fxMul P t1 x / ((k + 2 : Nat) : Int) else t1
    facSeries P step alt x n (k + step) t2 (if alt then !minus else false) acc'

/-- exp of a fixed-point x in 0 to 1. -/
def fxExp (P : Nat) (x : Int) : Int := facSeries P 1 false x (P / 3 + 8) 0 (fxOne P) false 0
/-- sin of a fixed-point x with |x| ≤ 1. -/
def fxSin (P : Nat) (x : Int) : Int := facSeries P 2 true x (P / 5 + 8) 1 x false 0
/-- cos of a fixed-point x with |x| ≤ 1. -/
def fxCos (P : Nat) (x : Int) : Int := facSeries P 2 true x (P / 5 + 8) 0 (fxOne P) false 0

/-- The rounding of an enclosed value v × 2^q, v between v − err and v + err and the exact value in neither end:
none when the two ends round differently. -/
def enclose (ftz : Bool) (v err : Int) (q : Int) : Option FRes :=
  let rnd := fun (x : Int) => roundPack f32F .rn ftz (decide (x < 0)) (4 * x.natAbs) (q - 2) true
  let a := rnd (v - err)
  let b := rnd (v + err)
  if a = b then some a else none

/-- The greatest accumulated truncation error of the series above, in units of the last place: fewer than 2^10
operations of one unit each, magnified by less than 2^6. -/
def fxErr : Int := 2 ^ 16

/-- The first enclosure that decides the rounding, over rising precisions; the last one's lower end if none does. -/
def decideRnd (ftz : Bool) (approx : Nat → Int × Int) : List Nat → FRes
  | [] => ⟨f32F.qnan, flNV⟩
  | [P] =>
    let (v, q) := approx P
    (enclose ftz v fxErr q).getD (roundPack f32F .rn ftz (decide (v < 0)) (4 * v.natAbs) (q - 2) true)
  | P :: r =>
    let (v, q) := approx P
    match enclose ftz v fxErr q with
    | some x => x
    | none => decideRnd ftz approx r

/-- The precisions tried. -/
def precisions : List Nat := [96, 160, 288]

/-- A value just below (−1)^neg m 2^e in magnitude, by less than one part in 2^26: sin x and tanh x of a small x. -/
def justBelow (ftz neg : Bool) (m : Nat) (e : Int) : FRes :=
  roundPack f32F .rn ftz neg (m * 2 ^ 40 - 1) (e - 40) true

/-- FRCP (R112). -/
def frcp (ftz : Bool) (a : Nat) : FRes :=
  fdivV f32F .rn ftz (.fin false 1 0) (unpack f32F ftz a)

/-- FRSQ (R112). -/
def frsq (ftz : Bool) (a : Nat) : FRes :=
  match unpack f32F ftz a with
  | .nan s => nanRes f32F s
  | .inf n => if n then nanRes f32F true else ⟨0, 0⟩
  | .fin n m e =>
    if m = 0 then ⟨withSign f32F n f32F.infBits, flDZ⟩
    else if n then nanRes f32F true
    else
      let odd := (e % 2).toNat
      let m' := m * 2 ^ odd
      let k := 2 ^ 160 / m'
      let r := isqrt k
      -- 1/√(m' 2^e') = √(2^160/m') × 2^(−80 − e'/2)
      roundPack f32F .rn ftz false r (-80 - (e - odd) / 2) (r * r * m' != 2 ^ 160)

/-- m × 2^e as a fixed-point number with P fraction bits, truncated towards −∞. -/
def toFx (P : Nat) (neg : Bool) (m : Nat) (e : Int) : Int :=
  let x : Int := if neg then -(m : Int) else m
  match e + P with
  | .ofNat k => x * 2 ^ k
  | .negSucc k => x / 2 ^ (k + 1)

/-- FEXP2 (R112). -/
def fexp2 (ftz : Bool) (a : Nat) : FRes :=
  match unpack f32F ftz a with
  | .nan s => nanRes f32F s
  | .inf n => ⟨if n then 0 else f32F.infBits, 0⟩
  | .fin n m e =>
    if m = 0 then ⟨0x3F800000, 0⟩
    else if decide (8 ≤ e + bitLen m - 1) then
      -- |x| ≥ 256: beyond both ends of the range
      if n then roundPack f32F .rn ftz false 1 (-400) true else roundPack f32F .rn ftz false 1 400 false
    else
      let w := toFx 0 n m e
      let exact := if e < 0 then m % 2 ^ (-e).toNat == 0 else true
      if exact then roundPack f32F .rn ftz false 1 w false
      else
        decideRnd ftz (fun P =>
          let f := toFx P n m e - w * 2 ^ P
          (fxExp P (fxMul P f (fxLn2 P)), w - P)) precisions

/-- FLOG2 (R112). -/
def flog2 (ftz : Bool) (a : Nat) : FRes :=
  match unpack f32F ftz a with
  | .nan s => nanRes f32F s
  | .inf n => if n then nanRes f32F true else ⟨f32F.infBits, 0⟩
  | .fin n m e =>
    if m = 0 then ⟨f32F.signBit + f32F.infBits, flDZ⟩
    else if n then nanRes f32F true
    else
      let l := bitLen m
      if m = 2 ^ (l - 1) then icvt f32F .rn ftz (e + l - 1)
      else
        -- x = y × 2^k with y in 3/4 to 3/2
        let k0 : Int := e + l - 1
        let big := decide (3 * 2 ^ l ≤ 4 * m)
        let k := if big then k0 + 1 else k0
        decideRnd ftz (fun P =>
          let y := toFx P false m (e - k)
          let z := (y - fxOne P) * 2 ^ P / (y + fxOne P)
          (k * 2 ^ P + 2 * fxAtanh P z * 2 ^ P / fxLn2 P, -(P : Int))) precisions

/-- The reduced argument of sin and cos: the quadrant and the fixed-point remainder, |r| ≤ π/4 (R112). -/
def reducePi (P : Nat) (m : Nat) (e : Int) : Nat × Int :=
  let Q := P + 140
  let x := toFx Q false m e
  let h := fxPi Q / 2
  let k := (2 * x + h) / (2 * h)
  ((k % 4).toNat, (x - k * h) / 2 ^ 140)

/-- FSIN and FCOS of a finite value: cosine where quarter is 1 (R112). -/
def sinCos (ftz : Bool) (quarter : Nat) (a : Nat) : FRes :=
  match unpack f32F ftz a with
  | .nan s => nanRes f32F s
  | .inf _ => nanRes f32F true
  | .fin n m e =>
    if m = 0 then (if quarter = 1 then ⟨0x3F800000, 0⟩ else ⟨withSign f32F n 0, 0⟩)
    else if quarter = 0 && decide (e + bitLen m ≤ -13) then justBelow ftz n m e
    else
      decideRnd ftz (fun P =>
        let (k, r) := reducePi P m e
        let s := (k + quarter) % 4
        let v := if s % 2 = 0 then fxSin P r else fxCos P r
        let v := if 2 ≤ s then -v else v
        (if n && quarter == 0 then -v else v, -(P : Int))) precisions

/-- FSIN. -/
def fsin (ftz : Bool) (a : Nat) : FRes := sinCos ftz 0 a
/-- FCOS. -/
def fcos (ftz : Bool) (a : Nat) : FRes := sinCos ftz 1 a

/-- FTANH (R112). -/
def ftanh (ftz : Bool) (a : Nat) : FRes :=
  match unpack f32F ftz a with
  | .nan s => nanRes f32F s
  | .inf n => ⟨withSign f32F n 0x3F800000, 0⟩
  | .fin n m e =>
    if m = 0 then ⟨withSign f32F n 0, 0⟩
    else if e + bitLen m ≤ -13 then justBelow ftz n m e
    else if 6 ≤ e + bitLen m then roundPack f32F .rn ftz n (2 ^ 60 - 1) (-60) true
    else
      -- tanh x = (1 − u)/(1 + u) with u = e^(−2|x|) = 2^(−k) / e^r
      decideRnd ftz (fun P =>
        let t := 2 * toFx P false m e
        let ln2 := fxLn2 P
        let k := t / ln2
        let r := t - k * ln2
        let u := (fxOne P * fxOne P / fxExp P r) / 2 ^ k.toNat
        let v := (fxOne P - u) * fxOne P / (fxOne P + u)
        (if n then -v else v, -(P : Int))) precisions

end Sys2Proof.Machine
end

