-- ==== Sys2Proof/Decode.lean ====
section
/-! DEFINITION. The decoder, total on any parcels and rejecting with the cause of R58, and the encoder (R42 to R59). -/

namespace Sys2Proof

/-- The code of this operand (The rounding selectors of R53). -/
def Rnd.code : Rnd → Nat
  | .fmt => 0
  | .rn => 1
  | .rz => 2
  | .ru => 3
  | .rd => 4

/-- The operand of this code, where there is one. -/
def Rnd.ofCode : Nat → Option Rnd
  | 0 => some .fmt
  | 1 => some .rn
  | 2 => some .rz
  | 3 => some .ru
  | 4 => some .rd
  | _ => none

/-- The code of this operand (The condition codes of CMP). -/
def Cc.code : Cc → Nat
  | .eq => 0
  | .ne => 1
  | .lt => 2
  | .le => 3
  | .gt => 4
  | .ge => 5
  | .lo => 6
  | .ls => 7
  | .hi => 8
  | .hs => 9
  | .un => 10
  | .or => 11

/-- The operand of this code, where there is one. -/
def Cc.ofCode : Nat → Option Cc
  | 0 => some .eq
  | 1 => some .ne
  | 2 => some .lt
  | 3 => some .le
  | 4 => some .gt
  | 5 => some .ge
  | 6 => some .lo
  | 7 => some .ls
  | 8 => some .hi
  | 9 => some .hs
  | 10 => some .un
  | 11 => some .or
  | _ => none

/-- The code of this operand (The conditions of BRC (R55)). -/
def BrCond.code : BrCond → Nat
  | .eq => 1
  | .ne => 2
  | .lt => 3
  | .ge => 4
  | .le => 5
  | .gt => 6
  | .lo => 7
  | .hs => 8
  | .ls => 9
  | .hi => 10
  | .mz => 11
  | .mnz => 12
  | .f => 13
  | .nf => 14

/-- The operand of this code, where there is one. -/
def BrCond.ofCode : Nat → Option BrCond
  | 1 => some .eq
  | 2 => some .ne
  | 3 => some .lt
  | 4 => some .ge
  | 5 => some .le
  | 6 => some .gt
  | 7 => some .lo
  | 8 => some .hs
  | 9 => some .ls
  | 10 => some .hi
  | 11 => some .mz
  | 12 => some .mnz
  | 13 => some .f
  | 14 => some .nf
  | _ => none

/-- The code of this operand (The widths of a lane access (R55). -/
def Width.code : Width → Nat
  | .i8 => 0
  | .n8 => 1
  | .i16 => 2
  | .n16 => 3
  | .w32 => 4
  | .w64 => 5

/-- The operand of this code, where there is one. -/
def Width.ofCode : Nat → Option Width
  | 0 => some .i8
  | 1 => some .n8
  | 2 => some .i16
  | 3 => some .n16
  | 4 => some .w32
  | 5 => some .w64
  | _ => none

/-- The code of this operand (The forms of LDS). -/
def LdsForm.code : LdsForm → Nat
  | .plain => 0
  | .fe => 1
  | .fec => 2

/-- The operand of this code, where there is one. -/
def LdsForm.ofCode : Nat → Option LdsForm
  | 0 => some .plain
  | 1 => some .fe
  | 2 => some .fec
  | _ => none

/-- The code of this operand (The forms of STS (R220)). -/
def StsForm.code : StsForm → Nat
  | .plain => 0
  | .fe => 1

/-- The operand of this code, where there is one. -/
def StsForm.ofCode : Nat → Option StsForm
  | 0 => some .plain
  | 1 => some .fe
  | _ => none

/-- The code of this operand (The types of SCATADD (R223)). -/
def ScatTy.code : ScatTy → Nat
  | .i32 => 0
  | .f32 => 1
  | .f64 => 2

/-- The operand of this code, where there is one. -/
def ScatTy.ofCode : Nat → Option ScatTy
  | 0 => some .i32
  | 1 => some .f32
  | 2 => some .f64
  | _ => none

/-- The code of this operand (The operations of ATOM (R224)). -/
def AtomOp.code : AtomOp → Nat
  | .add => 0
  | .sub => 1
  | .min => 2
  | .max => 3
  | .minu => 4
  | .maxu => 5
  | .and => 6
  | .or => 7
  | .xor => 8
  | .xchg => 9
  | .cas => 10
  | .fadd => 11
  | .dadd => 12
  | .fmax => 13

/-- The operand of this code, where there is one. -/
def AtomOp.ofCode : Nat → Option AtomOp
  | 0 => some .add
  | 1 => some .sub
  | 2 => some .min
  | 3 => some .max
  | 4 => some .minu
  | 5 => some .maxu
  | 6 => some .and
  | 7 => some .or
  | 8 => some .xor
  | 9 => some .xchg
  | 10 => some .cas
  | 11 => some .fadd
  | 12 => some .dadd
  | 13 => some .fmax
  | _ => none

/-- The code of this operand (The order qualifiers of layout A (R45)). -/
def MemOrder.code : MemOrder → Nat
  | .none => 0
  | .acq => 1
  | .rel => 2
  | .ar => 3

/-- The operand of this code, where there is one. -/
def MemOrder.ofCode : Nat → Option MemOrder
  | 0 => some .none
  | 1 => some .acq
  | 2 => some .rel
  | 3 => some .ar
  | _ => none

/-- The code of this operand (The scopes of R45). -/
def Scope.code : Scope → Nat
  | .core => 0
  | .quad => 1
  | .die => 2
  | .pkg => 3
  | .pod => 4
  | .sys => 5

/-- The operand of this code, where there is one. -/
def Scope.ofCode : Nat → Option Scope
  | 0 => some .core
  | 1 => some .quad
  | 2 => some .die
  | 3 => some .pkg
  | 4 => some .pod
  | 5 => some .sys
  | _ => none

/-- The code of this operand (The operations of REDUCE and SCAN (R55)). -/
def RedOp.code : RedOp → Nat
  | .add => 0
  | .min => 1
  | .max => 2
  | .minu => 3
  | .maxu => 4
  | .and => 5
  | .or => 6
  | .xor => 7
  | .fadd => 8
  | .fmin => 9
  | .fmax => 10

/-- The operand of this code, where there is one. -/
def RedOp.ofCode : Nat → Option RedOp
  | 0 => some .add
  | 1 => some .min
  | 2 => some .max
  | 3 => some .minu
  | 4 => some .maxu
  | 5 => some .and
  | 6 => some .or
  | 7 => some .xor
  | 8 => some .fadd
  | 9 => some .fmin
  | 10 => some .fmax
  | _ => none

/-- The code of this operand (The types of CVT (R54)). -/
def CvtTy.code : CvtTy → Nat
  | .f32 => 0
  | .f64 => 1
  | .f16 => 2
  | .bf16 => 3
  | .i32 => 4
  | .n32 => 5
  | .i64 => 6
  | .n64 => 7
  | .i16 => 8
  | .n16 => 9
  | .i8 => 10
  | .n8 => 11

/-- The operand of this code, where there is one. -/
def CvtTy.ofCode : Nat → Option CvtTy
  | 0 => some .f32
  | 1 => some .f64
  | 2 => some .f16
  | 3 => some .bf16
  | 4 => some .i32
  | 5 => some .n32
  | 6 => some .i64
  | 7 => some .n64
  | 8 => some .i16
  | 9 => some .n16
  | 10 => some .i8
  | 11 => some .n8
  | _ => none

/-- The code of this operand (The kinds of COPY (R235)). -/
def CopyKind.code : CopyKind → Nat
  | .oneD => 0
  | .twoD => 1
  | .gather => 2
  | .fill => 3
  | .zero => 4

/-- The operand of this code, where there is one. -/
def CopyKind.ofCode : Nat → Option CopyKind
  | 0 => some .oneD
  | 1 => some .twoD
  | 2 => some .gather
  | 3 => some .fill
  | 4 => some .zero
  | _ => none

/-- The code of this operand (The modes of IXSET (R268); code 3 is out of limits). -/
def IxMode.code : IxMode → Nat
  | .and => 0
  | .or => 1
  | .diff => 2

/-- The operand of this code, where there is one. -/
def IxMode.ofCode : Nat → Option IxMode
  | 0 => some .and
  | 1 => some .or
  | 2 => some .diff
  | _ => none

/-- The code of this operand (The special registers of R56). -/
def SpecReg.code : SpecReg → Nat
  | .lane => 0
  | .team => 1
  | .teams => 2
  | .nlane => 3
  | .bench => 4
  | .core => 5
  | .quad => 6
  | .die => 7
  | .pkg => 8
  | .depth => 9
  | .tcyc => 10
  | .gtime => 11
  | .rprog => 12
  | .rentry => 13
  | .fmt => 14
  | .cc => 15
  | .uhvec => 16
  | .fpsf => 17
  | .emuop => 18
  | .emuf16 => 19
  | .emui32 => 20
  | .emupc => 21
  | .trapcode => 22

/-- The operand of this code, where there is one. -/
def SpecReg.ofCode : Nat → Option SpecReg
  | 0 => some .lane
  | 1 => some .team
  | 2 => some .teams
  | 3 => some .nlane
  | 4 => some .bench
  | 5 => some .core
  | 6 => some .quad
  | 7 => some .die
  | 8 => some .pkg
  | 9 => some .depth
  | 10 => some .tcyc
  | 11 => some .gtime
  | 12 => some .rprog
  | 13 => some .rentry
  | 14 => some .fmt
  | 15 => some .cc
  | 16 => some .uhvec
  | 17 => some .fpsf
  | 18 => some .emuop
  | 19 => some .emuf16
  | 20 => some .emui32
  | 21 => some .emupc
  | 22 => some .trapcode
  | _ => none

/-- The CAUSE of an illegal encoding (R58). -/
inductive Cause
  | unassigned | emulation | lengthNotListed | mustBeZero | outOfLimits | laNotLL
  deriving DecidableEq, Repr

/-- The code of a cause (R58). -/
def Cause.code : Cause → Nat
  | .unassigned => 0 | .emulation => 1 | .lengthNotListed => 2
  | .mustBeZero => 3 | .outOfLimits => 4 | .laNotLL => 5

/-- The outcome of decoding the bits of one instruction: an instruction, or the cause of R58. -/
inductive Dec
  | ok (i : Instr)
  | bad (c : Cause)
  deriving DecidableEq, Repr

/-- The lowest cause that applies (R58), or the instruction: mbz is a nonzero bit in a field that must be zero,
lim an operand out of limits, la a nonzero la4 on an instruction not marked LL. -/
def check (mbz lim la : Bool) (i : Instr) : Dec :=
  if mbz then .bad .mustBeZero
  else if lim then .bad .outOfLimits
  else if la then .bad .laNotLL
  else .ok i

/-- The same with an operand that a code names: no operand of that code is an operand out of limits. -/
def checkO {α : Type} (x : Option α) (mbz lim la : Bool) (i : α → Instr) : Dec :=
  match x with
  | some a => check mbz lim la (i a)
  | none => check mbz true la .nop

/-- An instruction that exists only in format W: in format L it is a length not listed (R57). -/
def onlyW (long : Bool) (d : Dec) : Dec := if long then .bad .lengthNotListed else d

/-- An instruction that exists only in format L. -/
def onlyL (long : Bool) (d : Dec) : Dec := if long then d else .bad .lengthNotListed

/-- Bits lo + n - 1 down to lo of a number. -/
def bits (v lo n : Nat) : Nat := v / 2 ^ lo % 2 ^ n

/-- The scalar fields sa, sb and sd of layout S (R45), and sc and se of f32 (R46). -/
def fSa (f : Nat) : SReg := BitVec.ofNat 5 f
/-- Field sb, bits 9:5. -/
def fSb (f : Nat) : SReg := BitVec.ofNat 5 (f / 32)
/-- Field sd, bits 14:10. -/
def fSd (f : Nat) : SReg := BitVec.ofNat 5 (f / 1024)
/-- The scale of layouts M and A, bits 6:5. -/
def fScale (f : Nat) : BitVec 2 := BitVec.ofNat 2 (f / 32)


/-- Format C (R44, R52): the op7 and the arg8. -/
def decodeC (op arg : Nat) : Dec :=
  let lo := bits arg 0 4
  let la : BitVec 4 := BitVec.ofNat 4 (arg / 16)
  let k : BitVec 8 := BitVec.ofNat 8 arg
  let z := lo != 0
  let l := la != 0
  let r := Rnd.ofCode lo
  match op with
  | 0 => check (arg != 0) false false .brkz
  | 1 => check z false l .nop
  | 2 => check false false false (.pushi8 k)
  | 3 => check false false false (.pushl k)
  | 4 => check false (decide (254 < arg)) false (.pushl2 k)
  | 5 => check false false false (.popl k)
  | 6 => check false (decide (254 < arg)) false (.popl2 k)
  | 7 => checkO ((SpecReg.ofCode (bits arg 0 5)).filter (fun x => !(bits arg 7 1 == 1) || x.wide)) (bits arg 5 2 != 0) false false
      (.pushx (bits arg 7 1 == 1))
  | 8 => check (bits arg 5 3 != 0) false false (.pushs (fSa arg))
  | 9 => check (bits arg 5 3 != 0) false false (.pushs2 (fSa arg))
  | 10 => check z false l .dup
  | 11 => check z false l .dup2
  | 12 => check z false l .drop
  | 13 => check z false l .drop2
  | 14 => check z false l .swap
  | 15 => check z false l .swap2
  | 16 => check z false l .overTop
  | 17 => check z false l .rot
  | 18 => check false (decide (62 < arg)) false (.pick k)
  | 19 => check false (decide (63 < arg)) false (.roll k)
  | 20 => check z false l .sel
  | 21 => check z false l .add
  | 22 => check z false l .sub
  | 23 => check z false l .mul
  | 24 => check z false l .mulh
  | 25 => check z false l .mulhu
  | 26 => check z false l .mad
  | 27 => check z false false (.div la)
  | 28 => check z false false (.divu la)
  | 29 => check z false false (.rem la)
  | 30 => check z false false (.remu la)
  | 31 => check z false l .neg
  | 32 => check z false l .abs
  | 33 => check z false l .min
  | 34 => check z false l .max
  | 35 => check z false l .minu
  | 36 => check z false l .maxu
  | 37 => check z false l .adds
  | 38 => check z false l .subs
  | 39 => check z false l .and
  | 40 => check z false l .or
  | 41 => check z false l .xor
  | 42 => check z false l .not
  | 43 => check z false l .andn
  | 44 => check z false l .shl
  | 45 => check z false l .shr
  | 46 => check z false l .sar
  | 47 => check z false l .rotl
  | 48 => check z false l .clz
  | 49 => check z false l .popc
  | 50 => check z false l .brev
  | 51 => check z false l .bfx
  | 52 => check z false l .bfxu
  | 53 => check z false l .bfi
  | 54 => check z false l .permb
  | 55 => check z false l .add64
  | 56 => check z false l .sub64
  | 57 => check z false l .mul64
  | 58 => check z false l .shl64
  | 59 => check z false l .shr64
  | 60 => check z false l .sar64
  | 61 => check z false l .mulw
  | 62 => checkO ((Cc.ofCode arg).filter Cc.cmpOk) false false false .cmp
  | 63 => checkO ((Cc.ofCode arg).filter Cc.fcmpOk) false false false .fcmp
  | 64 => checkO ((Cc.ofCode arg).filter Cc.fcmpOk) false false false .dcmp
  | 65 => checkO r false false l .fadd
  | 66 => checkO r false false l .fsub
  | 67 => checkO r false false l .fmul
  | 68 => checkO r false false l .ffma
  | 69 => checkO r false false false (.fdiv la)
  | 70 => checkO r false false false (.fsqrt la)
  | 71 => check z false l .fmin
  | 72 => check z false l .fmax
  | 73 => check z false l .fabs
  | 74 => check z false l .fneg
  | 75 => check z false false (.frcp la)
  | 76 => check z false false (.frsq la)
  | 77 => check z false false (.fexp2 la)
  | 78 => check z false false (.flog2 la)
  | 79 => check z false false (.fsin la)
  | 80 => check z false false (.fcos la)
  | 81 => check z false false (.ftanh la)
  | 82 => checkO r false false l .frnd
  | 83 => checkO r false false l .dadd
  | 84 => checkO r false false l .dsub
  | 85 => checkO r false false l .dmul
  | 86 => checkO r false false l .dfma
  | 87 => checkO r false false false (.ddiv la)
  | 88 => checkO r false false false (.dsqrt la)
  | 89 => check z false l .dmin
  | 90 => check z false l .dmax
  | 91 => check z false l .dabs
  | 92 => check z false l .dneg
  | 93 => checkO r false false l .hadd2
  | 94 => checkO r false false l .hmul2
  | 95 => checkO r false false l .hfma2
  | 96 => check z false l .hmax2
  | 97 => checkO r false false l .pack2
  | 98 => check z false l .unpk2
  | 99 => check z false l .shflIdx
  | 100 => check false (decide (31 < arg)) false (.shflXor k)
  | 101 => check false (decide (31 < arg)) false (.shflUp k)
  | 102 => check false (decide (31 < arg)) false (.shflDn k)
  | 103 => check z false l .ballot
  | 104 => check z false l .voteAny
  | 105 => check z false l .voteAll
  | 106 => check z false l .conflict
  | 107 => check z false l .join
  | 108 => check z false l .exit
  | 109 => check z false l .demote
  | 110 => check false (decide (3 < arg)) false (.mand k)
  | 111 => check false (decide (3 < arg)) false (.mrest k)
  | 112 => check z false l .leave
  | 113 => check z false l .region
  | 114 => check z false l .rclose
  | 115 => check z false l .ret
  | 116 => check false false false (.trap k)
  | 117 => check z false l .tret
  | 118 => check z false l .bkpt
  | 119 => check z false l .hbeat
  | 120 => check z false l .pause
  | 127 => .bad .emulation
  | _ => .bad .unassigned


/-- Major code 1 of formats W and L (R55). -/
def decodeMaj1 (long : Bool) (la : BitVec 4) (mn f g : Nat) : Dec :=
  let l := la != 0
  match mn with
  | 0 => onlyW long (check (bits f 15 1 != 0 || bits f 5 5 != 0) false l (.smov (fSd f) (fSa f)))
  | 1 => onlyW long (check (bits f 15 1 != 0) false l (.sadd (fSd f) (fSa f) (fSb f)))
  | 2 => onlyW long (check (bits f 15 1 != 0) false l (.ssub (fSd f) (fSa f) (fSb f)))
  | 3 => onlyW long (check (bits f 15 1 != 0) false l (.smul (fSd f) (fSa f) (fSb f)))
  | 4 => onlyW long (check (bits f 15 1 != 0) false l (.sand (fSd f) (fSa f) (fSb f)))
  | 5 => onlyW long (check (bits f 15 1 != 0) false l (.sor (fSd f) (fSa f) (fSb f)))
  | 6 => onlyW long (check (bits f 15 1 != 0) false l (.sxor (fSd f) (fSa f) (fSb f)))
  | 7 => onlyW long (check (bits f 15 1 != 0) false l (.sshl (fSd f) (fSa f) (fSb f)))
  | 8 => onlyW long (check (bits f 15 1 != 0) false l (.sshr (fSd f) (fSa f) (fSb f)))
  | 9 => onlyW long (check (bits f 15 1 != 0) false l (.ssar (fSd f) (fSa f) (fSb f)))
  | 10 => onlyW long (check (bits f 15 1 != 0 || bits f 10 5 != 0) false l (.scmp (fSa f) (fSb f)))
  | 11 => onlyW long (checkO (SpecReg.ofCode (bits f 0 5)) (bits f 15 1 != 0 || bits f 5 5 != 0) false l (.sread (fSd f)))
  | 12 => onlyW long (checkO ((SpecReg.ofCode (bits f 10 5)).filter SpecReg.writable) (bits f 15 1 != 0 || bits f 5 5 != 0) false l (fun x => .swrite x (fSa f)))
  | _ => .bad .unassigned

/-- Major code 2 of formats W and L (R55). -/
def decodeMaj2 (long : Bool) (la : BitVec 4) (mn f g : Nat) : Dec :=
  let l := la != 0
  let imm : BitVec 32 := BitVec.ofNat 32 g
  match mn with
  | 0 => onlyL long (check (bits f 15 1 != 0 || bits f 5 5 != 0 || bits f 0 5 != 0) false l (.sli (fSd f) imm))
  | 1 => onlyL long (check (bits f 15 1 != 0 || bits f 5 5 != 0 || bits f 0 5 != 0) false l (.sliw (fSd f) imm))
  | 2 => onlyL long (check (bits f 15 1 != 0 || bits f 5 5 != 0) false l (.saddi (fSd f) (fSa f) imm))
  | 3 => onlyL long (check (bits f 15 1 != 0 || bits f 10 5 != 0 || bits f 5 5 != 0) false l (.scmpi (fSa f) imm))
  | 4 => onlyL long (check (bits f 15 1 != 0 || bits f 5 5 != 0) false l (.sld (fSd f) (fSa f) imm))
  | 5 => onlyL long (check (bits f 15 1 != 0 || bits f 10 5 != 0) false l (.sst (fSb f) (fSa f) imm))
  | _ => .bad .unassigned

/-- Major code 3 of formats W and L (R55). -/
def decodeMaj3 (long : Bool) (la : BitVec 4) (mn f g : Nat) : Dec :=
  let l := la != 0
  let imm : BitVec 32 := BitVec.ofNat 32 g
  match mn with
  | 0 => onlyL long (check (f != 0) false l (.pushi32 imm))
  | 1 => onlyL long (check (bits f 1 15 != 0) false l (.pushw (bits f 0 1 == 1) imm))
  | 2 => onlyW long (match CvtTy.ofCode (bits f 0 4), CvtTy.ofCode (bits f 4 4), Rnd.ofCode (bits f 8 3) with
      | some a, some b, some r => check (bits f 12 4 != 0) (a == b || (bits f 11 1 == 1 && b.isFloat)) l (.cvt a b r (bits f 11 1 == 1))
      | _, _, _ => check (bits f 12 4 != 0) true l .nop)
  | 4 => onlyW long (check (bits f 15 1 != 0 || bits f 10 5 != 0 || bits f 5 5 != 0) false l (.qntHse2 (fSa f)))
  | 5 => onlyW long (check (bits f 15 1 != 0 || bits f 10 5 != 0 || bits f 5 5 != 0) false l (.qntHse4 (fSa f)))
  | 6 => onlyW long (check (bits f 15 1 != 0 || bits f 10 5 != 0 || bits f 5 5 != 0) false l (.qntHse7 (fSa f)))
  | 8 => onlyW long (check (bits f 15 1 != 0 || bits f 10 5 != 0 || bits f 5 5 != 0) false false (.dqntHse2 la (fSa f)))
  | 9 => onlyW long (check (bits f 15 1 != 0 || bits f 10 5 != 0 || bits f 5 5 != 0) false false (.dqntHse4 la (fSa f)))
  | 10 => onlyW long (check (bits f 15 1 != 0 || bits f 10 5 != 0 || bits f 5 5 != 0) false false (.dqntHse7 la (fSa f)))
  | _ => .bad .unassigned

/-- Major code 4 of formats W and L (R55). -/
def decodeMaj4 (long : Bool) (la : BitVec 4) (mn f g : Nat) : Dec :=
  let l := la != 0
  let imm : BitVec 32 := BitVec.ofNat 32 g
  let off : BitVec 16 := BitVec.ofNat 16 f
  match mn with
  | 0 => if long then check (f != 0) false l (.brL imm) else check false false l (.brW off)
  | _ => match BrCond.ofCode mn with
    | none => .bad .unassigned
    | some c => if long then check (f != 0) false l (.brcL c imm) else check false false l (.brcW c off)

/-- Major code 5 of formats W and L (R55). -/
def decodeMaj5 (long : Bool) (la : BitVec 4) (mn f g : Nat) : Dec :=
  let l := la != 0
  let imm : BitVec 32 := BitVec.ofNat 32 g
  let off : BitVec 16 := BitVec.ofNat 16 f
  match mn with
  | 0 => onlyW long (check (bits f 15 1 != 0 || bits f 10 5 != 0 || bits f 5 5 != 0) false l (.jmps (fSa f)))
  | 1 => if long then check (f != 0) false l (.callL imm) else check false false l (.callW off)
  | 2 => onlyW long (check (bits f 15 1 != 0 || bits f 10 5 != 0 || bits f 5 5 != 0) false l (.calls (fSa f)))
  | _ => .bad .unassigned

/-- Major code 6 of formats W and L (R55). -/
def decodeMaj6 (long : Bool) (la : BitVec 4) (mn f g : Nat) : Dec :=
  let l := la != 0
  let imm : BitVec 32 := BitVec.ofNat 32 g
  let off : BitVec 16 := BitVec.ofNat 16 f
  match mn with
  | 0 => onlyL long (check false false l (.split off imm))
  | _ => .bad .unassigned

/-- Major code 7 of formats W and L (R55). -/
def decodeMaj7 (long : Bool) (la : BitVec 4) (mn f g : Nat) : Dec :=
  let l := la != 0
  let imm : BitVec 32 := BitVec.ofNat 32 g
  let off : BitVec 16 := BitVec.ofNat 16 f
  match mn with
  | 0 => onlyL long (check false (decide (imm.toInt < 4)) l (.loop off imm))
  | 1 => onlyL long (check (bits f 5 11 != 0) (decide (imm.toInt < 4)) l (.loops (fSa f) imm))
  | _ => .bad .unassigned

/-- Major code 8 of formats W and L (R55). -/
def decodeMaj8 (long : Bool) (la : BitVec 4) (mn f g : Nat) : Dec :=
  let l := la != 0
  let imm : BitVec 32 := BitVec.ofNat 32 g
  match mn with
  | 0 => onlyL long (check (f != 0) (!fmtLegal imm) l (.fmtImm imm))
  | 1 => onlyW long (check (bits f 15 1 != 0 || bits f 10 5 != 0 || bits f 5 5 != 0) false l (.fmtReg (fSa f)))
  | _ => .bad .unassigned

/-- Major code 9 of formats W and L (R55). -/
def decodeMaj9 (long : Bool) (la : BitVec 4) (mn f g : Nat) : Dec :=
  let l := la != 0
  match mn with
  | 0 => onlyW long (check (bits f 15 1 != 0 || bits f 10 5 != 0 || bits f 5 5 != 0) false l (.timerV (fSa f)))
  | 1 => onlyW long (check (bits f 15 1 != 0 || bits f 10 5 != 0 || bits f 5 5 != 0) false l (.timerG (fSa f)))
  | _ => .bad .unassigned

/-- Major code 10 of formats W and L (R55). -/
def decodeMaj10 (long : Bool) (la : BitVec 4) (mn f g : Nat) : Dec :=
  let l := la != 0
  match mn with
  | 15 => onlyW long (check (bits f 15 1 != 0 || bits f 5 5 != 0 || bits f 0 5 != 0) false l (.readl (fSd f)))
  | _ => match RedOp.ofCode mn with
    | none => .bad .unassigned
    | some o => onlyW long (check (bits f 0 10 != 0) false false (.reduce la o (bits f 15 1 == 1) (fSd f)))

/-- Major code 11 of formats W and L (R55). -/
def decodeMaj11 (long : Bool) (la : BitVec 4) (mn f g : Nat) : Dec :=
  match mn with
  | _ => match RedOp.ofCode mn with
    | none => .bad .unassigned
    | some o => onlyW long (check (bits f 0 15 != 0) false false (.scan la o (bits f 15 1 == 1)))

/-- Major code 16 of formats W and L (R55). -/
def decodeMaj16 (long : Bool) (la : BitVec 4) (mn f g : Nat) : Dec :=
  let imm : BitVec 32 := BitVec.ofNat 32 g
  match mn with
  | _ => match Width.ofCode mn with
    | none => .bad .unassigned
    | some w => if long then check (bits f 7 9 != 0) false false (.ldL la w (fScale f) (fSa f) imm) else check (bits f 7 9 != 0) false false (.ldW la w (fScale f) (fSa f))

/-- Major code 17 of formats W and L (R55). -/
def decodeMaj17 (long : Bool) (la : BitVec 4) (mn f g : Nat) : Dec :=
  let l := la != 0
  let imm : BitVec 32 := BitVec.ofNat 32 g
  match mn with
  | _ => match Width.ofCode mn with
    | none => .bad .unassigned
    | some w => if long then check (bits f 7 9 != 0) false l (.stL w (fScale f) (fSa f) imm) else check (bits f 7 9 != 0) false l (.stW w (fScale f) (fSa f))

/-- Major code 18 of formats W and L (R55). -/
def decodeMaj18 (long : Bool) (la : BitVec 4) (mn f g : Nat) : Dec :=
  let l := la != 0
  let imm : BitVec 32 := BitVec.ofNat 32 g
  match mn with
  | _ => match Width.ofCode mn, (if 8 ≤ mn then Width.ofCode (mn - 8) else none) with
    | some w, _ => if long then check (f != 0) false false (.ldaL la w imm) else check (f != 0) false false (.ldaW la w)
    | none, some w => if long then check (f != 0) false l (.staL w imm) else check (f != 0) false l (.staW w)
    | none, none => .bad .unassigned

/-- Major code 19 of formats W and L (R55). -/
def decodeMaj19 (long : Bool) (la : BitVec 4) (mn f g : Nat) : Dec :=
  let l := la != 0
  let imm : BitVec 32 := BitVec.ofNat 32 g
  match mn with
  | 0 => if long then check (bits f 7 9 != 0) false false (.ldvL la (fScale f) (fSa f) imm) else check (bits f 7 9 != 0) false false (.ldvW la (fScale f) (fSa f))
  | 1 => if long then check (bits f 7 9 != 0) false l (.stvL (fScale f) (fSa f) imm) else check (bits f 7 9 != 0) false l (.stvW (fScale f) (fSa f))
  | _ => .bad .unassigned

/-- Major code 20 of formats W and L (R55). -/
def decodeMaj20 (long : Bool) (la : BitVec 4) (mn f g : Nat) : Dec :=
  let l := la != 0
  let imm : BitVec 32 := BitVec.ofNat 32 g
  match mn with
  | _ => match LdsForm.ofCode mn, (if 8 ≤ mn then StsForm.ofCode (mn - 8) else none) with
    | some q, _ => if long then check (bits f 7 9 != 0) false false (.ldsL la q (fScale f) (fSa f) imm) else check (bits f 7 9 != 0) false false (.ldsW la q (fScale f) (fSa f))
    | none, some q => if long then check (bits f 7 9 != 0) false l (.stsL q (fScale f) (fSa f) imm) else check (bits f 7 9 != 0) false l (.stsW q (fScale f) (fSa f))
    | none, none => .bad .unassigned

/-- Major code 21 of formats W and L (R55). -/
def decodeMaj21 (long : Bool) (la : BitVec 4) (mn f g : Nat) : Dec :=
  let l := la != 0
  let imm : BitVec 32 := BitVec.ofNat 32 g
  match mn with
  | _ => match ScatTy.ofCode mn with
    | none => .bad .unassigned
    | some t => if long then check (bits f 7 9 != 0) false l (.scataddL t (fScale f) (fSa f) imm) else check (bits f 7 9 != 0) false l (.scataddW t (fScale f) (fSa f))

/-- Major code 22 of formats W and L (R55). -/
def decodeMaj22 (long : Bool) (la : BitVec 4) (mn f g : Nat) : Dec :=
  let imm : BitVec 32 := BitVec.ofNat 32 g
  match mn with
  | _ => match AtomOp.ofCode mn, MemOrder.ofCode (bits f 10 2) with
    | some o, some q => checkO (Scope.ofCode (bits f 7 3)) (bits f 12 4 != 0) false false
        (fun s => if long then .atomL la o q s (fScale f) (fSa f) imm else .atomW la o q s (fScale f) (fSa f))
    | _, _ => .bad .unassigned

/-- Major code 23 of formats W and L (R55). -/
def decodeMaj23 (long : Bool) (la : BitVec 4) (mn f g : Nat) : Dec :=
  let l := la != 0
  match mn with
  | 0 => onlyW long (check (bits f 15 1 != 0 || bits f 10 5 != 0 || bits f 5 5 != 0) false l (.acq (fSa f)))
  | 1 => onlyW long (check (bits f 15 1 != 0 || bits f 10 5 != 0 || bits f 5 5 != 0) false l (.rel (fSa f)))
  | 2 => onlyW long (checkO (Scope.ofCode (bits f 7 3)) (bits f 10 6 != 0 || bits f 0 7 != 0) false l .fenceAcq)
  | 3 => onlyW long (checkO (Scope.ofCode (bits f 7 3)) (bits f 10 6 != 0 || bits f 0 7 != 0) false l .fenceRel)
  | 4 => onlyW long (checkO (Scope.ofCode (bits f 7 3)) (bits f 10 6 != 0 || bits f 0 7 != 0) false l .fenceFull)
  | 5 => onlyW long (check (bits f 15 1 != 0 || bits f 10 5 != 0) false l (.bind (fSa f) (fSb f)))
  | 6 => onlyW long (check (bits f 15 1 != 0 || bits f 10 5 != 0 || bits f 5 5 != 0) false l (.unbind (fSa f)))
  | 7 => onlyW long (check (bits f 15 1 != 0 || bits f 10 5 != 0 || bits f 5 5 != 0) false l (.waitv (fSa f)))
  | _ => .bad .unassigned

/-- Major code 24 of formats W and L (R55). -/
def decodeMaj24 (long : Bool) (la : BitVec 4) (mn f g : Nat) : Dec :=
  let l := la != 0
  match mn with
  | 0 => onlyW long (check (bits f 15 1 != 0 || bits f 10 5 != 0 || bits f 5 5 != 0) false l (.barArrive (fSa f)))
  | 1 => onlyW long (check (bits f 15 1 != 0 || bits f 10 5 != 0 || bits f 5 5 != 0) false l (.barWait (fSa f)))
  | 2 => onlyW long (check (bits f 15 1 != 0 || bits f 10 5 != 0 || bits f 5 5 != 0) false l (.barSync (fSa f)))
  | 4 => onlyW long (check (bits f 4 12 != 0) false l (.nbarQuad (BitVec.ofNat 4 f)))
  | 5 => onlyW long (check (bits f 4 12 != 0) false l (.nbarDie (BitVec.ofNat 4 f)))
  | 6 => onlyW long (check (bits f 4 12 != 0) false l (.nbarPkg (BitVec.ofNat 4 f)))
  | 8 => onlyW long (check (f != 0) false l .gbar)
  | _ => .bad .unassigned

/-- Major code 25 of formats W and L (R55). -/
def decodeMaj25 (long : Bool) (la : BitVec 4) (mn f g : Nat) : Dec :=
  let l := la != 0
  match mn with
  | _ => match CopyKind.ofCode mn with
    | none => .bad .unassigned
    | some c => onlyW long (check false false l (.copy c (bits f 15 1 == 1) (fSd f) (fSa f) (fSb f)))

/-- Major code 26 of formats W and L (R55). -/
def decodeMaj26 (long : Bool) (la : BitVec 4) (mn f g : Nat) : Dec :=
  let l := la != 0
  match mn with
  | 0 => onlyW long (check (bits f 15 1 != 0 || bits f 10 5 != 0) false l (.tlwait (fSa f) (fSb f)))
  | 1 => onlyW long (check (bits f 15 1 != 0 || bits f 5 5 != 0) false l (.tlread (fSd f) (fSa f)))
  | 2 => onlyW long (check (bits f 15 1 != 0 || bits f 10 5 != 0) false l (.tlsig (fSa f) (fSb f)))
  | _ => .bad .unassigned

/-- Major code 32 of formats W and L (R55). -/
def decodeMaj32 (long : Bool) (la : BitVec 4) (mn f g : Nat) : Dec :=
  let l := la != 0
  match mn with
  | 0 => onlyL long (check (bits f 10 5 != 0 || bits g 18 14 != 0) false l (.mma (bits f 15 1 == 1) (fSa f) (fSb f) (fSa g) (fSb g) (BitVec.ofNat 8 (g / 1024))))
  | 1 => onlyL long (check (bits f 10 5 != 0 || bits g 18 14 != 0) false l (.mmaz (bits f 15 1 == 1) (fSa f) (fSb f) (fSa g) (fSb g) (BitVec.ofNat 8 (g / 1024))))
  | 2 => onlyL long (check (bits f 10 5 != 0 || bits g 18 14 != 0) false l (.mmaBsr (bits f 15 1 == 1) (fSa f) (fSb f) (fSa g) (fSb g) (BitVec.ofNat 8 (g / 1024))))
  | 3 => onlyL long (check (bits f 10 5 != 0 || bits g 18 14 != 0) false l (.mmaCsr (bits f 15 1 == 1) (fSa f) (fSb f) (fSa g) (fSb g) (BitVec.ofNat 8 (g / 1024))))
  | _ => .bad .unassigned

/-- Major code 33 of formats W and L (R55). -/
def decodeMaj33 (long : Bool) (la : BitVec 4) (mn f g : Nat) : Dec :=
  let l := la != 0
  match mn with
  | 0 => onlyW long (check (bits f 8 8 != 0) false l (.accz (BitVec.ofNat 8 f)))
  | 1 => onlyL long (check (bits f 10 5 != 0 || bits g 0 10 != 0 || bits g 22 10 != 0) (decide (12 ≤ bits g 18 4)) l
      (.accld (bits f 15 1 == 1) (fSa f) (fSb f) (BitVec.ofNat 8 (g / 1024)) (BitVec.ofNat 4 (g / 2 ^ 18))))
  | 2 => onlyL long (checkO (Scope.ofCode (bits g 22 3))
      (bits f 10 5 != 0 || bits g 5 5 != 0 || bits g 26 6 != 0 || (bits g 25 1 == 0 && (bits g 0 5 != 0 || bits g 22 3 != 0)))
      (decide (15 ≤ bits g 18 4)) l
      (fun s => .accst (bits f 15 1 == 1) (fSa f) (fSb f) (fSa g) (BitVec.ofNat 8 (g / 1024)) (BitVec.ofNat 4 (g / 2 ^ 18)) s (bits g 25 1 == 1)))
  | 3 => onlyW long (check (bits f 8 7 != 0) false false (.accrd la (bits f 15 1 == 1) (BitVec.ofNat 8 f)))
  | 4 => onlyW long (check (bits f 8 7 != 0) false l (.accwr (bits f 15 1 == 1) (BitVec.ofNat 8 f)))
  | _ => .bad .unassigned

/-- Major code 34 of formats W and L (R55). -/
def decodeMaj34 (long : Bool) (la : BitVec 4) (mn f g : Nat) : Dec :=
  let l := la != 0
  match mn with
  | 0 => onlyW long (checkO (IxMode.ofCode (bits f 5 2)) (bits f 7 9 != 0) false l (fun m => .ixset m (fSa f)))
  | 1 => onlyW long (check (bits f 15 1 != 0 || bits f 5 5 != 0 || bits f 0 5 != 0) false false (.ixnext la (fSd f)))
  | 2 => onlyW long (check (bits f 15 1 != 0 || bits f 10 5 != 0 || bits f 5 5 != 0) false l (.ixsp (fSa f)))
  | 3 => onlyW long (check (bits f 15 1 != 0 || bits f 5 5 != 0 || bits f 0 5 != 0) false l (.ixcnt (fSd f)))
  | _ => .bad .unassigned

/-- Major code 40 of formats W and L (R55). -/
def decodeMaj40 (long : Bool) (la : BitVec 4) (mn f g : Nat) : Dec :=
  let l := la != 0
  match mn with
  | 0 => onlyW long (check (bits f 2 14 != 0) false l (.pwrprio (BitVec.ofNat 2 f)))
  | 1 => onlyW long (check (bits f 15 1 != 0 || bits f 5 5 != 0 || bits f 0 5 != 0) false l (.pwrread (fSd f)))
  | _ => .bad .unassigned

/-- Major code 41 of formats W and L (R55). -/
def decodeMaj41 (long : Bool) (la : BitVec 4) (mn f g : Nat) : Dec :=
  let l := la != 0
  match mn with
  | 0 => onlyW long (check (bits f 15 1 != 0 || bits f 5 5 != 0) false l (.xprobe (fSd f) (fSa f)))
  | _ => .bad .unassigned

/-- Major code 48 of formats W and L (R55). -/
def decodeMaj48 (long : Bool) (la : BitVec 4) (mn f g : Nat) : Dec :=
  let l := la != 0
  match mn with
  | 0 => onlyW long (check (bits f 15 1 != 0 || bits f 5 5 != 0 || bits f 0 5 != 0) false l (.actOpen (fSd f)))
  | 1 => onlyL long (check (bits f 15 1 != 0 || bits g 10 22 != 0) false l (.actStep (fSd f) (fSa f) (fSb f) (fSa g) (fSb g)))
  | 2 => onlyW long (check (bits f 15 1 != 0 || bits f 10 5 != 0 || bits f 5 5 != 0) false l (.actClose (fSa f)))
  | 3 => onlyW long (check (bits f 15 1 != 0 || bits f 10 5 != 0 || bits f 5 5 != 0) false l (.actAbandon (fSa f)))
  | 4 => onlyW long (check (bits f 15 1 != 0 || bits f 5 5 != 0) false l (.actStat (fSd f) (fSa f)))
  | 5 => onlyW long (check (bits f 15 1 != 0 || bits f 10 5 != 0 || bits f 5 5 != 0) false l (.actSkip (fSa f)))
  | 6 => onlyW long (check (bits f 15 1 != 0 || bits f 10 5 != 0 || bits f 5 5 != 0) false l (.actRetry (fSa f)))
  | 7 => onlyW long (check (bits f 15 1 != 0 || bits f 10 5 != 0 || bits f 5 5 != 0) false l (.cret (fSa f)))
  | _ => .bad .unassigned

/-- Major code 49 of formats W and L (R55). -/
def decodeMaj49 (long : Bool) (la : BitVec 4) (mn f g : Nat) : Dec :=
  let l := la != 0
  match mn with
  | 0 => onlyW long (check (bits f 15 1 != 0 || bits f 5 5 != 0) false l (.ssOpen (fSd f) (fSa f)))
  | 1 => onlyL long (check (bits f 15 1 != 0 || bits g 10 22 != 0) false l (.ssLoad (fSd f) (fSa f) (fSb f) (fSa g) (fSb g)))
  | 2 => onlyL long (check (bits f 15 1 != 0 || bits f 10 5 != 0 || bits g 10 22 != 0) false l (.ssStore (fSa f) (fSb f) (fSa g) (fSb g)))
  | 3 => onlyW long (check (bits f 15 1 != 0 || bits f 10 5 != 0 || bits f 5 5 != 0) false l (.ssSnap (fSa f)))
  | 4 => onlyW long (check (bits f 15 1 != 0) false l (.ssRoll (fSd f) (fSa f) (fSb f)))
  | 5 => onlyW long (check (bits f 15 1 != 0) false l (.ssFork (fSd f) (fSa f) (fSb f)))
  | 6 => onlyW long (check (bits f 15 1 != 0 || bits f 10 5 != 0 || bits f 5 5 != 0) false l (.ssDrop (fSa f)))
  | 7 => onlyW long (check (bits f 15 1 != 0 || bits f 10 5 != 0) false l (.ssInfo (fSa f) (fSb f)))
  | 8 => onlyW long (check (bits f 15 1 == 0 && bits f 5 5 != 0) false l (.ssHeads (bits f 15 1 == 1) (fSd f) (fSa f) (fSb f)))
  | _ => .bad .unassigned

/-- Major code 50 of formats W and L (R55). -/
def decodeMaj50 (long : Bool) (la : BitVec 4) (mn f g : Nat) : Dec :=
  let l := la != 0
  match mn with
  | 0 => onlyW long (check (bits f 15 1 != 0 || bits f 5 5 != 0) false l (.poolTake (fSd f) (fSa f)))
  | 1 => onlyW long (check (bits f 15 1 != 0 || bits f 10 5 != 0) false l (.poolGive (fSa f) (fSb f)))
  | _ => .bad .unassigned

/-- Major code 51 of formats W and L (R55). -/
def decodeMaj51 (long : Bool) (la : BitVec 4) (mn f g : Nat) : Dec :=
  let l := la != 0
  match mn with
  | 0 => onlyW long (check (bits f 15 1 != 0 || bits f 10 5 != 0) false l (.launch (fSa f) (fSb f)))
  | _ => .bad .unassigned

/-- Major code 52 of formats W and L (R55). -/
def decodeMaj52 (long : Bool) (la : BitVec 4) (mn f g : Nat) : Dec :=
  let l := la != 0
  match mn with
  | 0 => onlyW long (check (bits f 15 1 != 0 || bits f 5 5 != 0) false l (.dbgRd (fSd f) (fSa f)))
  | 1 => onlyW long (check (bits f 15 1 != 0 || bits f 10 5 != 0) false l (.dbgWr (fSa f) (fSb f)))
  | _ => .bad .unassigned

/-- Formats W and L (R43, R55): maj6, min4, la4, f16 and f32. -/
def decodeWL (long : Bool) (maj : Nat) (la : BitVec 4) (mn f g : Nat) : Dec :=
  match maj with
  | 1 => decodeMaj1 long la mn f g
  | 2 => decodeMaj2 long la mn f g
  | 3 => decodeMaj3 long la mn f g
  | 4 => decodeMaj4 long la mn f g
  | 5 => decodeMaj5 long la mn f g
  | 6 => decodeMaj6 long la mn f g
  | 7 => decodeMaj7 long la mn f g
  | 8 => decodeMaj8 long la mn f g
  | 9 => decodeMaj9 long la mn f g
  | 10 => decodeMaj10 long la mn f g
  | 11 => decodeMaj11 long la mn f g
  | 16 => decodeMaj16 long la mn f g
  | 17 => decodeMaj17 long la mn f g
  | 18 => decodeMaj18 long la mn f g
  | 19 => decodeMaj19 long la mn f g
  | 20 => decodeMaj20 long la mn f g
  | 21 => decodeMaj21 long la mn f g
  | 22 => decodeMaj22 long la mn f g
  | 23 => decodeMaj23 long la mn f g
  | 24 => decodeMaj24 long la mn f g
  | 25 => decodeMaj25 long la mn f g
  | 26 => decodeMaj26 long la mn f g
  | 32 => decodeMaj32 long la mn f g
  | 33 => decodeMaj33 long la mn f g
  | 34 => decodeMaj34 long la mn f g
  | 40 => decodeMaj40 long la mn f g
  | 41 => decodeMaj41 long la mn f g
  | 48 => decodeMaj48 long la mn f g
  | 49 => decodeMaj49 long la mn f g
  | 50 => decodeMaj50 long la mn f g
  | 51 => decodeMaj51 long la mn f g
  | 52 => decodeMaj52 long la mn f g
  | _ => .bad .unassigned

/-- The number of parcels of the instruction whose first parcel is n (R43). -/
def parcelCount (n : Nat) : Nat := if n < 0x8000 then 1 else if n < 0xC000 then 2 else 4

/-- The fields of an instruction as EMUOP, EMUF16 and EMUI32 take them (R57, R58): FORM, first parcel, arg8 or f16, f32. -/
structure Raw where
  form : Nat
  first : Nat
  arg : Nat
  f32 : Nat
  deriving DecidableEq, Repr

/-- The outcome of decoding a list of parcels: an instruction and its length in parcels; an illegal
encoding with its raw fields, cause and length; or too few parcels. -/
inductive Decoded
  | ok (i : Instr) (len : Nat)
  | illegal (raw : Raw) (c : Cause) (len : Nat)
  | short
  deriving DecidableEq, Repr

/-- The outcome with its raw fields and length. -/
def Dec.result (d : Dec) (raw : Raw) (len : Nat) : Decoded :=
  match d with
  | .ok i => .ok i len
  | .bad c => .illegal raw c len

/-- The decoder (R42 to R59). -/
def decode (ps : List Parcel) : Decoded :=
  match ps with
  | [] => .short
  | p :: rest =>
    let n := p.toNat
    if n < 0x8000 then (decodeC (n / 256) (n % 256)).result ⟨0, n, n % 256, 0⟩ 1
    else
      let la : BitVec 4 := BitVec.ofNat 4 (n / 16)
      if n < 0xC000 then
        match rest with
        | q :: _ => (decodeWL false (bits n 8 6) la (n % 16) q.toNat 0).result ⟨2, n, q.toNat, 0⟩ 2
        | [] => .short
      else
        match rest with
        | q :: a :: b :: _ =>
          let g := a.toNat + 65536 * b.toNat
          (decodeWL true (bits n 8 6) la (n % 16) q.toNat g).result ⟨3, n, q.toNat, g⟩ 4
        | _ => .short

/-- The parcel of a format C instruction. -/
def encC (op arg : Nat) : List Parcel := [BitVec.ofNat 16 (op * 256 + arg)]

/-- The parcels of a format W instruction. -/
def encW (maj la mn f : Nat) : List Parcel :=
  [BitVec.ofNat 16 (0x8000 + maj * 256 + la * 16 + mn), BitVec.ofNat 16 f]

/-- The parcels of a format L instruction. -/
def encL (maj la mn f g : Nat) : List Parcel :=
  [BitVec.ofNat 16 (0xC000 + maj * 256 + la * 16 + mn), BitVec.ofNat 16 f, BitVec.ofNat 16 g, BitVec.ofNat 16 (g / 65536)]

/-- The parcels of an instruction, in address order; an event of the table has none. -/
def encode : Instr → List Parcel
  | .brkz => encC 0 0
  | .nop => encC 1 0
  | .pushi8 imm => encC 2 imm.toNat
  | .pushl k => encC 3 k.toNat
  | .pushl2 k => encC 4 k.toNat
  | .popl k => encC 5 k.toNat
  | .popl2 k => encC 6 k.toNat
  | .pushx hi x => encC 7 (hi.toNat * 128 + x.code)
  | .pushs sa => encC 8 sa.toNat
  | .pushs2 sa => encC 9 sa.toNat
  | .dup => encC 10 0
  | .dup2 => encC 11 0
  | .drop => encC 12 0
  | .drop2 => encC 13 0
  | .swap => encC 14 0
  | .swap2 => encC 15 0
  | .overTop => encC 16 0
  | .rot => encC 17 0
  | .pick k => encC 18 k.toNat
  | .roll k => encC 19 k.toNat
  | .sel => encC 20 0
  | .add => encC 21 0
  | .sub => encC 22 0
  | .mul => encC 23 0
  | .mulh => encC 24 0
  | .mulhu => encC 25 0
  | .mad => encC 26 0
  | .div la => encC 27 (la.toNat * 16)
  | .divu la => encC 28 (la.toNat * 16)
  | .rem la => encC 29 (la.toNat * 16)
  | .remu la => encC 30 (la.toNat * 16)
  | .neg => encC 31 0
  | .abs => encC 32 0
  | .min => encC 33 0
  | .max => encC 34 0
  | .minu => encC 35 0
  | .maxu => encC 36 0
  | .adds => encC 37 0
  | .subs => encC 38 0
  | .and => encC 39 0
  | .or => encC 40 0
  | .xor => encC 41 0
  | .not => encC 42 0
  | .andn => encC 43 0
  | .shl => encC 44 0
  | .shr => encC 45 0
  | .sar => encC 46 0
  | .rotl => encC 47 0
  | .clz => encC 48 0
  | .popc => encC 49 0
  | .brev => encC 50 0
  | .bfx => encC 51 0
  | .bfxu => encC 52 0
  | .bfi => encC 53 0
  | .permb => encC 54 0
  | .add64 => encC 55 0
  | .sub64 => encC 56 0
  | .mul64 => encC 57 0
  | .shl64 => encC 58 0
  | .shr64 => encC 59 0
  | .sar64 => encC 60 0
  | .mulw => encC 61 0
  | .cmp cc => encC 62 cc.code
  | .fcmp cc => encC 63 cc.code
  | .dcmp cc => encC 64 cc.code
  | .fadd r => encC 65 r.code
  | .fsub r => encC 66 r.code
  | .fmul r => encC 67 r.code
  | .ffma r => encC 68 r.code
  | .fdiv la r => encC 69 (la.toNat * 16 + r.code)
  | .fsqrt la r => encC 70 (la.toNat * 16 + r.code)
  | .fmin => encC 71 0
  | .fmax => encC 72 0
  | .fabs => encC 73 0
  | .fneg => encC 74 0
  | .frcp la => encC 75 (la.toNat * 16)
  | .frsq la => encC 76 (la.toNat * 16)
  | .fexp2 la => encC 77 (la.toNat * 16)
  | .flog2 la => encC 78 (la.toNat * 16)
  | .fsin la => encC 79 (la.toNat * 16)
  | .fcos la => encC 80 (la.toNat * 16)
  | .ftanh la => encC 81 (la.toNat * 16)
  | .frnd r => encC 82 r.code
  | .dadd r => encC 83 r.code
  | .dsub r => encC 84 r.code
  | .dmul r => encC 85 r.code
  | .dfma r => encC 86 r.code
  | .ddiv la r => encC 87 (la.toNat * 16 + r.code)
  | .dsqrt la r => encC 88 (la.toNat * 16 + r.code)
  | .dmin => encC 89 0
  | .dmax => encC 90 0
  | .dabs => encC 91 0
  | .dneg => encC 92 0
  | .hadd2 r => encC 93 r.code
  | .hmul2 r => encC 94 r.code
  | .hfma2 r => encC 95 r.code
  | .hmax2 => encC 96 0
  | .pack2 r => encC 97 r.code
  | .unpk2 => encC 98 0
  | .shflIdx => encC 99 0
  | .shflXor k => encC 100 k.toNat
  | .shflUp k => encC 101 k.toNat
  | .shflDn k => encC 102 k.toNat
  | .ballot => encC 103 0
  | .voteAny => encC 104 0
  | .voteAll => encC 105 0
  | .conflict => encC 106 0
  | .join => encC 107 0
  | .exit => encC 108 0
  | .demote => encC 109 0
  | .mand k => encC 110 k.toNat
  | .mrest k => encC 111 k.toNat
  | .leave => encC 112 0
  | .region => encC 113 0
  | .rclose => encC 114 0
  | .ret => encC 115 0
  | .trap imm => encC 116 imm.toNat
  | .tret => encC 117 0
  | .bkpt => encC 118 0
  | .hbeat => encC 119 0
  | .pause => encC 120 0
  | .smov sd sa => encW 1 0 0 (sd.toNat * 1024 + sa.toNat)
  | .sadd sd sa sb => encW 1 0 1 (sd.toNat * 1024 + sa.toNat + sb.toNat * 32)
  | .ssub sd sa sb => encW 1 0 2 (sd.toNat * 1024 + sa.toNat + sb.toNat * 32)
  | .smul sd sa sb => encW 1 0 3 (sd.toNat * 1024 + sa.toNat + sb.toNat * 32)
  | .sand sd sa sb => encW 1 0 4 (sd.toNat * 1024 + sa.toNat + sb.toNat * 32)
  | .sor sd sa sb => encW 1 0 5 (sd.toNat * 1024 + sa.toNat + sb.toNat * 32)
  | .sxor sd sa sb => encW 1 0 6 (sd.toNat * 1024 + sa.toNat + sb.toNat * 32)
  | .sshl sd sa sb => encW 1 0 7 (sd.toNat * 1024 + sa.toNat + sb.toNat * 32)
  | .sshr sd sa sb => encW 1 0 8 (sd.toNat * 1024 + sa.toNat + sb.toNat * 32)
  | .ssar sd sa sb => encW 1 0 9 (sd.toNat * 1024 + sa.toNat + sb.toNat * 32)
  | .scmp sa sb => encW 1 0 10 (sa.toNat + sb.toNat * 32)
  | .sread sd x => encW 1 0 11 (sd.toNat * 1024 + x.code)
  | .swrite x sa => encW 1 0 12 (x.code * 1024 + sa.toNat)
  | .sli sd imm => encL 2 0 0 (sd.toNat * 1024) (imm.toNat)
  | .sliw sd imm => encL 2 0 1 (sd.toNat * 1024) (imm.toNat)
  | .saddi sd sa imm => encL 2 0 2 (sd.toNat * 1024 + sa.toNat) (imm.toNat)
  | .scmpi sa imm => encL 2 0 3 (sa.toNat) (imm.toNat)
  | .sld sd sa imm => encL 2 0 4 (sd.toNat * 1024 + sa.toNat) (imm.toNat)
  | .sst sb sa imm => encL 2 0 5 (sb.toNat * 32 + sa.toNat) (imm.toNat)
  | .pushi32 imm => encL 3 0 0 0 (imm.toNat)
  | .pushw hi imm => encL 3 0 1 (hi.toNat) (imm.toNat)
  | .cvt src dst r sat => encW 3 0 2 (sat.toNat * 2048 + r.code * 256 + dst.code * 16 + src.code)
  | .qntHse2 sa => encW 3 0 4 (sa.toNat)
  | .qntHse4 sa => encW 3 0 5 (sa.toNat)
  | .qntHse7 sa => encW 3 0 6 (sa.toNat)
  | .dqntHse2 la sa => encW 3 la.toNat 8 (sa.toNat)
  | .dqntHse4 la sa => encW 3 la.toNat 9 (sa.toNat)
  | .dqntHse7 la sa => encW 3 la.toNat 10 (sa.toNat)
  | .brW off => encW 4 0 0 (off.toNat)
  | .brL off => encL 4 0 0 0 (off.toNat)
  | .brcW cond off => encW 4 0 cond.code (off.toNat)
  | .brcL cond off => encL 4 0 cond.code 0 (off.toNat)
  | .jmps sa => encW 5 0 0 (sa.toNat)
  | .callW off => encW 5 0 1 (off.toNat)
  | .callL off => encL 5 0 1 0 (off.toNat)
  | .calls sa => encW 5 0 2 (sa.toNat)
  | .split els join => encL 6 0 0 (els.toNat) (join.toNat)
  | .loop count last => encL 7 0 0 (count.toNat) (last.toNat)
  | .loops sa last => encL 7 0 1 (sa.toNat) (last.toNat)
  | .fmtImm imm => encL 8 0 0 0 (imm.toNat)
  | .fmtReg sa => encW 8 0 1 (sa.toNat)
  | .timerV sa => encW 9 0 0 (sa.toNat)
  | .timerG sa => encW 9 0 1 (sa.toNat)
  | .reduce la op bc sd => encW 10 la.toNat op.code (bc.toNat * 32768 + sd.toNat * 1024)
  | .readl sd => encW 10 0 15 (sd.toNat * 1024)
  | .scan la op excl => encW 11 la.toNat op.code (excl.toNat * 32768)
  | .ldW la w scale sa => encW 16 la.toNat w.code (scale.toNat * 32 + sa.toNat)
  | .ldL la w scale sa c => encL 16 la.toNat w.code (scale.toNat * 32 + sa.toNat) (c.toNat)
  | .stW w scale sa => encW 17 0 w.code (scale.toNat * 32 + sa.toNat)
  | .stL w scale sa c => encL 17 0 w.code (scale.toNat * 32 + sa.toNat) (c.toNat)
  | .ldaW la w => encW 18 la.toNat w.code 0
  | .ldaL la w c => encL 18 la.toNat w.code 0 (c.toNat)
  | .staW w => encW 18 0 (8 + w.code) 0
  | .staL w c => encL 18 0 (8 + w.code) 0 (c.toNat)
  | .ldvW la scale sa => encW 19 la.toNat 0 (scale.toNat * 32 + sa.toNat)
  | .ldvL la scale sa c => encL 19 la.toNat 0 (scale.toNat * 32 + sa.toNat) (c.toNat)
  | .stvW scale sa => encW 19 0 1 (scale.toNat * 32 + sa.toNat)
  | .stvL scale sa c => encL 19 0 1 (scale.toNat * 32 + sa.toNat) (c.toNat)
  | .ldsW la q scale sa => encW 20 la.toNat q.code (scale.toNat * 32 + sa.toNat)
  | .ldsL la q scale sa c => encL 20 la.toNat q.code (scale.toNat * 32 + sa.toNat) (c.toNat)
  | .stsW q scale sa => encW 20 0 (8 + q.code) (scale.toNat * 32 + sa.toNat)
  | .stsL q scale sa c => encL 20 0 (8 + q.code) (scale.toNat * 32 + sa.toNat) (c.toNat)
  | .scataddW t scale sa => encW 21 0 t.code (scale.toNat * 32 + sa.toNat)
  | .scataddL t scale sa c => encL 21 0 t.code (scale.toNat * 32 + sa.toNat) (c.toNat)
  | .atomW la op ord sc scale sa => encW 22 la.toNat op.code (ord.code * 1024 + sc.code * 128 + scale.toNat * 32 + sa.toNat)
  | .atomL la op ord sc scale sa c => encL 22 la.toNat op.code (ord.code * 1024 + sc.code * 128 + scale.toNat * 32 + sa.toNat) (c.toNat)
  | .acq sa => encW 23 0 0 (sa.toNat)
  | .rel sa => encW 23 0 1 (sa.toNat)
  | .fenceAcq sc => encW 23 0 2 (sc.code * 128)
  | .fenceRel sc => encW 23 0 3 (sc.code * 128)
  | .fenceFull sc => encW 23 0 4 (sc.code * 128)
  | .bind sa sb => encW 23 0 5 (sa.toNat + sb.toNat * 32)
  | .unbind sa => encW 23 0 6 (sa.toNat)
  | .waitv sa => encW 23 0 7 (sa.toNat)
  | .barArrive sa => encW 24 0 0 (sa.toNat)
  | .barWait sa => encW 24 0 1 (sa.toNat)
  | .barSync sa => encW 24 0 2 (sa.toNat)
  | .nbarQuad id => encW 24 0 4 (id.toNat)
  | .nbarDie id => encW 24 0 5 (id.toNat)
  | .nbarPkg id => encW 24 0 6 (id.toNat)
  | .gbar => encW 24 0 8 0
  | .copy kind fe sd sa sb => encW 25 0 kind.code (fe.toNat * 32768 + sd.toNat * 1024 + sa.toNat + sb.toNat * 32)
  | .tlwait sa sb => encW 26 0 0 (sa.toNat + sb.toNat * 32)
  | .tlread sd sa => encW 26 0 1 (sd.toNat * 1024 + sa.toNat)
  | .tlsig sa sb => encW 26 0 2 (sa.toNat + sb.toNat * 32)
  | .mma fe sa sb sc se tile => encL 32 0 0 (fe.toNat * 32768 + sa.toNat + sb.toNat * 32) (sc.toNat + se.toNat * 32 + tile.toNat * 1024)
  | .mmaz fe sa sb sc se tile => encL 32 0 1 (fe.toNat * 32768 + sa.toNat + sb.toNat * 32) (sc.toNat + se.toNat * 32 + tile.toNat * 1024)
  | .mmaBsr fe sa sb sc se tile => encL 32 0 2 (fe.toNat * 32768 + sa.toNat + sb.toNat * 32) (sc.toNat + se.toNat * 32 + tile.toNat * 1024)
  | .mmaCsr fe sa sb sc se tile => encL 32 0 3 (fe.toNat * 32768 + sa.toNat + sb.toNat * 32) (sc.toNat + se.toNat * 32 + tile.toNat * 1024)
  | .accz tile => encW 33 0 0 (tile.toNat)
  | .accld fe sa sb tile ty => encL 33 0 1 (fe.toNat * 32768 + sa.toNat + sb.toNat * 32) (tile.toNat * 1024 + ty.toNat * 262144)
  | .accst fe sa sb sc tile ty scope amax => encL 33 0 2 (fe.toNat * 32768 + sa.toNat + sb.toNat * 32) (sc.toNat + tile.toNat * 1024 + ty.toNat * 262144 + scope.code * 4194304 + amax.toNat * 33554432)
  | .accrd la wide tile => encW 33 la.toNat 3 (wide.toNat * 32768 + tile.toNat)
  | .accwr wide tile => encW 33 0 4 (wide.toNat * 32768 + tile.toNat)
  | .ixset mode sa => encW 34 0 0 (mode.code * 32 + sa.toNat)
  | .ixnext la sd => encW 34 la.toNat 1 (sd.toNat * 1024)
  | .ixsp sa => encW 34 0 2 (sa.toNat)
  | .ixcnt sd => encW 34 0 3 (sd.toNat * 1024)
  | .pwrprio p => encW 40 0 0 (p.toNat)
  | .pwrread sd => encW 40 0 1 (sd.toNat * 1024)
  | .xprobe sd sa => encW 41 0 0 (sd.toNat * 1024 + sa.toNat)
  | .actOpen sd => encW 48 0 0 (sd.toNat * 1024)
  | .actStep sd sa sb sc se => encL 48 0 1 (sd.toNat * 1024 + sa.toNat + sb.toNat * 32) (sc.toNat + se.toNat * 32)
  | .actClose sa => encW 48 0 2 (sa.toNat)
  | .actAbandon sa => encW 48 0 3 (sa.toNat)
  | .actStat sd sa => encW 48 0 4 (sd.toNat * 1024 + sa.toNat)
  | .actSkip sa => encW 48 0 5 (sa.toNat)
  | .actRetry sa => encW 48 0 6 (sa.toNat)
  | .cret sa => encW 48 0 7 (sa.toNat)
  | .ssOpen sd sa => encW 49 0 0 (sd.toNat * 1024 + sa.toNat)
  | .ssLoad sd sa sb sc se => encL 49 0 1 (sd.toNat * 1024 + sa.toNat + sb.toNat * 32) (sc.toNat + se.toNat * 32)
  | .ssStore sa sb sc se => encL 49 0 2 (sa.toNat + sb.toNat * 32) (sc.toNat + se.toNat * 32)
  | .ssSnap sa => encW 49 0 3 (sa.toNat)
  | .ssRoll sd sa sb => encW 49 0 4 (sd.toNat * 1024 + sa.toNat + sb.toNat * 32)
  | .ssFork sd sa sb => encW 49 0 5 (sd.toNat * 1024 + sa.toNat + sb.toNat * 32)
  | .ssDrop sa => encW 49 0 6 (sa.toNat)
  | .ssInfo sa sb => encW 49 0 7 (sa.toNat + sb.toNat * 32)
  | .ssHeads wr sd sa sb => encW 49 0 8 (wr.toNat * 32768 + sd.toNat * 1024 + sa.toNat + sb.toNat * 32)
  | .poolTake sd sa => encW 50 0 0 (sd.toNat * 1024 + sa.toNat)
  | .poolGive sa sb => encW 50 0 1 (sa.toNat + sb.toNat * 32)
  | .launch sa sb => encW 51 0 0 (sa.toNat + sb.toNat * 32)
  | .dbgRd sd sa => encW 52 0 0 (sd.toNat * 1024 + sa.toNat)
  | .dbgWr sa sb => encW 52 0 1 (sa.toNat + sb.toNat * 32)
  | .illop _ _ _ _ _ _ => []
  | .regionPublish _ => []
  | .resultWrite _ _ => []
  | .drawerTransfer _ _ => []
  | .waiterTableRetry _ _ => []
  | .faultRepresent _ _ => []
  | .waitvWake _ _ => []
  | .waitvTimeout _ _ => []
  | .tlwaitWake _ _ => []
  | .copyEngineTurn _ _ => []
  | .copyComplete _ _ => []
  | .matrixExecute _ => []
  | .ixuExecute _ => []
  | .timerFire _ => []
  | .watchdogFire _ => []
  | .powerInterval => []
  | .issueFloorExempt _ => []
  | .thermalSample _ _ => []
  | .sramScrub _ _ _ => []
  | .patrolScrub _ _ => []
  | .frameZeroDone _ _ => []
  | .warmReset _ => []
  | .coldReset => []
  | .bootFirmwareVerified => []
  | .bootStage2Fetched => []
  | .bootVerified => []
  | .bootFailure _ => []
  | .bootTimeout => []
  | .launchPacketWrite _ _ _ _ => []
  | .launchDispatch => []
  | .teamPlace _ => []
  | .launchComplete _ => []
  | .qcfgWrite _ _ => []
  | .cxctlWrite _ _ => []
  | .cxcmdPreempt _ => []
  | .cxcmdResume _ => []
  | .cxcmdTerminate _ => []
  | .vfReset _ => []
  | .cstateWrite _ _ => []
  | .dqmapWrite _ _ => []
  | .xinvWrite _ _ => []
  | .xinvDone _ => []
  | .fbresRewalk _ _ => []
  | .fbresFail _ _ => []
  | .waiterReplay _ _ => []
  | .cctxWrite _ _ _ => []
  | .deinjWrite _ _ => []
  | .pbudgetWrite _ => []
  | .actcfgWrite _ => []
  | .poolctlWrite _ _ => []
  | .sscfgWrite _ => []
  | .pbcfgWrite _ _ => []
  | .podBarrierRelease _ => []
  | .benchHalt _ _ => []
  | .benchClaim _ _ _ => []
  | .haltBroadcast _ _ => []
  | .comparatorHit _ _ => []
  | .benchSample _ _ => []
  | .compensationDone _ => []
  | .keyWaitEnd _ _ => []
  | .keyWaitTimeout _ _ => []
  | .podAccess _ _ _ _ => []
  | .fabricAckTimeout _ => []
  | .laneSwap _ => []
  | .hostAccess _ _ _ => []
  | .rdmaCompletion _ _ _ => []
  | .registerWrite _ _ => []
  | .linkLevelRetry _ => []
  | .linkTrained _ _ _ => []

/-- The parcels whose bits, first parcel lowest, are w. -/
def parcelsOf : Nat → Nat → List Parcel
  | 0, _ => []
  | n + 1, w => BitVec.ofNat 16 w :: parcelsOf n (w / 65536)

/-- The instruction that the decoder reads from the bits w of an opcode-table row of nbits bits: the bits above
nbits are zero, up to the four parcels of the longest instruction. -/
def decodeTableWord (nbits w : Nat) : Option Instr :=
  match decode (parcelsOf 4 (w % 2 ^ nbits)) with
  | .ok i _ => some i
  | _ => none

end Sys2Proof
end

