-- ==== Sys2Proof/Machine/Cost.lean ====
section
/-! DEFINITION. The cost classes of R278. -/

namespace Sys2Proof.Machine

/-- The cost classes 0 to 4 of R278; class 1 is charged per pass or per instruction. An event is charged nothing. -/
inductive CostClass
  | control
  | slotB (perPass : Bool)
  | lane
  | heavy
  | matrix
  | event
  deriving DecidableEq, Repr

/-- The class of an instruction (R190, R204, R278). XPROBE, DBG.RD and DBG.WR, which the table does not name, are of class 1, charged per
instruction (log entry 61). -/
def costClass (i : Instr) : CostClass :=
  match i with
  | .brkz | .nop | .join | .exit | .demote | .mand _ | .mrest _ | .leave | .region | .rclose | .ret | .trap _ | .tret | .bkpt
  | .hbeat | .pause | .smov _ _ | .sadd _ _ _ | .ssub _ _ _ | .smul _ _ _ | .sand _ _ _ | .sor _ _ _ | .sxor _ _ _
  | .sshl _ _ _ | .sshr _ _ _ | .ssar _ _ _ | .scmp _ _ | .sread _ _ | .swrite _ _ | .sli _ _ | .sliw _ _ | .saddi _ _ _
  | .scmpi _ _ | .brW _ | .brL _ | .brcW _ _ | .brcL _ _ | .jmps _ | .callW _ | .callL _ | .calls _ | .split _ _ | .loop _ _
  | .loops _ _ | .fmtImm _ | .fmtReg _ | .timerV _ | .timerG _ | .pwrprio _ | .pwrread _ => .control
  | .sld _ _ _ | .sst _ _ _ | .acq _ | .rel _ | .fenceAcq _ | .fenceRel _ | .fenceFull _ | .bind _ _ | .unbind _ | .waitv _
  | .barArrive _ | .barWait _ | .barSync _ | .nbarQuad _ | .nbarDie _ | .nbarPkg _ | .gbar | .copy _ _ _ _ _ | .tlwait _ _
  | .tlread _ _ | .tlsig _ _ | .ixset _ _ | .ixsp _ | .ixcnt _ | .xprobe _ _ | .actOpen _ | .actStep _ _ _ _ _ | .actClose _
  | .actAbandon _ | .actStat _ _ | .actSkip _ | .actRetry _ | .cret _ | .ssOpen _ _ | .ssLoad _ _ _ _ _ | .ssStore _ _ _ _
  | .ssSnap _ | .ssRoll _ _ _ | .ssFork _ _ _ | .ssDrop _ | .ssInfo _ _ | .ssHeads _ _ _ _ | .poolTake _ _ | .poolGive _ _
  | .launch _ _ | .dbgRd _ _ | .dbgWr _ _ => .slotB false
  | .qntHse2 _ | .qntHse4 _ | .qntHse7 _ | .dqntHse2 _ _ | .dqntHse4 _ _ | .dqntHse7 _ _ | .ldW _ _ _ _ | .ldL _ _ _ _ _
  | .stW _ _ _ | .stL _ _ _ _ | .ldaW _ _ | .ldaL _ _ _ | .staW _ | .staL _ _ | .ldvW _ _ _ | .ldvL _ _ _ _ | .stvW _ _
  | .stvL _ _ _ | .ldsW _ _ _ _ | .ldsL _ _ _ _ _ | .stsW _ _ _ | .stsL _ _ _ _ | .scataddW _ _ _ | .scataddL _ _ _ _
  | .atomW _ _ _ _ _ _ | .atomL _ _ _ _ _ _ _ | .ixnext _ _ => .slotB true
  | .pushi8 _ | .pushl _ | .pushl2 _ | .popl _ | .popl2 _ | .pushx _ _ | .pushs _ | .pushs2 _ | .dup | .dup2 | .drop | .drop2
  | .swap | .swap2 | .overTop | .rot | .pick _ | .roll _ | .sel | .add | .sub | .mul | .mulh | .mulhu | .mad | .neg | .abs | .min
  | .max | .minu | .maxu | .adds | .subs | .and | .or | .xor | .not | .andn | .shl | .shr | .sar | .rotl | .clz | .popc
  | .brev | .bfx | .bfxu | .bfi | .permb | .cmp _ | .fcmp _ | .fadd _ | .fsub _ | .fmul _ | .ffma _ | .fmin | .fmax | .fabs
  | .fneg | .frnd _ | .hadd2 _ | .hmul2 _ | .hfma2 _ | .hmax2 | .pack2 _ | .unpk2 | .shflIdx | .shflXor _ | .shflUp _
  | .shflDn _ | .ballot | .voteAny | .voteAll | .conflict | .pushi32 _ | .pushw _ _ | .reduce _ _ _ _ | .readl _ | .scan _ _ _ => .lane
  | .div _ | .divu _ | .rem _ | .remu _ | .add64 | .sub64 | .mul64 | .shl64 | .shr64 | .sar64 | .mulw | .dcmp _ | .fdiv _ _
  | .fsqrt _ _ | .frcp _ | .frsq _ | .fexp2 _ | .flog2 _ | .fsin _ | .fcos _ | .ftanh _ | .dadd _ | .dsub _ | .dmul _
  | .dfma _ | .ddiv _ _ | .dsqrt _ _ | .dmin | .dmax | .dabs | .dneg => .heavy
  | .mma _ _ _ _ _ _ | .mmaz _ _ _ _ _ _ | .mmaBsr _ _ _ _ _ _ | .mmaCsr _ _ _ _ _ _ | .accz _ | .accld _ _ _ _ _
  | .accst _ _ _ _ _ _ _ _ | .accrd _ _ _ | .accwr _ _ => .matrix
  | .cvt src dst _ _ => if src.is64 || dst.is64 then .heavy else .lane
  | .illop _ _ _ _ _ _ | .regionPublish _ | .resultWrite _ _ | .drawerTransfer _ _ | .waiterTableRetry _ _
  | .faultRepresent _ _ | .waitvWake _ _ | .waitvTimeout _ _ | .tlwaitWake _ _ | .copyEngineTurn _ _ | .copyComplete _ _
  | .matrixExecute _ | .ixuExecute _ | .timerFire _ | .watchdogFire _ | .powerInterval | .issueFloorExempt _
  | .thermalSample _ _ | .sramScrub _ _ _ | .patrolScrub _ _ | .frameZeroDone _ _ | .warmReset _ | .coldReset
  | .bootFirmwareVerified | .bootStage2Fetched | .bootVerified | .bootFailure _ | .bootTimeout | .launchPacketWrite _ _ _ _
  | .launchDispatch | .teamPlace _ | .launchComplete _ | .qcfgWrite _ _ | .cxctlWrite _ _ | .cxcmdPreempt _ | .cxcmdResume _
  | .cxcmdTerminate _ | .vfReset _ | .cstateWrite _ _ | .dqmapWrite _ _ | .xinvWrite _ _ | .xinvDone _ | .fbresRewalk _ _
  | .fbresFail _ _ | .waiterReplay _ _ | .cctxWrite _ _ _ | .deinjWrite _ _ | .pbudgetWrite _ | .actcfgWrite _
  | .poolctlWrite _ _ | .sscfgWrite _ | .pbcfgWrite _ _ | .podBarrierRelease _ | .benchHalt _ _ | .benchClaim _ _ _
  | .haltBroadcast _ _ | .comparatorHit _ _ | .benchSample _ _ | .compensationDone _ | .keyWaitEnd _ _ | .keyWaitTimeout _ _
  | .podAccess _ _ _ _ | .fabricAckTimeout _ | .laneSwap _ | .hostAccess _ _ _ | .rdmaCompletion _ _ _ | .registerWrite _ _
  | .linkLevelRetry _ | .linkTrained _ _ _ => .event

/-- The number of a class. -/
def CostClass.num : CostClass → Nat
  | .control | .event => 0
  | .slotB _ => 1
  | .lane => 2
  | .heavy => 3
  | .matrix => 4

/-- The cycles of the matrix unit that a command's issue is charged for (R194, R278): of a sparse product its first tile step. -/
def unitCycles (i : Instr) (passes : Nat) : Nat :=
  match i with
  | .accz _ => 1
  | .accrd .. | .accwr .. => passes
  | _ => 16

/-- What the issue of an instruction by a fragment of so many passes is charged, in pJ (R278). -/
def issueCost (i : Instr) (passes : Nat) : Nat :=
  match costClass i with
  | .control => 20
  | .slotB false => 100
  | .slotB true => 100 * passes
  | .lane => 150 * passes
  | .heavy => 400 * passes
  | .matrix => 8000 * unitCycles i passes
  | .event => 0

end Sys2Proof.Machine
end

