-- ==== Sys2Proof/Machine/Flags.lean ====
section
/-! DEFINITION. Condition codes, branch conditions and rounding selectors (R53, R70, R72, R105, R156, R160). -/

namespace Sys2Proof.Machine

/-- CC with Z, N, C and V replaced; MZ, F and the reserved bits stay (R70, R156). -/
def ccWith (cc : Word) (z n c v : Bool) : Word :=
  (cc &&& 0xFFFFFFF0) ||| boolWord z ||| (boolWord n <<< 1) ||| (boolWord c <<< 2) ||| (boolWord v <<< 3)

/-- CC with MZ replaced (R164). -/
def ccMZ (cc : Word) (mz : Bool) : Word := (cc &&& 0xFFFFFFEF) ||| (boolWord mz <<< 4)

/-- CC with F replaced (R376). -/
def ccF (cc : Word) (f : Bool) : Word := (cc &&& 0xFFFFFFDF) ||| (boolWord f <<< 5)

/-- CC after an add (R156). -/
def ccAdd (cc : Word) (a b : DWord) : Word :=
  let r := a + b
  ccWith cc (r == 0) (r.getLsbD 63) (decide (2 ^ 64 ≤ a.toNat + b.toNat))
    (decide (a.toInt + b.toInt ≠ r.toInt))

/-- CC after a subtraction or compare (R156): C is 1 when no borrow occurs. -/
def ccSub (cc : Word) (a b : DWord) : Word :=
  let r := a - b
  ccWith cc (r == 0) (r.getLsbD 63) (decide (b.toNat ≤ a.toNat)) (decide (a.toInt - b.toInt ≠ r.toInt))

/-- CC after a multiply (R154): V when the signed product exceeds i64. -/
def ccMul (cc : Word) (a b : DWord) : Word :=
  let r := a * b
  ccWith cc (r == 0) (r.getLsbD 63) false (decide (a.toInt * b.toInt ≠ r.toInt))

/-- CC after a bitwise operation or a shift (R154). -/
def ccLogic (cc : Word) (r : DWord) : Word := ccWith cc (r == 0) (r.getLsbD 63) false false

/-- The conditions of BRC (R160). -/
def brHolds (c : BrCond) (cc : Word) : Bool :=
  let z := cc.getLsbD 0
  let n := cc.getLsbD 1
  let cy := cc.getLsbD 2
  let v := cc.getLsbD 3
  match c with
  | .eq => z
  | .ne => !z
  | .lt => n != v
  | .ge => n == v
  | .le => z || n != v
  | .gt => !z && n == v
  | .lo => !cy
  | .hs => cy
  | .ls => !cy || z
  | .hi => cy && !z
  | .mz => cc.getLsbD 4
  | .mnz => !cc.getLsbD 4
  | .f => cc.getLsbD 5
  | .nf => !cc.getLsbD 5

/-- The default rounding of FMT (R72). -/
def fmtRnd (fmt : Word) : RMode :=
  match fld fmt 11 2 with
  | 0 => .rn
  | 1 => .rz
  | 2 => .ru
  | _ => .rd

/-- The rounding of an instruction's selector (R53, R105). -/
def rndMode (r : Rnd) (fmt : Word) : RMode :=
  match r with
  | .fmt => fmtRnd fmt
  | .rn => .rn
  | .rz => .rz
  | .ru => .ru
  | .rd => .rd

/-- FMT.FTZ (R72). -/
def fmtFtz (fmt : Word) : Bool := fmt.getLsbD 13
/-- FMT.SAT (R72). -/
def fmtSat (fmt : Word) : Bool := fmt.getLsbD 14
/-- FMT.DIVT (R72). -/
def fmtDivt (fmt : Word) : Bool := fmt.getLsbD 15
/-- The packed type that FMT.ATYPE chooses (R72, R141). -/
def packF (fmt : Word) : FFmt := if fld fmt 0 4 = 2 then f16F else bf16F

end Sys2Proof.Machine
end

