-- ==== Sys2Proof/Config.lean ====
section
/-! DEFINITION. The constants of the HJV-B208 and the free values: what the spec leaves open. -/

namespace Sys2Proof.Config

/-- A value that the spec leaves open: nothing is known of it (log entry 9). The argument is a counter of State that every
use advances, so that no two uses are known to agree. -/
opaque freeValue : Nat → BitVec 64

/-- The check byte of a SEC-DED (64,56) codeword for its 7 data bytes: the spec names the code and not its matrix (R307; log entry 46). -/
opaque secded : List Byte → Byte
/-- Check symbol k of an RS(64,48) codeword for its 48 data bytes: the spec names the code and not its field (R307; log entry 46). -/
opaque rsSymbol : List Byte → Nat → Byte

/-- Compute dies of the package (R3's geometry). -/
def dies : Nat := 4
/-- Logical quads of a die. -/
def quadsPerDie : Nat := 13
/-- Physical quads of a die, the spare included (R314). -/
def physQuadsPerDie : Nat := 14
/-- Cores of a quad. -/
def coresPerQuad : Nat := 4
/-- Benches of a core (R190). -/
def benchesPerCore : Nat := 4
/-- The first physical address above HBM (R291). -/
def hbmEnd : Nat := 0x0C000000000
/-- Frames of one die (R291). -/
def framesPerDie : Nat := 98304
/-- Bytes of a frame (R291). -/
def frameBytes : Nat := 2097152

end Sys2Proof.Config
end

