-- ==== Sys2Proof/Machine/State.lean ====
section
/-! DEFINITION. The state of the machine: everything the spec gives it, as plain data, and the state after reset.
A table keyed by number (cores, quads, dies, registers) lists only the entries that differ from their reset value. -/

namespace Sys2Proof.Machine

/-- An ownership tag (R68, "Contexts"). -/
abbrev Tag := BitVec 12

/-- A sparse table: an unlisted key reads as the entry's reset value. -/
abbrev Tab (α : Type) := List (Nat × α)

/-- Poison (R93, R211, R310, R352): the owner tag it carries, and where the uncorrectable error was detected: the level that a
termination record's SOURCE names (0 core, 1 die, 3 fabric) and the log word that holds the error, or 0 where another held the log. -/
structure Poison where
  tag : Tag
  source : Nat
  log : DWord
  deriving DecidableEq, Repr

/-- A stack entry or local: its bits, and its poison where it is poisoned (R66, R93). -/
structure Entry where
  bits : Word
  poison : Option Poison
  deriving DecidableEq, Repr

/-- A lane: its expression stack, TOS first, and its locals (R66). -/
structure Lane where
  stack : List Entry
  locals : List Entry
  deriving DecidableEq, Repr

/-- The states of a split entry (R79). -/
inductive FragState
  | ready | run | parked | arrived | hold
  deriving DecidableEq, Repr

/-- A barrier mark: scratchpad address and generation (R77, R232). -/
structure Mark where
  addr : BitVec 25
  gen : BitVec 16
  deriving DecidableEq, Repr

/-- One lane of a scratchpad read: the lane, the core that holds the word and its scratchpad offset (R199, R220). -/
structure SpRead where
  lane : Nat
  core : Nat
  off : Nat
  deriving DecidableEq, Repr

/-- Why a fragment is parked (R79, R50, R159, R200, R230 to R234, R241, R302, R306, R324). -/
inductive Wait
  /-- a position or local pending under a scoreboard entry (R50) -/
  | pending (sb : Nat)
  /-- all 16 scoreboard entries are taken (R49) -/
  | sbFull
  /-- a scalar that is not yet written (R153, R159) -/
  | scalar (n : Nat)
  /-- full/empty granules: whether the reads clear, the la4 and address of the instruction, the reads still to be made,
  pass by pass, its place among all that have parked so, and the pulses left to a retry where the waiter table was full (R200) -/
  | fullEmpty (fec : Bool) (la : BitVec 4) (pc : DWord) (passes : List (List SpRead)) (since retry : Nat)
  /-- the acquire of an atomic whose lanes await replay (R226) -/
  | acquire (scope : Scope)
  /-- a barrier word: core, scratchpad offset, generation waited for, whether the end acquires at quad scope (R232) -/
  | barrier (core off : Nat) (gen : BitVec 16) (quad : Bool)
  /-- a named barrier: level (0 quad, 1 die, 2 package), unit, id, generation (R233, R234) -/
  | nbar (level unit id gen : Nat)
  /-- no free barrier channel at a level and unit (R234) -/
  | channel (level unit id : Nat)
  /-- a write to the line at its home slice by another agent; cycles left (R230) -/
  | watch (line : Nat) (left : Nat) (written : Bool)
  /-- a timeline counter to reach a value (R241) -/
  | timeline (id : Nat) (value : DWord)
  /-- a fault entry whose replay lets the instruction be issued again (R60, R235) -/
  | fault (die entry : Nat)
  /-- an access that found no free fault entry or waiter: presented again (R302) -/
  | faultFull (die : Nat)
  /-- a 17th page with waiters (R303) -/
  | pageSet (page : Nat)
  /-- a frame that is being zeroed (R354) -/
  | zeroing (frame : Nat)
  /-- an ordering instruction of the team that has not completed, or rows of QNT and DQNT parked for replay (R319, R324) -/
  | replays
  /-- the row of the fragment's QNT, which is stored after replay (R145) -/
  | row
  /-- earlier accesses not yet performed, before an ordering instruction (R324) -/
  | ordering
  /-- stores of the open region parked for replay (R445) -/
  | regionReplays
  /-- matrix or IXU commands of the team in flight (R254, R271) -/
  | engines
  /-- a full matrix queue (R194) -/
  | matrixQueue
  /-- all IXU stream contexts held (R268) -/
  | ixuContext
  /-- a copy context with 32 commands queued (R235) -/
  | copyQueue (ctx : Nat)
  /-- the team's held engine command waits for its replay (R251) -/
  | held
  /-- stores to other packages not yet acknowledged, which a release waits for (R227, R333, R437) -/
  | fabricAck
  /-- another package's answer to a launch packet (R401) -/
  | packet
  deriving DecidableEq, Repr

/-- A split entry: a fragment or a join record (R77 to R79). `wait` is why it is parked, `paused` whether it has
paused since it last issued (1) or has just paused (2: R80, R81), `popped` how far below its depth the handler of this marker has popped (R181). -/
structure Frag where
  num : Nat
  pc : DWord
  joinPc : DWord
  fmt : Word
  mark : Option Mark
  depth : Nat
  shelf : Nat
  st : FragState
  trapMarker : Bool
  spilled : Bool
  handler : Bool
  parent : Option Nat
  live : Nat
  seq : Nat
  member : Mask
  active : Mask
  m0 : Mask
  m1 : Mask
  m2 : Mask
  m3 : Mask
  wait : Option Wait
  paused : Nat
  low : Nat
  deriving DecidableEq, Repr

/-- An entry of the loop stack (R68, R170). -/
structure LoopEntry where
  start : DWord
  last : DWord
  count : Word
  deriving DecidableEq, Repr

/-- An entry of the call stack (R68, R161). -/
structure CallEntry where
  ret : DWord
  owner : Nat
  deriving DecidableEq, Repr

/-- Where a pending component of a long-latency result stands (R50): a stack position counted from the bottom, or a local. -/
inductive Target
  | pos (n : Nat)
  | loc (k : Nat)
  deriving DecidableEq, Repr

/-- A scoreboard entry (R49): the fragment, the number (0 is TOS), lanes and place of each pending component of the result,
the instruction's address, the instructions left in its lookahead window (R48), and whether the result waits for a replay
or an engine before it can be written. -/
structure SbEntry where
  id : Nat
  frag : Nat
  targets : List (Nat × Mask × Target)
  pc : DWord
  window : Nat
  waiting : Bool
  deriving DecidableEq, Repr

/-- A line of a region's store buffer (R177): the line's space and number, its byte mask and its bytes. -/
structure BufLine where
  scratch : Bool
  line : Nat
  mask : BitVec 64
  data : BitVec 512
  deriving DecidableEq, Repr

/-- An open region: the snapshot of R68 and R175 and the store buffer. `operands` are the entries that the storing instruction
which opened it has popped, lane by lane (R176); `pendingStores` counts its stores that await replay, `closing` is the fragment that the
team has chosen to run once they have been made and the region has closed (R445), and `kept` that
REGION_VIOLATION keeps it open (R177). -/
structure Region where
  rentry : DWord
  frag : Nat
  d0 : Nat
  fmt : Word
  cc : Word
  active : Mask
  member : Mask
  m0 : Mask
  m1 : Mask
  m2 : Mask
  m3 : Mask
  loops : List LoopEntry
  operands : List (List Entry)
  restarts : Nat
  buffer : List BufLine
  pendingStores : Nat
  closing : Option Nat
  kept : Bool
  deriving DecidableEq, Repr

/-- A timer: deadline and armed bit (R184). -/
structure Timer where
  deadline : DWord
  armed : Bool
  deriving DecidableEq, Repr

/-- Whose a store that is parked for replay is: the team's plainly, the open region's, whose buffer takes its bytes (R445), or one by which
a closing region has published bytes that the team's later reads are to find (R175, R322). -/
inductive StoreKind
  | plain
  | region
  | published
  deriving DecidableEq, Repr

/-- One access of one lane that is parked for replay (R214, R303, R304). Loads name the scoreboard entry that holds their
destination and the component of the result. -/
inductive Acc
  /-- load n bytes, extended by sign or not, into components of a scoreboard entry (R216 to R218) -/
  | load (lane : Nat) (va : DWord) (bytes : Nat) (signed : Bool) (sb : Nat)
  /-- store bytes, for the lanes that a fault of it names -/
  | store (lanes : Mask) (va : DWord) (data : List Byte) (poison : Option Poison) (kind : StoreKind)
  /-- SLD (R158) -/
  | sld (sd : Nat) (va : DWord)
  /-- an atomic (R224): operation, scope, operand, compare value, destination -/
  | atom (lane : Nat) (va : DWord) (op : AtomOp) (scope : Scope) (v : DWord) (cmp : DWord) (sb : Nat)
  /-- a scatter update (R223) -/
  | scat (lane : Nat) (va : DWord) (t : ScatTy) (v : DWord)
  /-- a DQNT element (R146): descriptor streams of the row, index, destination -/
  | dqnt (lane : Nat) (m : Nat) (elem micro bmap exps : DWord) (groups idx : Nat) (ftz : Bool) (sb : Nat)
  /-- the row of a QNT (R145): its stores, line by line, none of which is made before every page has translated; held: they are the open
  region's (R445) -/
  | qnt (lanes : Mask) (row : List (DWord × List Byte)) (held : Bool)
  deriving DecidableEq, Repr

/-- What a waiter of a fault-buffer entry is (R302, R251, R238). -/
inductive WaiterKind
  /-- the faulted lanes of one pass of an instruction that has issued -/
  | pass (accs : List Acc)
  /-- an instruction that is issued again when the page has been mapped (fetch, descriptors) -/
  | reissue
  /-- the team's held matrix command -/
  | matrix
  /-- the team's held IXU command -/
  | ixu
  /-- a stalled copy context, by the id of its counter (R239): 768 × die + context -/
  | copy (ctx : Nat)
  /-- a launch candidate of a queue (R302) -/
  | launch (queue : Nat)
  /-- the compensation that an activity's walk wants (R302, R382) -/
  | walk (tag : Tag) (slot : Nat)
  /-- a peer's access, on behalf of its context, that waits at this package (R435) -/
  | remote (pkg : Nat) (stag : Tag) (va : DWord) (op : ExtOp)
  deriving DecidableEq, Repr

/-- A waiter (R302): the team, its fragment and launch, the instruction's address, the access kind bits of R316. -/
structure Waiter where
  team : Nat
  frag : Nat
  launch : Nat
  pc : DWord
  access : Nat
  kind : WaiterKind
  deriving DecidableEq, Repr

/-- A matrix command accepted by a core's unit (R243, R249, R257 to R263). -/
structure MatCmd where
  team : Nat
  instr : Instr
  pc : DWord
  fmt : Word
  /-- the scalar operands sa, sb, sc, se as read at issue -/
  a : DWord
  b : DWord
  c : DWord
  e : DWord
  /-- progress, as RPROG counts it (R250), and the tile steps that have been charged (R278) -/
  count : Nat
  paid : Nat
  /-- the lanes, indices and values of ACCRD and ACCWR, and the scoreboard entry of ACCRD -/
  lanes : List (Nat × Word × DWord)
  sb : Nat
  allHelpers : Bool
  /-- bytes of the operand descriptors read at issue (HSE or sparse), A's then B's -/
  descA : List Byte
  descB : List Byte
  deriving DecidableEq, Repr

/-- A stream of the IXU (R266, R267): its descriptor, the positions reached, the indices last consumed, and whether an index
that was not greater than its predecessor has ended it. -/
structure IxStream where
  mode : IxMode
  a : DWord
  b : DWord
  alen : Nat
  blen : Nat
  maxOut : Nat
  pa : Nat
  pb : Nat
  lastA : Option Nat
  lastB : Option Nat
  ended : Bool
  deriving DecidableEq, Repr

/-- An IXU command (R266 to R271): a stream set; pairs for the lanes, with the scoreboard entry and scalar; pairs for the
scratchpad, with the address and whether every lane is a helper; the status word for a scalar. -/
inductive IxCmd
  | set (x : IxStream)
  | next (sb sd : Nat)
  | sp (addr : DWord) (helpers : Bool)
  | cnt (sd : Nat)
  deriving DecidableEq, Repr

/-- A resident team (R68 and the chapters named in INVENTORY.md). -/
structure Team where
  uid : Nat
  tag : Tag
  launch : Nat
  number : Nat
  teams : Nat
  age : Nat
  core : Nat
  bench : Nat
  slot : Nat
  group : Nat
  width : Nat
  isProtected : Bool
  stackDecl : Nat
  localsDecl : Nat
  base : DWord
  isCoresident : Bool
  isPersistent : Bool
  isComp : Bool
  lanes : List Lane
  scalars : List DWord
  cc : Word
  fpsf : BitVec 5
  uhvec : DWord
  helpers : Mask
  exited : Mask
  loops : List LoopEntry
  calls : List CallEntry
  sb : List SbEntry
  nextSb : Nat
  scalarPend : List Nat
  region : Option Region
  tcyc : DWord
  timerV : Timer
  timerG : Timer
  /-- the handler depth that TIMER.G waits to fall below, when TIMER.V fired while both were due (R184) -/
  gHeld : Nat
  trapcode : Word
  emuop : Word
  emuf16 : Word
  emui32 : Word
  emupc : DWord
  trapLoops : List (List LoopEntry)
  rprog : Word
  held : Option MatCmd
  removed : List MatCmd
  heldIx : List (IxCmd × DWord)
  ix : Option IxStream
  ixStatus : DWord
  pwrprio : BitVec 2
  withheld : Nat
  exempt : Bool
  pages : List (Nat × Nat)
  replay : List Waiter
  frags : List Frag
  deriving DecidableEq, Repr

/-- A line of a core's data cache (R201): valid and dirty bytes, the bytes, the tenancy's tag, the frame's tag and
protection mode, poison, and the teams whose stores made it dirty (R230). -/
structure CLine where
  line : Nat
  valid : BitVec 64
  dirty : BitVec 64
  data : BitVec 512
  tag : Tag
  otag : Tag
  prot : Nat
  poison : Option Poison
  writers : List Nat
  deriving DecidableEq, Repr

/-- An entry of a TLB (R300): context tag, page (bits 55:21, or 55:30 for 1 GiB), whether it is 1 GiB, the frame address
and the leaf's fields. -/
structure TlbEntry where
  t : Tag
  page : Nat
  big : Bool
  pa : Nat
  otag : Tag
  shr : Bool
  prot : Nat
  sys : Bool
  x : Bool
  w : Bool
  r : Bool
  deriving DecidableEq, Repr

/-- A bench: registers of R403 and R404, the team that has claimed it (R405), the freeze record, passed pulses since the last sample, the
records that wait for memory, oldest first (R411), and the context whose halt broadcast is on its way here (R407). -/
structure Bench where
  bctl : Word
  bfreeze : DWord
  bsec : DWord
  bsample : DWord
  btrace : DWord
  btrptr : DWord
  bpctl : List DWord
  claimant : Option Nat
  freeze : List (Nat × DWord)
  pulses : Nat
  recs : List (List Byte)
  called : Option Tag
  deriving DecidableEq, Repr

/-- A waiter of a core's full/empty table (R200): team, fragment, the granule watched, and its place in the order of parking. -/
structure FeWaiter where
  team : Nat
  frag : Nat
  gran : Nat
  since : Nat
  deriving DecidableEq, Repr

/-- A core (R196 to R211, R194, R266 to R271). -/
structure Core where
  tenancy : Option Nat
  cpart : Word
  cowner : Word
  cstate : Word
  cecnt : Word
  celog : DWord
  pool : List Host.Cell
  full : List Nat
  poisonRows : List (Nat × Poison)
  tileStatus : Tab Word
  tilePoison : Tab Poison
  cache : List CLine
  utlb : List TlbEntry
  feWaiters : List FeWaiter
  matq : List MatCmd
  ixq : List (Nat × IxCmd × DWord)
  ixCounter : DWord
  benches : List Bench
  deriving DecidableEq, Repr

/-- A barrier channel (R234): launch, id, arrivals and the teams expected. -/
structure Chan where
  launch : Nat
  id : Nat
  arrived : Nat
  expect : Nat
  deriving DecidableEq, Repr

/-- A quad (R275 to R289, R300): allowance (signed), pJ charged in the present cycle (R279), since the interval began and in the last
interval, grant, pulse pattern, the pattern from the next frame on, barrier channels, TLB. -/
structure Quad where
  allow : DWord
  charged : Nat
  spent : Nat
  lastSpent : Nat
  grant : Nat
  pattern : BitVec 16
  nextPattern : BitVec 16
  channels : List Chan
  tlb : List TlbEntry
  deriving DecidableEq, Repr

/-- A line resident in a home slice (R293, R310): the frame's tag and protection mode, whether it is dirty, the bytes
HBM still holds under a dirty line, and its poison. -/
structure SLine where
  line : Nat
  tag : Tag
  prot : Nat
  dirty : Bool
  stale : List Byte
  poison : Option Poison
  deriving DecidableEq, Repr

/-- A fault-buffer entry (R302, R316), and the append numbers of the packets that have counted it (R417). -/
structure FbEntry where
  idx : Nat
  page : Nat
  tag : Tag
  level : Nat
  access : Nat
  state : Nat
  firstPc : DWord
  time : DWord
  waiters : List Waiter
  counted : List Nat
  deriving DecidableEq, Repr

/-- A copy command (R235, R236): the descriptor's fields, the issuing tag, team, address and core, the bytes done,
for SS.LOAD the bytes of the version it copies, the root it keeps mapped and the granules of its pages from that of the offset in `src` on
(R398), source bytes that it has itself
overwritten (R236), and the bytes that another package has answered for the place it stands at, poisoned or not (R437). -/
structure CopyCmd where
  kind : CopyKind
  fe : Bool
  src : DWord
  dst : DWord
  len : Nat
  rows : Nat
  sstride : DWord
  dstride : DWord
  index : DWord
  pattern : DWord
  tag : Tag
  team : Nat
  launch : Nat
  core : Nat
  pc : DWord
  progress : Nat
  source : Option (List Byte)
  root : Option Nat
  pages : List (Option Nat) := []
  kept : List (Nat × Byte) := []
  arrived : List Byte := []
  tainted : Bool := false
  deriving DecidableEq, Repr

/-- A copy context (R235 to R239): its queue, oldest first, its counter, and whether it is stalled or quiesced. -/
structure CopyCtx where
  queue : List CopyCmd
  counter : DWord
  stalled : Bool
  quiesced : Bool
  deriving DecidableEq, Repr

/-- The thermal states of a die (R286). -/
inductive Therm
  | normal | throttled | tripped
  deriving DecidableEq, Repr

/-- A die (R291 to R316, R354, R422). `slice` lists the resident lines as they were last used; `crc` holds the words of R307 by a chunk's
first line; `removed` the address ranges that entries removed by XINV translated to, whose stores it awaits (R301). -/
structure Die where
  dqmap : DWord
  xinv : DWord
  decnt : Word
  delog : DWord
  fb : List FbEntry
  cctx : Tab Word
  ctxs : Tab CopyCtx
  rr : Tab Nat
  etlb : Tab (List TlbEntry)
  channels : List Chan
  therm : Therm
  thermSince : DWord
  deinj : DWord
  owners : Tab Tag
  zeroing : List (Nat × Tag)
  slice : List SLine
  hbmPoison : Tab Poison
  crc : Tab DWord
  removed : List (Nat × Nat)
  deriving DecidableEq, Repr

/-- A launch packet (R342) as its fields, with where it stands among all appends and the times of R417. -/
structure Packet where
  image : DWord
  teams : Nat
  tsize : Nat
  flags : Nat
  partition : Nat
  rsv14 : Nat
  args : DWord
  inline : List DWord
  wait : Nat
  sig : Nat
  waitval : DWord
  period : Nat
  owner : Nat
  rsv76 : Nat
  ltr : DWord
  seq : Nat
  t0 : DWord
  tappend : DWord
  faults : Nat
  acc : List Nat
  deriving DecidableEq, Repr

/-- A launch queue (R343, R344). -/
structure Queue where
  cfg : Word
  lastErr : Nat
  accepted : Nat
  packets : List Packet
  parked : Option (Nat × Nat)
  deriving DecidableEq, Repr

/-- The six categories of R418 in ns, category 1 first. -/
abbrev TimeAcc := List Nat

/-- A launch in flight (R346, R347, R359, R382, R417, R418): its packet, the header fields it takes, its text as it stood
when it was dispatched (R60; a parcel whose page had no translation then is none, until the page has one), the teams placed and retired,
the compensation it runs and its status with the INFO of COMP_FAIL, its times, whether a class S record of it awaits the Bureau, and its
watchdog: time, whether it has fired, and whether the resume after that firing has been made. -/
structure Launch where
  id : Nat
  queue : Nat
  prio : Nat
  pkt : Packet
  tag : Tag
  base : DWord
  entry : Nat
  handler : Nat
  stackDecl : Nat
  localsDecl : Nat
  flags : Nat
  partition : Nat
  text : List (Option Parcel)
  placed : Nat
  retired : Nat
  comp : Option (Nat × Nat)
  compStatus : Option (Word × Nat)
  tfirst : Option DWord
  acc : TimeAcc
  faults : Nat
  awaits : Bool
  elapsed : Nat
  fired : Bool
  again : Bool
  deriving DecidableEq, Repr

/-- A context slot (R349, R350): registers, state code, whether the stop is fatal, and whether a pre-emption waits for the
commands that its teams have had accepted (R253). -/
structure Slot where
  cxctl : Word
  root : DWord
  save : DWord
  csa : DWord
  term : DWord
  st : Nat
  fatal : Bool
  leaving : Bool
  /-- a request of it has gone unacknowledged: its termination record carries SOURCE 3 (R432) -/
  fabric : Bool
  deriving DecidableEq, Repr

/-- A fault record posted to the Bureau (R186, R305, R380): the context, TRAPCODE, the faulting address (or handle and
step), the team, its place, the lanes, RPROG, the LTR address of a watchdog, and whether it is secondary. -/
structure FaultRec where
  tag : Tag
  trapcode : Word
  pc : DWord
  team : Nat
  core : Nat
  bench : Nat
  lanes : Mask
  rprog : Word
  extra : DWord
  secondary : Bool
  time : DWord
  deriving DecidableEq, Repr

/-- What caused a termination, as the record of R352 reports it; `time` is GTIME at the error, where that is not the present. -/
structure TermCause where
  cause : Nat
  info : Nat
  source : Nat
  log : DWord
  pc : DWord
  team : Nat
  whereWord : Nat
  launchImage : DWord
  time : Option DWord := none
  deriving DecidableEq, Repr

/-- A saved context (R356, R358): its teams and core groups as the model keeps them beside their images in memory. -/
structure SavedCtx where
  slot : Nat
  tag : Tag
  teams : List Team
  groups : List (Nat × Core)
  channels : List (Nat × Nat × Chan)
  deriving DecidableEq, Repr

/-- The states of an activity (R371). -/
inductive ActState
  | opened | walking | failed | entangled
  deriving DecidableEq, Repr

/-- An activity (R369 to R381): its last entry, or the entry its walk stands at; its timeline; the cycles its key wait has
lasted; whether the compensation of the entry it stands at is wanted or in progress, and its place among all appends. -/
structure Activity where
  tag : Tag
  slot : Nat
  gen : Nat
  st : ActState
  last : Option (Nat × Nat)
  prio : Nat
  timeline : Option Nat
  cret : Word
  keyWait : Option Nat
  running : Bool
  seq : Nat
  deriving DecidableEq, Repr

/-- A page pool (R386, R387): control and list registers, the pages given back, last given first, and the lowest page never taken. -/
structure Pool where
  ctl : DWord
  list : DWord
  given : List Nat
  next : Nat
  deriving DecidableEq, Repr

/-- A granule of the state store (R389, R390): body bytes by offset, or map entries by index. -/
inductive Granule
  | body (cells : List Host.Cell)
  | map (entries : Tab Nat)
  deriving DecidableEq, Repr

/-- A record of the state store (R390 to R392): roots of the live body and of the snapshots, oldest first, with keys and pins. -/
structure SsRec where
  head : Nat
  owner : Tag
  user : Tag
  heads : BitVec 16
  st : Nat
  nsnap : Nat
  pages : Nat
  gen : Nat
  stime : DWord
  live : Option Nat
  snaps : List (Nat × Bool × Option Nat)
  deriving DecidableEq, Repr

/-- The state store (R388, R389): its registers, records, the granules in use by their places in the supply, and how many have been taken
so far. -/
structure Store where
  cfg : DWord
  base : DWord
  gran : Word
  free : Nat
  recs : Tab SsRec
  granules : Tab Granule
  taken : Nat
  deriving DecidableEq, Repr

/-- What a request in flight to another package asks (R401, R434 to R437): a store to be acknowledged, an access of a lane whose result
is pending, with the bytes that the open region's buffer held for it (R177), n bytes for a copy command or an acknowledgement of them, by
the id of the copy context's counter, or a launch packet. -/
inductive PodReq
  | store
  | acc (a : Acc) (held : List (Option Byte))
  | copyRead (ctx n : Nat)
  | copyWrite (ctx : Nat)
  | packet
  deriving DecidableEq, Repr

/-- A request in flight to another package (R432, R437): the team it is made for, its fragment and lanes, the package and the address there,
the request, the instruction's address and the time. -/
structure PodMsg where
  team : Nat
  frag : Nat
  lanes : Mask
  pkg : Nat
  va : DWord
  req : PodReq
  pc : DWord
  time : DWord
  deriving DecidableEq, Repr

/-- What another package answers (R435, R437): the bytes read and whether they are poisoned, a store or a packet done (a packet may be
refused), or a fault. -/
inductive PodAns
  | data (b : List Byte) (poisoned : Bool)
  | done (refused : Bool)
  | perm (info : Nat)
  | tail
  deriving DecidableEq, Repr

/-- A peer's request that waits at this package to be presented again (R302, R354, R435). -/
structure PeerReq where
  pkg : Nat
  stag : Tag
  va : DWord
  op : ExtOp
  deriving DecidableEq, Repr

/-- A pod barrier channel (R439): bases of ARRIVE and RELEASE and generations completed. -/
structure PodChan where
  cfg : DWord
  a0 : DWord
  b0 : DWord
  gen : Nat
  deriving DecidableEq, Repr

/-- The fabric (R431 to R444). -/
structure Fabric where
  fpod : DWord
  pod : Tab PodChan
  hbar2 : Tab Word
  tlink : Tab DWord
  podacl : Tab DWord
  msgs : List PodMsg
  peers : List PeerReq
  deriving DecidableEq, Repr

/-- A warm reset under way (R353): the level and log word of the error, the implicated contexts, the slots still to be saved, those
saved, and when the error arose. -/
structure ResetJob where
  source : Nat
  log : DWord
  tags : List Tag
  todo : List Nat
  saved : List Nat
  time : DWord
  deriving DecidableEq, Repr

/-- The hub (R341 to R402, R417, R439). `interval` is the number of the power interval that has last been cleared (R280). -/
structure Hub where
  bootState : Nat
  bootImage : Nat
  bootFails : Nat
  bootReason : Nat
  pbudget : Word
  hlog : DWord
  pstep : DWord
  queues : Tab Queue
  slots : Tab Slot
  acl : Tab DWord
  tlown : Tab Word
  timelines : Tab DWord
  channels : List Chan
  gens : List (Nat × Nat × Nat × Nat × Nat)
  launches : List Launch
  nextLaunch : Nat
  nextSeq : Nat
  nextUid : Nat
  bindings : List (Tag × DWord × List DWord)
  records : List FaultRec
  saved : List SavedCtx
  actcfg : Word
  actseg : List DWord
  seghead : List Nat
  segused : List Nat
  acts : List Activity
  actgen : List (Tag × Nat × Nat)
  pools : Tab Pool
  store : Store
  startQuad : Nat
  interval : Nat
  job : Option ResetJob
  deriving DecidableEq, Repr

/-- A write of up to 8 bytes within a dword of a register block, on its way there; the team that made it, if one did (R340, R405). -/
structure RegWrite where
  pa : Nat
  bytes : Nat
  value : DWord
  team : Option Nat
  deriving DecidableEq, Repr

/-- The structures of a core in which an uncorrectable error arises, beside the pool (R210, R211). -/
inductive CoreUnit
  | shelf | cacheData | cacheTags | utlb | splitTable | scoreboard | issueLogic
  deriving DecidableEq, Repr

/-- The structures of a die in which an uncorrectable error arises, beside HBM (R311, R315), and of the hub (R341). -/
inductive DieUnit
  | sliceData | sliceTags | walker | walk | faultBuffer | copyCtx | tlb | interconnect
  deriving DecidableEq, Repr

/-- What the hardware and the outside world may do next (log entry 8). -/
inductive Choice
  /-- an event row of the opcode table occurs -/
  | event (i : Instr)
  /-- the next step of a warm reset under way (R353) -/
  | reset
  /-- an uncorrectable error in a core's structure, of an entry by its number (R211; log entry 47) -/
  | coreError (core : Nat) (u : CoreUnit) (n : Nat)
  /-- an uncorrectable error in a die's structure, of an entry by its number (R311; log entry 47) -/
  | dieError (die : Nat) (u : DieUnit) (n : Nat)
  /-- an error of the hub, by its structure in HLOG (R341, R351) -/
  | hubError (struct : Nat)
  /-- another package answers the request that stands n-th (R435, R437) -/
  | podAnswer (n : Nat) (a : PodAns)
  /-- a bench's oldest record reaches memory (R411) -/
  | record (core bench : Nat)
  /-- this team issues -/
  | issue (team : Nat)
  /-- n cycles pass -/
  | tick (n : Nat)
  /-- a core cache writes back, and drops, a line (R321) -/
  | evict (core line : Nat)
  /-- a home slice writes back, and drops, a line (R293) -/
  | sliceEvict (line : Nat)
  deriving DecidableEq, Repr

/-- The whole machine. `agenda`, `free`, `cur` and `regq` are the model's own: the order of what happens next, the
counter of free values, the team whose instruction is being executed, and register writes on their way to their block. -/
structure State where
  agenda : List Choice
  free : Nat
  cur : Option Nat
  regq : List RegWrite
  gtime : DWord
  teams : List Team
  cores : Tab Core
  quads : Tab Quad
  dies : Tab Die
  mem : List Host.Cell
  hub : Hub
  fabric : Fabric
  deriving DecidableEq, Repr

/-- Why the machine of the model stops. Neither can be raised by a step, which executes an instruction only for the
running fragment of a resident team. -/
inductive Fault
  /-- raised by a meaning executed with no current team: safe (nothing in the spec executes outside a team) -/
  | noTeam
  /-- raised by a meaning executed for a team with no running fragment: safe -/
  | noFragment
  deriving DecidableEq, Repr

/-- Why an instruction has no meaning in the model. -/
inductive Refusal
  /-- raised by an arm of exec that has no meaning yet: safe (the run stops there) -/
  | notModelled (mnemonic : String)
  deriving DecidableEq, Repr

/-- A bench after reset (R403). -/
def Bench.reset : Bench :=
  { bctl := 4, bfreeze := 0, bsec := 0, bsample := 0, btrace := 0, btrptr := 0,
    bpctl := List.replicate 8 0, claimant := none, freeze := [], pulses := 0, recs := [], called := none }

/-- A core after reset (R208); log entry 2 for the pool's contents. -/
def Core.reset : Core :=
  { tenancy := none, cpart := 0, cowner := 0, cstate := 0, cecnt := 0, celog := 0,
    pool := [], full := [], poisonRows := [], tileStatus := [], tilePoison := [],
    cache := [], utlb := [], feWaiters := [], matq := [], ixq := [], ixCounter := 0,
    benches := List.replicate 4 Bench.reset }

/-- A core of a spare quad after reset: CSTATE.MODE reads 2 (R314). -/
def Core.resetSpare : Core := { Core.reset with cstate := 2 }

/-- A quad after reset (R289). -/
def Quad.reset : Quad :=
  { allow := 0, charged := 0, spent := 0, lastSpent := 0, grant := 0, pattern := 0xFFFF, nextPattern := 0xFFFF,
    channels := [], tlb := [] }

/-- A die after reset (R313, R354, R422). -/
def Die.reset : Die :=
  { dqmap := 0x00FCBA9876543210, xinv := 0x8000000000000000, decnt := 0, delog := 0,
    fb := [], cctx := [], ctxs := [], rr := [], etlb := [], channels := [],
    therm := .normal, thermSince := 0, deinj := 0, owners := [], zeroing := [], slice := [], hbmPoison := [], crc := [], removed := [] }

/-- A copy context after reset (R239). -/
def CopyCtx.reset : CopyCtx := { queue := [], counter := 0, stalled := false, quiesced := false }

/-- A queue after reset (R341). -/
def Queue.reset : Queue := { cfg := 0, lastErr := 0, accepted := 0, packets := [], parked := none }

/-- A context slot after reset (R341, R350). -/
def Slot.reset : Slot :=
  { cxctl := 0, root := 0, save := 0, csa := 0, term := 0, st := 0, fatal := false, leaving := false, fabric := false }

/-- A pool after reset (R370). -/
def Pool.reset : Pool := { ctl := 0, list := 0, given := [], next := 1 }

/-- The state store after reset (R388). -/
def Store.reset : Store :=
  { cfg := 0, base := 0, gran := 0, free := 0, recs := [], granules := [], taken := 0 }

/-- A record slot after reset: free, generation 0 before its first use (R391). -/
def SsRec.reset : SsRec :=
  { head := 0, owner := 0, user := 0, heads := 0, st := 0, nsnap := 0, pages := 0, gen := 0, stime := 0,
    live := none, snaps := [] }

/-- A pod barrier channel after reset (R440). -/
def PodChan.reset : PodChan := { cfg := 0, a0 := 0, b0 := 0, gen := 0 }

/-- The fabric after reset (R440). -/
def Fabric.reset : Fabric :=
  { fpod := 0, pod := [], hbar2 := [], tlink := [], podacl := [], msgs := [], peers := [] }

/-- The hub after reset (R341, R370, R388). -/
def Hub.reset : Hub :=
  { bootState := 0, bootImage := 0, bootFails := 0, bootReason := 0,
    pbudget := 0xC80, hlog := 0, pstep := 0, queues := [], slots := [], acl := [], tlown := [], timelines := [],
    channels := [], gens := [], launches := [], nextLaunch := 0, nextSeq := 0, nextUid := 0,
    bindings := [], records := [], saved := [],
    actcfg := 0x3E8, actseg := List.replicate 4 0, seghead := List.replicate 4 0, segused := List.replicate 4 0,
    acts := [], actgen := [], pools := [], store := Store.reset, startQuad := 0, interval := 0, job := none }

/-- The machine right after a cold reset. -/
def State.reset : State :=
  { agenda := [], free := 0, cur := none, regq := [], gtime := 0, teams := [],
    cores := [], quads := [], dies := [], mem := [], hub := Hub.reset, fabric := Fabric.reset }

end Sys2Proof.Machine
end

