-- ==== Sys2Proof/Machine/Tab.lean ====
section
/-! DEFINITION. Sparse tables and byte memories: reading, writing and the canonical form. -/

namespace Sys2Proof.Machine

/-- The entry of a sparse table, or its reset value. -/
def tabGet {α : Type} (dflt : α) : Tab α → Nat → α
  | [], _ => dflt
  | (k, v) :: r, n => if k = n then v else tabGet dflt r n

/-- The table with one entry replaced or added. -/
def tabSet {α : Type} : Tab α → Nat → α → Tab α
  | [], n, x => [(n, x)]
  | (k, v) :: r, n, x =>
    if n = k then (n, x) :: r else if n < k then (n, x) :: (k, v) :: r else (k, v) :: tabSet r n x

/-- The table without an entry. -/
def tabDel {α : Type} (t : Tab α) (n : Nat) : Tab α := t.filter (fun p => p.1 != n)

/-- Element n of a list replaced. -/
def listSet {α : Type} : List α → Nat → α → List α
  | [], _, _ => []
  | _ :: r, 0, x => x :: r
  | y :: r, n + 1, x => y :: listSet r n x

/-- What an unlisted address reads as: 0 (log entries 2 and 4). -/
def Memory.dflt : Byte := 0

/-- The byte at an address. -/
def Memory.get : List Host.Cell → Nat → Byte
  | [], _ => Memory.dflt
  | (k, v) :: r, a => if k = a then v else if a < k then Memory.dflt else Memory.get r a

/-- The memory with one byte written, in canonical form. -/
def Memory.set : List Host.Cell → Nat → Byte → List Host.Cell
  | [], a, b => if b = Memory.dflt then [] else [(a, b)]
  | (k, v) :: r, a, b =>
    if a < k then (if b = Memory.dflt then (k, v) :: r else (a, b) :: (k, v) :: r)
    else if a = k then (if b = Memory.dflt then r else (a, b) :: r)
    else (k, v) :: Memory.set r a b

/-- Every listed address lies above a bound, addresses rise strictly, and no entry is what an unlisted address reads as. -/
def Memory.above (lo : Nat) : List Host.Cell → Bool
  | [] => true
  | (k, v) :: r => decide (lo ≤ k) && decide (v ≠ Memory.dflt) && Memory.above (k + 1) r

/-- The canonical form: addresses strictly rising, no entry equal to what an unlisted address reads as. -/
def Memory.wf (m : List Host.Cell) : Bool := Memory.above 0 m

/-- n bytes from an address on. -/
def Memory.read (m : List Host.Cell) (a : Nat) : Nat → List Byte
  | 0 => []
  | n + 1 => Memory.get m a :: Memory.read m (a + 1) n

/-- Bytes written from an address on. -/
def Memory.write (m : List Host.Cell) (a : Nat) : List Byte → List Host.Cell
  | [] => m
  | b :: bs => Memory.write (Memory.set m a b) (a + 1) bs

/-- The bytes from lo up to hi − 1 made what an unlisted address reads as. -/
def Memory.clear (m : List Host.Cell) (lo hi : Nat) : List Host.Cell :=
  m.filter (fun c => decide (c.1 < lo) || decide (hi ≤ c.1))

/-- n bytes from an address on, read off a memory whose entries all lie at or above it. -/
def Memory.run : Nat → List Host.Cell → Nat → List Byte
  | 0, _, _ => []
  | n + 1, m, a =>
    match m with
    | [] => Memory.dflt :: Memory.run n [] (a + 1)
    | (k, v) :: r => if k = a then v :: Memory.run n r (a + 1) else Memory.dflt :: Memory.run n m (a + 1)

/-- n bytes from an address on, in one walk over the list. -/
def Memory.slice (m : List Host.Cell) (a n : Nat) : List Byte := Memory.run n (m.dropWhile fun c => decide (c.1 < a)) a

/-- The entries of bytes from an address on. -/
def Memory.cells (a : Nat) : List Byte → List Host.Cell
  | [] => []
  | b :: bs => if b = Memory.dflt then Memory.cells (a + 1) bs else (a, b) :: Memory.cells (a + 1) bs

/-- Bytes written from an address on, in one walk over the list. -/
def Memory.splice (m : List Host.Cell) (a : Nat) (l : List Byte) : List Host.Cell :=
  m.filter (fun c => decide (c.1 < a)) ++ Memory.cells a l ++ m.filter (fun c => decide (a + l.length ≤ c.1))

/-- A number read from n bytes, least significant first. -/
def Memory.nat (m : List Host.Cell) (a n : Nat) : Nat := leNat (Memory.read m a n)

/-- Byte i of a line. -/
def lineByte (d : BitVec 512) (i : Nat) : Byte := (d >>> (8 * i)).setWidth 8

/-- Byte i of a line replaced. -/
def lineSet (d : BitVec 512) (i : Nat) (b : Byte) : BitVec 512 :=
  (d &&& ~~~((255 : BitVec 512) <<< (8 * i))) ||| (b.setWidth 512 <<< (8 * i))

/-- The mask of the bytes i to i + n - 1 of a line. -/
def lineMask (i n : Nat) : BitVec 64 := (BitVec.ofNat 64 (2 ^ n - 1)) <<< i

/-- Bytes written into a line from byte i on. -/
def lineWrite (d : BitVec 512) (i : Nat) : List Byte → BitVec 512
  | [] => d
  | b :: bs => lineWrite (lineSet d i b) (i + 1) bs

/-- n bytes of a line from byte i on. -/
def lineRead (d : BitVec 512) (i : Nat) : Nat → List Byte
  | 0 => []
  | n + 1 => lineByte d i :: lineRead d (i + 1) n

/-- The bytes of d where the mask is set, those of e elsewhere; bytes below n. -/
def lineMerge (mask : BitVec 64) (d e : BitVec 512) : Nat → BitVec 512
  | 0 => e
  | n + 1 =>
    let r := lineMerge mask d e n
    if mask.getLsbD n then lineSet r n (lineByte d n) else r

/-- The line of 64 bytes as a list. -/
def lineBytes (d : BitVec 512) : List Byte := lineRead d 0 64

/-- A line from a list of bytes. -/
def lineOf (l : List Byte) : BitVec 512 := lineWrite 0 0 l

/-- A fold over 0 … n − 1. -/
def foldNat {α : Type} (f : α → Nat → α) (x : α) : Nat → α
  | 0 => x
  | n + 1 => f (foldNat f x n) n

end Sys2Proof.Machine
end

