-- ==== Sys2Proof/Machine/Mem.lean ====
section
/-! DEFINITION. Cores, quads and dies by number; home slices, core caches, scratchpads and translation
(R196 to R202, R212, R291 to R310, R318 to R321). -/

namespace Sys2Proof.Machine

/-- Physical core c = die × 56 + 4 × physical quad + core (R340), as it stands. -/
def getCore (s : State) (c : Nat) : Core :=
  tabGet (if c % 56 / 4 = 13 then Core.resetSpare else Core.reset) s.cores c
/-- The state with core c replaced. -/
def setCore (s : State) (c : Nat) (x : Core) : State := { s with cores := tabSet s.cores c x }
/-- Physical quad q = die × 14 + physical quad (R340). -/
def getQuad (s : State) (q : Nat) : Quad := tabGet Quad.reset s.quads q
/-- The state with quad q replaced. -/
def setQuad (s : State) (q : Nat) (x : Quad) : State := { s with quads := tabSet s.quads q x }
/-- Die d. -/
def getDie (s : State) (d : Nat) : Die := tabGet Die.reset s.dies d
/-- The state with die d replaced. -/
def setDie (s : State) (d : Nat) (x : Die) : State := { s with dies := tabSet s.dies d x }
/-- The die of a physical core. -/
def dieOf (c : Nat) : Nat := c / 56
/-- The physical quad of a physical core. -/
def quadOf (c : Nat) : Nat := c / 56 * 14 + c % 56 / 4
/-- Whether the quad of a core lets this master cycle's pulse through; its units do nothing in a swallowed cycle (R3, R285). -/
def pulseAt (s : State) (core : Nat) : Bool := (getQuad s (quadOf core)).pattern.getLsbD (s.gtime.toNat % 16)
/-- The logical quad within the die of a physical core, by DQMAP (R314). -/
def logQuad (s : State) (c : Nat) : Nat := fld (getDie s (dieOf c)).dqmap (4 * (c % 56 / 4)) 4
/-- The logical core number within the die. -/
def logCore (s : State) (c : Nat) : Nat := 4 * logQuad s c + c % 4
/-- The physical core of a die's logical core, where DQMAP maps it. -/
def physCore (s : State) (die core : Nat) : Option Nat :=
  match (List.range 14).find? (fun p => fld (getDie s die).dqmap (4 * p) 4 = core / 4) with
  | some p => if core / 4 < 13 then some (die * 56 + 4 * p + core % 4) else none
  | none => none

/-- A fresh free value, and the state in which the next one is another (log entry 9). -/
def takeFree (s : State) : BitVec 64 × State :=
  (Config.freeValue s.free, { s with free := s.free + 1 })

/-- The die whose HBM holds a physical address (R291). -/
def dieOfPa (pa : Nat) : Nat := pa / Config.frameBytes / Config.framesPerDie

/-- A watcher of a line parks in WAITV: a write by another agent is noted (R230). -/
def Frag.noteWrite (f : Frag) (line : Nat) : Frag :=
  match f.wait with
  | some (.watch l n w) => { f with wait := some (.watch l n (w || l == line)) }
  | _ => f

/-- The writers of a line at its home slice; every team but a sole writer sees the write (R230). -/
def noteLineWrite (s : State) (line : Nat) (writers : List Nat) : State :=
  { s with teams := s.teams.map fun t =>
      if writers.all (fun w => w = t.uid) && writers != [] then t
      else { t with frags := t.frags.map fun f => f.noteWrite line } }

/-- The key under which HBM stores the poison of a line: the chunk in mode D, else the line (R310). -/
def hbmKey (prot line : Nat) : Nat := if prot = 0 then line / 8 * 8 else line

/-- The HBM stack of its die in which a frame lies (R291). -/
def stackOf (frame : Nat) : Nat := frame % 2

/-- The raw offset within its frame of the data byte at offset d, by protection mode (R307). -/
def rawPlace (prot d : Nat) : Nat :=
  if prot = 1 then 64 * (d / 56) + 8 * (d % 56 / 7) + d % 56 % 7
  else if prot = 2 then 64 * (d / 48) + d % 48
  else d

/-- The raw unit of 512 bytes that holds a data line (R292). -/
def rawUnit (prot line : Nat) : Nat := rawPlace prot (line * 64 % Config.frameBytes) / 512

/-- The home slice of its die that serves a data line (R292). -/
def homeSlice (prot line : Nat) : Nat := 12 * stackOf (line * 64 / Config.frameBytes) + rawUnit prot line % 12

/-- The set of its home slice that holds a data line: the slice's raw units in order, 8 lines each, over 4096 sets (R293; log entry
46). -/
def sliceSet (prot line : Nat) : Nat :=
  (line * 64 / Config.frameBytes / 2 * 342 + rawUnit prot line / 12) * 8 % 4096 + line % 8

/-- The lines resident in the set of a line. -/
def sameSliceSet (d : Die) (prot line : Nat) : List SLine :=
  d.slice.filter fun y => homeSlice y.prot y.line == homeSlice prot line && sliceSet y.prot y.line == sliceSet prot line

/-- The slice's record of a line, where it is resident. -/
def sliceLine (s : State) (line : Nat) : Option SLine :=
  (getDie s (dieOfPa (line * 64))).slice.find? (fun x => x.line = line)

/-- The slice with a line's record replaced or added, as the one used last. -/
def setSliceLine (d : Die) (x : SLine) : Die :=
  { d with slice := x :: d.slice.filter (fun y => y.line != x.line) }

/-- The bytes of a line as HBM holds them: those under a dirty line of the slice, else the line's (R293). -/
def hbmLine (s : State) (line : Nat) : List Byte :=
  match sliceLine s line with
  | some x => if x.dirty then x.stale else Memory.read s.mem (line * 64) 64
  | none => Memory.read s.mem (line * 64) 64

/-- One bit more of a CRC-64 with the ECMA-182 polynomial. -/
def crcBit (c : DWord) : DWord := if c.getLsbD 63 then (c <<< 1) ^^^ 0x42F0E1EBA9EA3693 else c <<< 1

/-- The CRC-64 of bytes, the most significant bit of each first, from zero on (R307; log entry 46). -/
def crc64 (l : List Byte) : DWord :=
  l.foldl (fun c b => foldNat (fun c _ => crcBit c) (c ^^^ ((b.setWidth 64 : DWord) <<< (56 : Nat))) 8) 0

/-- The pattern that poison adds to the CRC of a chunk (R310). -/
def poisonCrc : DWord := 0x5A5A5A5A5A5A5A5A

/-- The word at the place of a chunk's CRC, with the chunk named by its first line: what the last write-back sent (R307, R309). -/
def storedCrc (d : Die) (chunk : Nat) : DWord := tabGet 0 d.crc chunk

/-- DELOG after an uncorrectable error (R315): the first is held, a later one sets LOST. -/
def logError (old : DWord) (tag : Tag) (struct line : Nat) : DWord :=
  if old.getLsbD 0 then old ||| 2
  else (tag.setWidth 64 <<< 52) ||| BitVec.ofNat 64 (struct * 2 ^ 48 + line * 2 ^ 10 + 1)

/-- The log word that holds an error just recorded: 0 where an earlier error holds the log (R352). -/
def loggedAs (old new : DWord) : DWord := if old.getLsbD 0 then 0 else new

/-- The word that HBM then holds for the CRC of a mode D chunk: that of its bytes, XORed with the pattern while the chunk is marked as
poisoned (R307, R309, R310). -/
def sendCrc (s : State) (dn key : Nat) : State :=
  let d := getDie s dn
  let crc := crc64 ((List.range 8).flatMap fun i => hbmLine s (key + i))
  setDie s dn { d with crc := tabSet d.crc key (if (d.hbmPoison.find? fun p => p.1 = key).isSome then crc ^^^ poisonCrc else crc) }

/-- A line, in mode D its chunk, marked as poisoned in HBM by the reserved pattern of its mode (R310). -/
def markHbm (s : State) (line prot : Nat) (p : Poison) : State :=
  let dn := dieOfPa (line * 64)
  let d := getDie s dn
  let s := setDie s dn { d with hbmPoison := tabSet d.hbmPoison (hbmKey prot line) p }
  if prot = 0 then sendCrc s dn (hbmKey prot line) else s

/-- An uncorrectable error found when a line is read from HBM: the line, and in mode D its chunk, is poisoned with the
frame's tag, in the slice and in HBM, and DELOG records it (R310, R423). -/
def hbmError (s : State) (line : Nat) (tag : Tag) (prot : Nat) : State :=
  let dn := dieOfPa (line * 64)
  let d := getDie s dn
  let hit := fun l => if prot = 0 then l / 8 == line / 8 else l == line
  let delog := logError d.delog tag (2 + prot) line
  let p : Poison := { tag, source := 1, log := loggedAs d.delog delog }
  let d := { d with
    slice := d.slice.map fun x => if hit x.line then { x with poison := some p } else x
    delog }
  markHbm (setDie s dn d) line prot p

/-- A home slice writes back a line and drops it: a poisoned line leaves its pattern in HBM; a mode D chunk's pattern clears when none
of its 8 lines is still poisoned (R310), and the chunk's CRC, for which its other lines are read, goes with the data (R309). -/
def sliceEvict (s : State) (line : Nat) : State :=
  let dn := dieOfPa (line * 64)
  let d := getDie s dn
  match d.slice.find? (fun x => x.line = line) with
  | none => s
  | some x =>
    let key := hbmKey x.prot line
    let rest := d.slice.filter (fun y => y.line != line)
    if !x.dirty then setDie s dn { d with slice := rest }
    else
      let clean := x.poison.isNone && (x.prot != 0 || (List.range 8).all fun i => key + i == line ||
        match d.slice.find? (fun y => y.line = key + i) with
        | some y => y.poison.isNone
        | none => (d.hbmPoison.find? fun p => p.1 = key).isNone)
      let poison := match x.poison with
        | some t => tabSet d.hbmPoison key t
        | none => if clean then tabDel d.hbmPoison key else d.hbmPoison
      let s := setDie s dn { d with slice := rest, hbmPoison := poison }
      if x.prot = 0 then sendCrc s dn key else s

/-- Room for a line in the set of its home slice: a full set of 16 ways loses one of those not used last, a free value saying which
(R293; log entry 46). -/
def sliceRoom (s : State) (line prot : Nat) : State :=
  let same := sameSliceSet (getDie s (dieOfPa (line * 64))) prot line
  if same.length < 16 then s
  else
    let (v, s) := takeFree s
    match same[1 + v.toNat % (same.length - 1)]? with
    | some x => sliceEvict s x.line
    | none => s

/-- A line brought into its home slice (R293, R310); an agent's read fires a pending injection on it (R423). -/
def homeTouch (s : State) (line : Nat) (tag : Tag) (prot : Nat) (agentRead : Bool) : State :=
  let dn := dieOfPa (line * 64)
  let s := match (getDie s dn).slice.find? (fun x => x.line = line) with
    | some x => setDie s dn (setSliceLine (getDie s dn) x)
    | none =>
      let s := sliceRoom s line prot
      let d := getDie s dn
      let p := (d.hbmPoison.find? (fun x => x.1 = line / 8 * 8 && prot = 0 || x.1 = line && prot != 0)).map (·.2)
      setDie s dn (setSliceLine d { line, tag, prot, dirty := false, stale := [], poison := p })
  let d := getDie s dn
  if agentRead && d.deinj.getLsbD 63 && fld d.deinj 6 38 == line then
    let t := ((d.slice.find? (fun x => x.line = line)).map (·.tag)).getD tag
    hbmError (setDie s dn { d with deinj := d.deinj &&& ~~~((1 : DWord) <<< 63) }) line t prot
  else s

/-- The poison of a line at its home slice. -/
def homePoison (s : State) (line : Nat) : Option Poison := (sliceLine s line).bind (·.poison)

/-- A write at the home slice: the masked bytes of one line (R293). A write of all 64 bytes clears poison; poison given is
written with the line (R310). -/
def homeWriteLine (s : State) (line : Nat) (mask : BitVec 64) (data : BitVec 512) (tag : Tag) (prot : Nat)
    (poison : Option Poison) (writers : List Nat) : State :=
  let s := homeTouch s line tag prot false
  let dn := dieOfPa (line * 64)
  let d := getDie s dn
  let s := match d.slice.find? (fun x => x.line = line) with
    | none => s
    | some x =>
      let x := if x.dirty then x else { x with dirty := true, stale := Memory.read s.mem (line * 64) 64 }
      let p := match poison with
        | some t => some t
        | none => if mask = BitVec.allOnes 64 then none else x.poison
      setDie s dn (setSliceLine d { x with poison := p })
  let m := foldNat (fun m i =>
    if mask.getLsbD i then Memory.set m (line * 64 + i) (lineByte data i) else m) s.mem 64
  noteLineWrite { s with mem := m } line writers

/-- Bytes written at the home slices from a physical address on, line by line; fuel bounds the number of lines. -/
def homeWrite (s : State) (pa : Nat) (bytes : List Byte) (tag : Tag) (prot : Nat) (poison : Option Poison)
    (writers : List Nat) : Nat → State
  | 0 => s
  | fuel + 1 =>
    if bytes = [] then s
    else
      let off := pa % 64
      let piece := bytes.take (64 - off)
      let n := piece.length
      let s := homeWriteLine s (pa / 64) (lineMask off n) (lineWrite 0 off piece) tag prot poison writers
      homeWrite s (pa + n) (bytes.drop n) tag prot poison writers fuel

/-- Whole 512-byte chunks written at the home slices, and written back by them at once with their CRCs (R293, R309, R310): no line and
no poison of the chunks is left, and the watchers of their lines see the write (R230). -/
def homeBulk (s : State) (pa : Nat) (bytes : List Byte) : State :=
  let hi := pa + bytes.length
  let inside := fun (line : Nat) => decide (pa ≤ line * 64) && decide (line * 64 < hi)
  let note := fun (f : Frag) => match f.wait with
    | some (.watch l ..) => if inside l then f.noteWrite l else f
    | _ => f
  { s with
    dies := s.dies.map fun d => (d.1, { d.2 with
      slice := d.2.slice.filter fun x => !inside x.line
      hbmPoison := d.2.hbmPoison.filter fun x => !inside x.1
      crc := if d.1 = dieOfPa pa then foldNat (fun t i => tabSet t (pa / 64 + 8 * i) (crc64 ((bytes.drop (512 * i)).take 512))) d.2.crc
          (bytes.length / 512) else d.2.crc })
    teams := s.teams.map fun t => { t with frags := t.frags.map note }
    mem := Memory.splice s.mem pa bytes }

/-- The cached copy of a line in a core. -/
def cacheLine (c : Core) (line : Nat) : Option CLine := c.cache.find? (fun x => x.line = line)

/-- Write a cached line's dirty bytes back to its home slice (R321). -/
def writeBackLine (s : State) (core line : Nat) : State :=
  let c := getCore s core
  match cacheLine c line with
  | none => s
  | some x =>
    if x.dirty = 0 then s
    else
      let s := homeWriteLine s line x.dirty x.data x.otag x.prot x.poison x.writers
      let c := getCore s core
      setCore s core { c with cache := c.cache.map fun y =>
        if y.line = line then { y with dirty := 0, writers := [] } else y }

/-- Drop a cached line. -/
def dropLine (s : State) (core line : Nat) : State :=
  let c := getCore s core
  setCore s core { c with cache := c.cache.filter (fun y => y.line != line) }

/-- Write back a cached line's dirty bytes and invalidate it. -/
def flushLine (s : State) (core line : Nat) : State := dropLine (writeBackLine s core line) core line

/-- Write back every dirty line of a core cache (FENCE.rel at quad scope or wider, R227). -/
def writeBackAll (s : State) (core : Nat) : State :=
  (getCore s core).cache.foldl (fun s x => writeBackLine s core x.line) s

/-- Invalidate a core cache, writing dirty bytes back first (FENCE.acq at quad scope or wider, R227). -/
def invalidateAll (s : State) (core : Nat) : State :=
  let s := writeBackAll s core
  let c := getCore s core
  setCore s core { c with cache := [] }

/-- Room for one more line in the set of a line: a full set of 8 ways loses one of those that were not used last, a free value saying
which. Pseudo-LRU says no more; the cache lists its lines as they were last used (R201; log entry 46). -/
def makeRoom (s : State) (core line : Nat) : State :=
  let same := (getCore s core).cache.filter (fun x => x.line % 256 = line % 256)
  if same.length < 8 then s
  else
    let (v, s) := takeFree s
    match same[1 + v.toNat % (same.length - 1)]? with
    | some x => flushLine s core x.line
    | none => s

/-- The line of a core cache with every byte valid: a byte not yet valid is fetched from the home slice (R201). -/
def cacheFill (s : State) (core line : Nat) (otag : Tag) (prot : Nat) : State :=
  let fetch := fun (s : State) (x : CLine) =>
    let s := homeTouch s line otag prot true
    let home := lineOf (Memory.read s.mem (line * 64) 64)
    let c := getCore s core
    let x := { x with data := lineMerge x.valid x.data home 64, valid := BitVec.allOnes 64,
                      poison := if x.poison.isSome then x.poison else homePoison s line }
    setCore s core { c with cache := x :: c.cache.filter (fun y => y.line != line) }
  match cacheLine (getCore s core) line with
  | some x => if x.valid = BitVec.allOnes 64 then s else fetch s x
  | none =>
    let s := makeRoom s core line
    let tag := ((getCore s core).cowner.setWidth 12 : Tag)
    fetch s { line, valid := 0, dirty := 0, data := 0, tag, otag, prot, poison := none, writers := [] }

/-- A line of a core cache replaced or added, as the one used last. -/
def useLine (s : State) (core : Nat) (x : CLine) : State :=
  let c := getCore s core
  setCore s core { c with cache := x :: c.cache.filter (fun y => y.line != x.line) }

/-- A load of n bytes within one line through the core cache: the bytes and the line's poison (R219, R320). -/
def cacheRead (s : State) (core pa n : Nat) (otag : Tag) (prot : Nat) : State × List Byte × Option Poison :=
  let line := pa / 64
  let off := pa % 64
  let hit := match cacheLine (getCore s core) line with
    | some x => (x.valid &&& lineMask off n) == lineMask off n
    | none => false
  let s := if hit then s else cacheFill s core line otag prot
  match cacheLine (getCore s core) line with
  | some x => (useLine s core x, lineRead x.data off n, x.poison)
  | none => (s, List.replicate n 0, none)

/-- A store within one line into the core cache, write-allocating its own bytes only (R201, R219). -/
def cacheWrite (s : State) (core pa : Nat) (bytes : List Byte) (otag : Tag) (prot : Nat) (team : Nat)
    (poison : Option Poison) : State :=
  let line := pa / 64
  let off := pa % 64
  let mask := lineMask off bytes.length
  let s := if (cacheLine (getCore s core) line).isSome then s else makeRoom s core line
  let c := getCore s core
  let x := (cacheLine c line).getD
    { line, valid := 0, dirty := 0, data := 0, tag := c.cowner.setWidth 12, otag, prot, poison := none, writers := [] }
  let p := match poison with
    | some t => some t
    | none => if mask = BitVec.allOnes 64 then none else x.poison
  let x := { x with valid := x.valid ||| mask, dirty := x.dirty ||| mask, data := lineWrite x.data off bytes,
                    poison := p, writers := if x.writers.contains team then x.writers else team :: x.writers }
  useLine s core x

/-- The fields of a core's partition word: REG, SCR and ACC units (R62, R197). -/
def partReg (w : Word) : Nat := fld w 0 8
/-- SCR units. -/
def partScr (w : Word) : Nat := fld w 8 8
/-- ACC units. -/
def partAcc (w : Word) : Nat := fld w 16 8

/-- The pool offset of a scratchpad offset (R197). -/
def spPool (c : Core) (off : Nat) : Nat := partReg c.cpart * 65536 + off
/-- The pool offset of accumulator tile n (R197). -/
def tilePool (c : Core) (n : Nat) : Nat := (partReg c.cpart + partScr c.cpart) * 65536 + n * 16384

/-- Scratchpad bytes of a core. -/
def spRead (s : State) (core off n : Nat) : List Byte :=
  let c := getCore s core
  Memory.read c.pool (spPool c off) n

/-- The poison of a scratchpad row of 128 bytes (R211). -/
def spPoison (s : State) (core off : Nat) : Option Poison :=
  ((getCore s core).poisonRows.find? (fun x => x.1 = off / 128)).map (·.2)

/-- Scratchpad bytes written; a write of a whole row cleans it, poison given marks every row written (R211, R238). -/
def spWrite (s : State) (core off : Nat) (bytes : List Byte) (poison : Option Poison) : State :=
  let c := getCore s core
  let rows := fun r => decide (off / 128 ≤ r) && decide (r ≤ (off + bytes.length - 1) / 128)
  let whole := fun r => decide (off ≤ r * 128) && decide (r * 128 + 128 ≤ off + bytes.length)
  let pr := match poison with
    | some t =>
      if bytes = [] then c.poisonRows
      else ((List.range ((off + bytes.length - 1) / 128 + 1 - off / 128)).map fun i => (off / 128 + i, t)) ++
        c.poisonRows.filter (fun x => !rows x.1)
    | none => c.poisonRows.filter (fun x => !whole x.1)
  setCore s core { c with pool := Memory.write c.pool (spPool c off) bytes, poisonRows := pr }

/-- Whether a 16-byte granule is full (R200). -/
def isFull (s : State) (core off : Nat) : Bool := (getCore s core).full.contains (off / 16)

/-- A sorted list of numbers with one more. -/
def insertNat : List Nat → Nat → List Nat
  | [], n => [n]
  | k :: r, n => if n < k then n :: k :: r else if n = k then k :: r else k :: insertNat r n

/-- A granule's full/empty bit set or cleared. -/
def setFull (s : State) (core off : Nat) (b : Bool) : State :=
  let c := getCore s core
  let full := if b then insertNat c.full (off / 16) else c.full.filter (fun g => g != off / 16)
  setCore s core { c with full }

/-- The bytes of n data offsets of a frame from d on, as HBM holds them. -/
def hbmBytes (s : State) (frame d n : Nat) : List Byte :=
  (List.range n).map fun i =>
    let pa := frame * Config.frameBytes + d + i
    ((hbmLine s (pa / 64))[pa % 64]?).getD 0

/-- Whether the pattern of poison stands in HBM for a data byte of a frame (R310). -/
def hbmMarked (s : State) (prot frame d : Nat) : Bool :=
  let line := (frame * Config.frameBytes + d) / 64
  ((getDie s (frame / Config.framesPerDie)).hbmPoison.find? fun x => x.1 == hbmKey prot line).isSome

/-- The raw byte that the stack controller stores at a raw offset of a frame, by the frame's mode: data, the CRC of a chunk, a SEC-DED
check byte or a Reed-Solomon check symbol, the last two inverted where the data line is poisoned (R307, R309, R310). -/
def rawByte (s : State) (prot frame off : Nat) : Byte :=
  let check := fun (d : Nat) (b : Byte) => if hbmMarked s prot frame d then ~~~b else b
  if prot = 1 then
    let d := off / 64 * 56 + off % 64 / 8 * 7
    if off % 8 < 7 then ((hbmBytes s frame (d + off % 8) 1)[0]?).getD 0 else check d (Config.secded (hbmBytes s frame d 7))
  else if prot = 2 then
    let d := off / 64 * 48
    if off % 64 < 48 then ((hbmBytes s frame (d + off % 64) 1)[0]?).getD 0
    else check d (Config.rsSymbol (hbmBytes s frame d 48) (off % 64 - 48))
  else if off < 0x1F8000 then ((hbmBytes s frame off 1)[0]?).getD 0
  else if off < 0x1F8000 + 8 * 4032 then
    let c := (off - 0x1F8000) / 8
    ((storedCrc (getDie s (frame / Config.framesPerDie)) (frame * 32768 + 8 * c)) >>> (8 * (off % 8))).setWidth 8
  else 0

/-- What an access asks of a page (R299). -/
inductive AccKind
  | read | write | rw | fetch | probe
  deriving DecidableEq, Repr

/-- The ACCESS bits of R316 of an access. -/
def AccKind.bits : AccKind → Nat
  | .read | .probe => 1
  | .write => 2
  | .fetch => 4
  | .rw => 8

/-- The outcome of a translation. -/
inductive Tr
  | ok (pa : Nat) (e : TlbEntry)
  | xlate (level : Nat)
  | perm (info : Nat)
  | tail
  | zero (frame : Nat) (otag : Tag)
  | pod
  deriving DecidableEq, Repr

/-- The slot number of a valid context with a tag (R349). -/
def slotOfTag (s : State) (tag : Tag) : Option Nat :=
  (s.hub.slots.find? (fun p => p.2.cxctl.getLsbD 31 && p.2.cxctl.setWidth 12 == tag)).map (·.1)

/-- A slot of the context table. -/
def getSlot (s : State) (n : Nat) : Slot := tabGet Slot.reset s.hub.slots n
/-- The state with a slot replaced. -/
def setSlot (s : State) (n : Nat) (x : Slot) : State :=
  { s with hub := { s.hub with slots := tabSet s.hub.slots n x } }

/-- The outcome of a walk: a leaf, or the fault of R299. -/
inductive Walk
  | leaf (e : TlbEntry)
  | xlate (level : Nat)
  /-- PERM, and the fields of the leaf where it is a leaf that is malformed -/
  | perm (info : Nat) (e : Option TlbEntry)
  /-- an address of the pod window, which is not walked -/
  | pod
  deriving DecidableEq, Repr

/-- One level of the walk at a table address; fuel counts the levels left (R298, R299). -/
def walkFrom (s : State) (t : Tag) (va : Nat) : Nat → Nat → Walk
  | 0, _ => .perm 2 none
  | fuel + 1, table =>
    let level := 3 - fuel
    let idx := if level = 1 then va / 2 ^ 39 % 65536 else if level = 2 then va / 2 ^ 30 % 512 else va / 2 ^ 21 % 512
    let e := Memory.nat s.mem (table + 8 * idx) 8
    let bit := fun n => bits1 e n
    let leaf := bit 1
    let big := level == 2
    let rsv := e / 2 ^ 44 % 256 != 0 || e / 2 ^ 9 % 8 != 0 ||
      (leaf && (if big then e / 2 ^ 12 % 2 ^ 18 != 0 else e / 2 ^ 12 % 2 ^ 9 != 0))
    let wrong := if level = 1 then leaf else if level = 3 then !leaf else false
    let pr := e / 64 % 4
    let entry : TlbEntry :=
      { t, page := if big then va / 2 ^ 30 else va / 2 ^ 21, big, pa := e / 2 ^ 12 % 2 ^ 32 * 4096,
        otag := BitVec.ofNat 12 (e / 2 ^ 52), shr := bit 8, prot := pr, sys := bit 5, x := bit 4, w := bit 3, r := bit 2 }
    if !bit 0 then .xlate level
    else if rsv || wrong || pr == 3 || (leaf && big && pr != 0) || (!leaf && e / 2 ^ 52 != 0) then
      .perm 2 (if leaf then some entry else none)
    else if leaf then .leaf entry
    else walkFrom s t va fuel (e / 2 ^ 12 % 2 ^ 32 * 4096)
where
  /-- Bit n of a table entry. -/
  bits1 (e n : Nat) : Bool := e / 2 ^ n % 2 == 1

/-- The walk of a context's tables (R299). -/
def walk (s : State) (t : Tag) (va : Nat) : Walk :=
  if va / 2 ^ 55 % 2 = 1 then .pod
  else
    match slotOfTag s t with
    | none => .xlate 1
    | some n => walkFrom s t va 3 (fld (getSlot s n).root 19 25 * 2 ^ 19)

/-- The checks made on every access against the translation: SYS, owner, permission, TAIL (R299, R308). -/
def leafCheck (e : TlbEntry) (t : Tag) (k : AccKind) (va : Nat) : Tr :=
  let need := match k with
    | .read => e.r
    | .write => e.w
    | .rw => e.r && e.w
    | .fetch => e.x
    | .probe => true
  let usable := if e.prot = 1 then 0x1C0000 else if e.prot = 2 then 0x180000 else 0x1F8000
  if e.sys && t != 0 then .perm 4
  else if e.otag != t && !e.shr then .perm 3
  else if !need then .perm 0
  else
    let pa := e.pa + (if e.big then va % 2 ^ 30 else va % 2 ^ 21)
    if decide (pa < Config.hbmEnd) && decide (usable ≤ va % 2 ^ 21) then .tail
    else .ok pa e

/-- Whether a TLB entry serves a context's address. -/
def TlbEntry.hits (e : TlbEntry) (t : Tag) (va : Nat) : Bool :=
  e.t == t && e.page == (if e.big then va / 2 ^ 30 else va / 2 ^ 21)

/-- Whether a frame must be zeroed before this leaf's owner may use it: it has no recorded owner, or another one and
SHR is 0 (R354). -/
def frameNeeds (s : State) (e : TlbEntry) (frame : Nat) : Bool :=
  match ((getDie s (frame / Config.framesPerDie)).owners.find? (fun x => x.1 = frame)).map (·.2) with
  | none => true
  | some o => o != e.otag && !e.shr

/-- The first frame of a leaf that must be zeroed first; a 1 GiB leaf has 512 frames (R307, R354). -/
def leafNeeds (s : State) (e : TlbEntry) : Option (Nat × Tag) :=
  let frame := e.pa / Config.frameBytes
  if Config.hbmEnd ≤ e.pa then none
  else if e.big then
    ((List.range 512).find? (fun i => frameNeeds s e (frame + i))).map (fun i => (frame + i, e.otag))
  else if frameNeeds s e frame then some (frame, e.otag) else none

/-- An entry put into a quad TLB of 256 sets of 8 ways; a full set loses one way, a free value saying which (R300). -/
def quadTlbInsert (s : State) (q : Nat) (e : TlbEntry) : State :=
  let x := getQuad s q
  let rest := x.tlb.filter (fun y => !(y.t == e.t && y.page == e.page && y.big == e.big))
  let same := rest.filter (fun y => y.page % 256 == e.page % 256)
  if same.length < 8 then setQuad s q { x with tlb := e :: rest }
  else
    let (v, s) := takeFree s
    match same[v.toNat % same.length]? with
    | some y => setQuad s q { x with tlb := e :: rest.filter (fun z => z != y) }
    | none => s

/-- An entry put into a core's micro-TLB of 64 entries, least recently used replaced (R202). -/
def utlbInsert (s : State) (core : Nat) (e : TlbEntry) : State :=
  let c := getCore s core
  setCore s core { c with utlb :=
    (e :: c.utlb.filter (fun y => !(y.t == e.t && y.page == e.page && y.big == e.big))).take 64 }

/-- The translation of an access of a core: micro-TLB, quad TLB, walker (R202, R299, R300). -/
def translate (s : State) (core : Nat) (t : Tag) (va : DWord) (k : AccKind) : State × Tr :=
  let v := va.toNat % 2 ^ 56
  if va.getLsbD 55 then (s, .pod)
  else
    match (getCore s core).utlb.find? (fun e => e.hits t v) with
    | some e => (utlbInsert s core e, leafCheck e t k v)
    | none =>
      match (getQuad s (quadOf core)).tlb.find? (fun e => e.hits t v) with
      | some e => (utlbInsert s core e, leafCheck e t k v)
      | none =>
        match walk s t v with
        | .pod => (s, .pod)
        | .xlate l => (s, .xlate l)
        | .perm i _ => (s, .perm i)
        | .leaf e =>
          if e.sys && t != 0 then (s, .perm 4)
          else if e.otag != t && !e.shr then (s, .perm 3)
          else
            match leafNeeds s e with
            | some (f, o) => (s, .zero f o)
            | none => (utlbInsert (quadTlbInsert s (quadOf core) e) core e, leafCheck e t k v)

/-- The translation of a copy engine through its TLB of 32 entries (R295). -/
def translateEngine (s : State) (die engine : Nat) (t : Tag) (va : DWord) (k : AccKind) : State × Tr :=
  let v := va.toNat % 2 ^ 56
  let d := getDie s die
  let tlb := tabGet [] d.etlb engine
  if va.getLsbD 55 then (s, .pod)
  else
    match tlb.find? (fun e => e.hits t v) with
    | some e => (s, leafCheck e t k v)
    | none =>
      match walk s t v with
      | .pod => (s, .pod)
      | .xlate l => (s, .xlate l)
      | .perm i _ => (s, .perm i)
      | .leaf e =>
        if e.sys && t != 0 then (s, .perm 4)
        else if e.otag != t && !e.shr then (s, .perm 3)
        else
          match leafNeeds s e with
          | some (f, o) => (s, .zero f o)
          | none =>
            let (fv, s) := if tlb.length < 32 then ((0 : BitVec 64), s) else takeFree s
            let tlb := if tlb.length < 32 then tlb else tlb.eraseIdx (fv.toNat % tlb.length)
            (setDie s die { d with etlb := tabSet d.etlb engine (e :: tlb) }, leafCheck e t k v)

/-- A translation made by the hub, the host or a peer: the tables alone (R346, R442). -/
def translateWalk (s : State) (t : Tag) (va : DWord) (k : AccKind) : Tr :=
  let v := va.toNat % 2 ^ 56
  if va.getLsbD 55 then .pod
  else
    match walk s t v with
    | .pod => .pod
    | .xlate l => .xlate l
    | .perm i _ => .perm i
    | .leaf e =>
      match leafCheck e t k v with
      | .ok pa e =>
        match leafNeeds s e with
        | some (f, o) => .zero f o
        | none => .ok pa e
      | x => x

/-- The TLB entries that a test names dropped: in every micro-TLB, quad TLB and engine TLB. -/
def dropTlb (s : State) (gone : TlbEntry → Bool) : State :=
  let keep := fun (l : List TlbEntry) => l.filter fun e => !gone e
  { s with
    cores := s.cores.map fun p => (p.1, { p.2 with utlb := keep p.2.utlb })
    quads := s.quads.map fun p => (p.1, { p.2 with tlb := keep p.2.tlb })
    dies := s.dies.map fun p => (p.1, { p.2 with etlb := p.2.etlb.map fun x => (x.1, keep x.2) }) }

/-- A frame begins to be zeroed by copy-engine time (R354). -/
def startZero (s : State) (frame : Nat) (tag : Tag) : State :=
  let dn := frame / Config.framesPerDie
  let d := getDie s dn
  if d.zeroing.any (fun x => x.1 == frame) then s
  else setDie s dn { d with zeroing := d.zeroing ++ [(frame, tag)] }

/-- A frame zeroed: its bytes, its slice lines and its poison go, and its owner is recorded (R354). -/
def zeroFrame (s : State) (frame : Nat) (tag : Tag) : State :=
  let dn := frame / Config.framesPerDie
  let d := getDie s dn
  let lo := frame * Config.frameBytes
  let inside := fun l => decide (lo ≤ l * 64) && decide (l * 64 < lo + Config.frameBytes)
  let s := setDie s dn { d with
    owners := tabSet d.owners frame tag
    slice := d.slice.filter (fun x => !inside x.line)
    hbmPoison := d.hbmPoison.filter (fun x => !inside x.1)
    crc := d.crc.filter (fun x => !inside x.1) }
  { s with mem := Memory.clear s.mem lo (lo + Config.frameBytes) }

end Sys2Proof.Machine
end

