-- ==== Sys2Proof/Machine/Team.lean ====
section
/-! DEFINITION. Teams, fragments, lanes, masks and scalars: access and the plain updates of the others (R66 to R93, R98). -/

namespace Sys2Proof.Machine

/-- The resident team with a number of the model's own. -/
def teamOf (s : State) (uid : Nat) : Option Team := s.teams.find? (fun t => t.uid == uid)

/-- The state with a team replaced. -/
def setTeam (s : State) (t : Team) : State :=
  { s with teams := s.teams.map fun u => if u.uid = t.uid then t else u }

/-- The state with a team changed by a function. -/
def modTeam (s : State) (uid : Nat) (g : Team → Team) : State :=
  { s with teams := s.teams.map fun u => if u.uid = uid then g u else u }

/-- A team as it starts (R68, R69, R71, R74, R287), with nothing in its scalars and no fragment yet. -/
def Team.blank (uid : Nat) (tag : Tag) (launch core bench : Nat) : Team :=
  { uid, tag, launch, number := 0, teams := 0, age := 0, core, bench, slot := 0, group := 0, width := 0, isProtected := false,
    stackDecl := 0, localsDecl := 0, base := 0, isCoresident := false, isPersistent := false, isComp := false,
    lanes := [], scalars := List.replicate 32 0, cc := 0, fpsf := 0, uhvec := 0, helpers := 0, exited := 0,
    loops := [], calls := [], sb := [], nextSb := 0, scalarPend := [], region := none, tcyc := 0,
    timerV := { deadline := 0, armed := false }, timerG := { deadline := 0, armed := false }, gHeld := 0, trapcode := 0,
    emuop := 0, emuf16 := 0, emui32 := 0, emupc := 0, trapLoops := [], rprog := 0, held := none, removed := [],
    heldIx := [], ix := none, ixStatus := 0, pwrprio := 1, withheld := 0,
    exempt := false, pages := [], replay := [], frags := [] }

/-- The running fragment of a team (R81). -/
def runFrag (t : Team) : Option Frag := t.frags.find? (fun f => f.st == .run)

/-- A split entry by its number. -/
def fragOf (t : Team) (n : Nat) : Option Frag := t.frags.find? (fun f => f.num == n)

/-- The team with a split entry replaced. -/
def setFrag (t : Team) (f : Frag) : Team :=
  { t with frags := t.frags.map fun g => if g.num = f.num then f else g }

/-- The team with a split entry changed. -/
def modFrag (t : Team) (n : Nat) (g : Frag → Frag) : Team :=
  { t with frags := t.frags.map fun f => if f.num = n then g f else f }

/-- Lanes as programs count them: in a protected team a visible lane is a pair of physical lanes (R97). -/
def Team.nlane (t : Team) : Nat := if t.isProtected then t.width / 2 else t.width

/-- The physical lane of a visible lane, on the side of physical lane i: primaries exchange with primaries (R98). -/
def Team.sameSide (t : Team) (i v : Nat) : Nat := if t.isProtected then 2 * v + i % 2 else v

/-- The number of a physical lane as LANE reads it (R66, R97). -/
def Team.vis (t : Team) (lane : Nat) : Nat := if t.isProtected then lane / 2 else lane

/-- The lanes of a mask, ascending, below n. -/
def lanesOf (m : Mask) (n : Nat) : List Nat := (List.range n).filter m.getLsbD

/-- The mask of the lanes 0 to n - 1. -/
def fullMask (n : Nat) : Mask := BitVec.ofNat 1024 (2 ^ n - 1)

/-- The mask of one lane. -/
def laneBit (i : Nat) : Mask := (1 : Mask) <<< i

/-- The mask of a list of lanes. -/
def maskOf (l : List Nat) : Mask := l.foldl (fun m i => m ||| laneBit i) 0

/-- Mask word k. -/
def maskWord (m : Mask) (k : Nat) : Word := (m >>> (32 * k)).setWidth 32

/-- The mask words of a team, w = n / 32 rounded up. -/
def Team.words (t : Team) : Nat := (t.width + 31) / 32

/-- The words of a mask that hold a lane, ascending: the passes of R75. -/
def passWords (t : Team) (m : Mask) : List Nat := (List.range t.words).filter fun k => maskWord m k != 0

/-- Active lanes, helpers included. -/
def Team.activeLanes (t : Team) (f : Frag) : List Nat := lanesOf f.active t.width

/-- The primaries of a list of physical lanes: all of them in a team that is not protected (R97). -/
def Team.primaries (t : Team) (l : List Nat) : List Nat := if t.isProtected then l.filter (fun i => i % 2 = 0) else l

/-- The active lanes that are not helpers. -/
def Team.actors (t : Team) (f : Frag) : List Nat := lanesOf (f.active &&& ~~~t.helpers) t.width

/-- Whether the fragment has an active lane that is not a helper (R158, R376). -/
def Team.acts (t : Team) (f : Frag) : Bool := f.active &&& ~~~t.helpers != 0

/-- A scalar register; s0 reads as zero (R69). -/
def getS (t : Team) (r : SReg) : DWord := if r = 0 then 0 else (t.scalars[r.toNat]?).getD 0

/-- A scalar register written; a write to s0 is discarded (R69). -/
def setS (t : Team) (r : SReg) (v : DWord) : Team :=
  if r = 0 then t else { t with scalars := listSet t.scalars r.toNat v }

/-- An entry that holds no poison. -/
def Entry.clean (w : Word) : Entry := { bits := w, poison := none }

/-- The zero entry that a member which is not active pushes (R87). -/
def Entry.zero : Entry := Entry.clean 0

/-- A lane by its physical number. -/
def Team.lane (t : Team) (i : Nat) : Lane := (t.lanes[i]?).getD { stack := [], locals := [] }

/-- The entry k places below TOS of a lane. -/
def Lane.at (l : Lane) (k : Nat) : Entry := (l.stack[k]?).getD Entry.zero

/-- The bits of the entry k places below TOS of lane i. -/
def Team.opd (t : Team) (i k : Nat) : Word := ((t.lane i).at k).bits

/-- A pair whose high half lies k places below TOS of lane i (R12). -/
def Team.opd2 (t : Team) (i k : Nat) : DWord := pair (t.opd i (k + 1)) (t.opd i k)

/-- A list mapped with the index of each element, from i on. -/
def mapIdxFrom {α β : Type} (g : Nat → α → β) : Nat → List α → List β
  | _, [] => []
  | i, x :: r => g i x :: mapIdxFrom g (i + 1) r

/-- The team with every lane changed by its number. -/
def Team.mapLanes (t : Team) (g : Nat → Lane → Lane) : Team := { t with lanes := mapIdxFrom g 0 t.lanes }

/-- Every member lane of a fragment pops p entries and pushes q: an active lane what g gives from its popped entries
(TOS first), a member that is not active zeros (R87). D follows. -/
def Team.stackOp (t : Team) (f : Frag) (p q : Nat) (g : Nat → List Entry → List Entry) : Team :=
  let t := t.mapLanes fun i l =>
    if f.member.getLsbD i then
      let rest := l.stack.drop p
      { l with stack := (if f.active.getLsbD i then g i (l.stack.take p) else List.replicate q Entry.zero) ++ rest }
    else l
  modFrag t f.num fun x => { x with depth := x.depth + q - p }

/-- The poison that the active lanes hold in the top p entries, each once. -/
def Team.poisonIn (t : Team) (f : Frag) (p : Nat) : List Poison :=
  (t.activeLanes f).foldl (fun l i =>
    ((t.lane i).stack.take p).foldl (fun l e => match e.poison with
      | some g => if l.contains g then l else l ++ [g]
      | none => l) l) []

/-- The position, counted from the bottom, of the entry k places below TOS at depth d. -/
def posOf (d k : Nat) : Nat := d - k

/-- Whether a component of a scoreboard entry is a stack position at or above n, in a lane of a mask. -/
def SbEntry.holdsPos (e : SbEntry) (m : Mask) (lo hi : Nat) : Bool :=
  e.targets.any fun x => match x.2.2 with
    | .pos n => decide (lo ≤ n) && decide (n ≤ hi) && x.2.1 &&& m != 0
    | .loc _ => false

/-- Whether a component of a scoreboard entry is local k, in a lane of a mask. -/
def SbEntry.holdsLoc (e : SbEntry) (m : Mask) (k : Nat) : Bool :=
  e.targets.any fun x => match x.2.2 with
    | .loc j => j == k && x.2.1 &&& m != 0
    | .pos _ => false

/-- The scoreboard entries whose result holds one of the top p positions of a fragment (R50). -/
def Team.pendingTop (t : Team) (f : Frag) (p : Nat) : List SbEntry :=
  if p = 0 then [] else t.sb.filter fun e => e.holdsPos f.member (f.depth + 1 - p) f.depth

/-- The scoreboard entries whose result holds local k in a lane of the fragment. -/
def Team.pendingLoc (t : Team) (f : Frag) (k : Nat) : List SbEntry := t.sb.filter fun e => e.holdsLoc f.member k

/-- A fragment's windows end (R48). -/
def Team.endWindows (t : Team) (n : Nat) : Team :=
  { t with sb := t.sb.map fun e => if e.frag = n then { e with window := 0 } else e }

/-- One more instruction of a fragment has issued: its windows count down (R48). -/
def Team.tickWindows (t : Team) (n : Nat) : Team :=
  { t with sb := t.sb.map fun e => if e.frag = n then { e with window := e.window - 1 } else e }

/-- The shelf count before an instruction that pops p issues: fills until the shelf holds min(p, 8) (R90). -/
def shelfFill (d need : Nat) : Nat → Nat → Nat
  | 0, h => h
  | n + 1, h => if h < need ∧ h < d then shelfFill d need n (h + min 4 (min (d - h) (8 - h))) else h

/-- Drains before issue, 4 at a time, until the result fits the shelf of 8 (R90). -/
def shelfDrain (p q : Nat) : Nat → Nat → Nat
  | 0, h => h
  | n + 1, h => if 8 + p < h + q ∧ 4 ≤ h then shelfDrain p q n (h - 4) else h

/-- The shelf count after an instruction with pops p and pushes q of a fragment at depth d with h on the shelf (R90). -/
def shelfAfter (d h p q : Nat) : Nat :=
  let h := shelfFill d (min p 8) 3 h
  let h := shelfDrain p q 3 h
  let h := h + q - p
  let d := d + q - p
  if h < 2 ∧ h < d then h + min 4 (min (d - h) (8 - h)) else h

/-- A value as a PC holds it: bits 63:56 and bit 0 of a PC are zero (R68, R42; log entry 50). -/
def pcOf (v : DWord) : DWord := v &&& 0x00FFFFFFFFFFFFFE

/-- The fragment of greatest SEQ in a list: the one created last (R78). -/
def newest (l : List Frag) : Option Frag := l.foldl (fun a f => match a with
  | none => some f
  | some g => if g.seq < f.seq then some f else some g) none

/-- The handlers of the trap markers: a marker's one child, made at its trap and kept until TRET (R180, R181). -/
def Team.handlers (t : Team) : List Frag := t.frags.filter fun h => t.frags.any fun m => m.trapMarker && h.parent == some m.num

/-- The innermost trap marker: the one made last, whose handler is therefore the newest (R78, R180). -/
def Team.marker (t : Team) : Option Frag := ((newest t.handlers).bind (·.parent)).bind (fragOf t)

/-- Whether following parents from entry n reaches entry m; fuel counts entries. -/
def Team.under (t : Team) (m : Nat) : Nat → Nat → Bool
  | 0, _ => false
  | k + 1, n => match (fragOf t n).bind (·.parent) with
    | none => false
    | some p => p == m || Team.under t m k p

/-- Whether an entry lies above the innermost trap marker; every entry does when there is none. -/
def Team.aboveMarker (t : Team) (f : Frag) : Bool := match t.marker with
  | none => true
  | some m => Team.under t m.num 64 f.num

/-- Whether another fragment above the innermost trap marker is READY, RUN or PARKED (R170 to R172). -/
def Team.othersLive (t : Team) (f : Frag) : Bool :=
  t.frags.any fun g => g.num != f.num && (g.st == .ready || g.st == .run || g.st == .parked) && t.aboveMarker g

/-- The lowest free entry number (R77). -/
def Team.freeNum (t : Team) : Nat :=
  ((List.range 64).find? fun n => t.frags.all fun f => f.num != n).getD 64

/-- The next SEQ, renumbering the live entries in ascending order when it would pass 65535 (R78). -/
def Team.newSeq (t : Team) : Team × Nat :=
  match t.frags.foldl (fun a f => match a with
    | none => some f.seq
    | some m => some (max m f.seq)) none with
  | none => (t, 0)
  | some m =>
    if m < 65535 then (t, m + 1)
    else
      let t := { t with frags := t.frags.map fun f =>
        { f with seq := (t.frags.filter fun g => decide (g.seq < f.seq)).length } }
      (t, t.frags.length)

/-- The trap markers above a fragment note how far it has popped: the lowest depth reached in their handlers (R181). -/
def Team.notePop (t : Team) (f : Frag) (p : Nat) : Team :=
  { t with frags := t.frags.map fun m =>
      if m.trapMarker ∧ Team.under t m.num 64 f.num then { m with low := min m.low (f.depth - p) } else m }

/-- The READY fragment that runs next: the newest that has not paused since it last issued, else the newest that has not just
paused, else the one that has (R80, R81). -/
def Team.nextReady (t : Team) : Option Frag :=
  let ready := t.frags.filter fun f => f.st == .ready
  (newest (ready.filter fun f => f.paused == 0)).or ((newest (ready.filter fun f => f.paused == 1)).or (newest ready))

/-- The entries a team holds in its core's split table beyond its reserve of 4 (R83). -/
def sharedEntries (t : Team) : Nat := (t.frags.filter fun f => !f.spilled).length - 4

/-- Whether a core's split table holds more shared entries than it has (R83). -/
def splitFull (s : State) (core : Nat) : Bool :=
  let here := s.teams.filter fun t => t.core == core
  decide (256 - 4 * here.length < (here.map sharedEntries).sum)

/-- The team's oldest entry that is not running and stands in the table (R84). -/
def oldestEntry (t : Team) : Option Frag :=
  (t.frags.filter fun f => f.st != .run && !f.spilled).foldl (fun a f => match a with
    | none => some f
    | some g => if f.seq < g.seq then some f else some g) none

/-- A team that has taken an entry spills its oldest ones while the table has no room (R84). -/
def spillTeam (s : State) (uid : Nat) : State :=
  foldNat (fun s _ => match teamOf s uid with
    | none => s
    | some t =>
      if sharedEntries t = 0 ∨ !splitFull s t.core then s
      else match oldestEntry t with
        | some f => setTeam s (modFrag t f.num fun x => { x with spilled := true })
        | none => s) s 64

/-- GTIME or TCYC and the other special registers as lane i of a fragment reads them (R56, R131). -/
def specValue (s : State) (t : Team) (f : Frag) (x : SpecReg) (lane : Nat) : DWord :=
  match x with
  | .lane => BitVec.ofNat 64 (t.vis lane)
  | .team => BitVec.ofNat 64 t.number
  | .teams => BitVec.ofNat 64 t.teams
  | .nlane => BitVec.ofNat 64 t.nlane
  | .bench => BitVec.ofNat 64 t.bench
  | .core => BitVec.ofNat 64 (logCore s t.core)
  | .quad => BitVec.ofNat 64 (logQuad s t.core)
  | .die => BitVec.ofNat 64 (dieOf t.core)
  | .pkg => s.fabric.fpod &&& 0xFF
  | .depth => BitVec.ofNat 64 f.depth
  | .tcyc => t.tcyc
  | .gtime => s.gtime
  | .rprog => t.rprog.setWidth 64
  | .rentry => match t.region with
    | some r => r.rentry
    | none => 0
  | .fmt => f.fmt.setWidth 64
  | .cc => t.cc.setWidth 64
  | .uhvec => t.uhvec
  | .fpsf => t.fpsf.setWidth 64
  | .emuop => t.emuop.setWidth 64
  | .emuf16 => t.emuf16.setWidth 64
  | .emui32 => t.emui32.setWidth 64
  | .emupc => t.emupc
  | .trapcode => t.trapcode.setWidth 64

end Sys2Proof.Machine
end

