-- ==== Sys2Proof/Machine/Regs.lean ====
section
/-! DEFINITION. Reading the register blocks (R208, R289, R313, R316, R340, R341, R344, R349, R370, R386, R388, R403, R440). -/

namespace Sys2Proof.Machine

/-- Base addresses of R340. -/
def regBase : Nat := 0x0C000000000
/-- Base of the quad blocks. -/
def quadBase : Nat := regBase + 0x100000
/-- Base of the die blocks. -/
def dieBase : Nat := regBase + 0x200000
/-- Base of the hub block. -/
def hubBase : Nat := regBase + 0x1000000
/-- Base of the queue windows. -/
def windowBase : Nat := 0x0C100000000

/-- The status word of PWRREAD and QSTAT (R288), with the given PRIO. -/
def pwrStatus (s : State) (q : Nat) (prio : BitVec 2) : DWord :=
  let x := getQuad s q
  let a := if x.allow.toInt < 0 then 0 else x.allow.toNat / 1000
  let th := match (getDie s (q / 14)).therm with
    | .normal => 0
    | .throttled => 1
    | .tripped => 2
  BitVec.ofNat 64 (a * 2 ^ 32 + x.pattern.toNat * 2 ^ 16 + th * 2 ^ 14 + prio.toNat * 2 ^ 12 + x.grant)

/-- A register of a bench (R403, R404). -/
def benchReg (b : Bench) (off : Nat) : DWord :=
  if off = 0x00 then (b.bctl ||| (if b.claimant.isSome then 8 else 0)).setWidth 64
  else if off = 0x08 then b.bfreeze
  else if off = 0x10 then b.bsec
  else if off = 0x18 then b.bsample
  else if off = 0x20 then b.btrace
  else if off = 0x28 then b.btrptr
  else if 0x40 ≤ off ∧ off < 0x80 then (b.bpctl[(off - 0x40) / 8]?).getD 0
  else 0

/-- A register of core c (R208). -/
def coreReg (s : State) (c off : Nat) : DWord :=
  let x := getCore s c
  if off = 0 then pair x.cpart x.cowner
  else if off = 8 then pair x.cstate x.cecnt
  else if off = 0x10 then x.celog
  else if 0x100 ≤ off ∧ off < 0x300 then benchReg ((x.benches[(off - 0x100) / 0x80]?).getD Bench.reset) ((off - 0x100) % 0x80)
  else 0

/-- The bytes of a fault-buffer entry (R316), 24 of data and the rest of its 32 zero. -/
def FbEntry.bytes (e : FbEntry) : List Byte :=
  leBytes 8 (e.page * 2 ^ 21) ++ leBytes 2 e.tag.toNat ++ leBytes 1 e.level ++ leBytes 1 e.access ++
    leBytes 2 e.waiters.length ++ leBytes 1 e.state ++ [0] ++ leBytes 8 e.firstPc.toNat ++ leBytes 8 e.time.toNat

/-- A register of die d (R313, R315, R316, R422); FBRES is write-only and reads zero. -/
def dieReg (s : State) (d off : Nat) : DWord :=
  let x := getDie s d
  if off = 0x00 then x.dqmap
  else if off = 0x08 then x.xinv
  else if off = 0x10 then x.decnt.setWidth 64
  else if off = 0x18 then x.delog
  else if off = 0x20 then BitVec.ofNat 64 ((x.fb.map (·.waiters.length)).sum * 2 ^ 16 + x.fb.length)
  else if off = 0x30 then x.deinj
  else if 0x1000 ≤ off ∧ off < 0x5000 then
    match x.fb.find? (fun e => e.idx = (off - 0x1000) / 32) with
    | some e => BitVec.ofNat 64 (leNat ((e.bytes.drop ((off - 0x1000) % 32)).take 8))
    | none => 0
  else if 0x8000 ≤ off ∧ off < 0x9800 then ((tabGet 0 x.cctx ((off - 0x8000) / 8) : Word)).setWidth 64
  else 0

/-- The resident teams of a context. -/
def teamsOfTag (s : State) (tag : Tag) : List Team := s.teams.filter fun t => t.tag == tag

/-- CXSTAT of a slot (R349): resident teams and the state code. -/
def cxstat (s : State) (n : Nat) : DWord :=
  let x := getSlot s n
  let m := if x.cxctl.getLsbD 31 then min 65535 (teamsOfTag s (x.cxctl.setWidth 12)).length else 0
  BitVec.ofNat 64 (m * 2 ^ 16 + x.st)

/-- QSTAT of a queue (R344). -/
def qstat (q : Queue) : DWord :=
  BitVec.ofNat 64 (q.lastErr * 2 ^ 56 + q.accepted % 65536 * 2 ^ 16 + q.packets.length)

/-- A register of the hub (R341, R370, R388, R440). CXCMD is write-only and reads zero. -/
def hubReg (s : State) (off : Nat) : DWord :=
  let h := s.hub
  if off = 0x00 then BitVec.ofNat 64 (h.bootReason * 2 ^ 24 + h.bootFails * 2 ^ 16 + h.bootImage * 2 ^ 8 + h.bootState)
  else if off = 0x08 then 0xFFFF
  else if off = 0x18 then h.pbudget.setWidth 64
  else if off = 0x20 then h.hlog
  else if off = 0x28 then h.pstep
  else if off = 0x30 then h.actcfg.setWidth 64
  else if 0x40 ≤ off ∧ off < 0x80 then
    let d := (off - 0x40) / 16
    if off % 16 = 0 then (h.actseg[d]?).getD 0
    else BitVec.ofNat 64 ((h.seghead[d]?).getD 0 * 2 ^ 24 + (h.segused[d]?).getD 0)
  else if off = 0x80 then h.store.cfg
  else if off = 0x88 then h.store.base
  else if off = 0x90 then h.store.gran.setWidth 64
  else if off = 0x98 then BitVec.ofNat 64 h.store.free
  else if 0x1000 ≤ off ∧ off < 0x2000 then
    let q := tabGet Queue.reset h.queues ((off - 0x1000) / 16)
    if off % 16 = 0 then q.cfg.setWidth 64 else qstat q
  else if 0x2000 ≤ off ∧ off < 0x2800 then
    let p := tabGet Pool.reset h.pools ((off - 0x2000) / 32)
    let o := off % 32
    if o = 0 then p.ctl else if o = 8 then p.list
    else if o = 16 then
      (if p.ctl.getLsbD 63 then BitVec.ofNat 64 (fld p.ctl 0 24 + 1 - p.next + p.given.length) else 0)
    else 0
  else if 0x4000 ≤ off ∧ off < 0x8000 then
    let n := (off - 0x4000) / 64
    let x := getSlot s n
    let o := off % 64
    if o = 0 then x.cxctl.setWidth 64 else if o = 8 then x.root else if o = 16 then x.save
    else if o = 24 then x.csa else if o = 32 then x.term else if o = 48 then cxstat s n else 0
  else if 0x8000 ≤ off ∧ off < 0xA000 then tabGet 0 h.acl ((off - 0x8000) / 8)
  else if off = 0xA000 then s.fabric.fpod
  else if 0xA100 ≤ off ∧ off < 0xA200 then
    let p := tabGet PodChan.reset s.fabric.pod ((off - 0xA100) / 16)
    if off % 16 = 0 then p.cfg else BitVec.ofNat 64 (p.gen % 2 ^ 32)
  else if 0xA400 ≤ off ∧ off < 0xA600 then ((tabGet 0 s.fabric.hbar2 ((off - 0xA400) / 8) : Word)).setWidth 64
  else if 0xA800 ≤ off ∧ off < 0xA890 then tabGet 0 s.fabric.tlink ((off - 0xA800) / 8)
  else if 0xB000 ≤ off ∧ off < 0xB800 then tabGet 0 s.fabric.podacl ((off - 0xB000) / 8)
  else if 0xC000 ≤ off ∧ off < 0x10000 then
    pair (tabGet 0 h.tlown ((off - 0xC000) / 4)) (tabGet 0 h.tlown ((off - 0xC000) / 4 + 1))
  else 0

/-- The eight bytes of the register blocks at an address that is a multiple of 8 (R340). A queue window reads as zero (R343). -/
def regDword (s : State) (pa : Nat) : DWord :=
  if pa < regBase + 0xE0000 ∧ regBase ≤ pa then coreReg s ((pa - regBase) / 0x1000) (pa % 0x1000)
  else if quadBase ≤ pa ∧ pa < quadBase + 0x38000 then
    let q := (pa - quadBase) / 0x1000
    let o := pa % 0x1000
    if o = 0 then (getQuad s q).allow else if o = 8 then pwrStatus s q 1
    else if o = 16 then BitVec.ofNat 64 (min 0xFFFFFFFF ((getQuad s q).lastSpent / 1000)) else 0
  else if dieBase ≤ pa ∧ pa < dieBase + 0x400000 then dieReg s ((pa - dieBase) / 0x100000) (pa % 0x100000)
  else if hubBase ≤ pa ∧ pa < hubBase + 0x10000 then hubReg s (pa - hubBase)
  else 0

/-- n bytes of the register blocks from an address on. -/
def regBytes (s : State) (pa : Nat) : Nat → List Byte
  | 0 => []
  | n + 1 => lineByte ((regDword s (pa / 8 * 8)).setWidth 512) (pa % 8) :: regBytes s (pa + 1) n

end Sys2Proof.Machine
end

