-- ==== Sys2Proof/Machine/Buffer.lean ====
section
/-! DEFINITION. The fault buffer, fault records and trace records (R186, R302, R303, R316, R405, R411, R412). -/

namespace Sys2Proof.Machine

/-- Free waiters of a die's pool of 4096 (R302). -/
def waitersFree (d : Die) : Nat := 4096 - (d.fb.map (·.waiters.length)).sum

/-- The lowest free index of the 512 entries (R302). -/
def fbFree (d : Die) : Option Nat := (List.range 512).find? fun i => d.fb.all fun e => e.idx != i

/-- The entry of a tag's page. -/
def fbFind (d : Die) (tag : Tag) (page : Nat) : Option FbEntry := d.fb.find? fun e => e.tag == tag && e.page == page

/-- Entries in index order with one more, or one replaced. -/
def fbPut : List FbEntry → FbEntry → List FbEntry
  | [], e => [e]
  | x :: r, e => if e.idx < x.idx then e :: x :: r else if e.idx = x.idx then e :: r else x :: fbPut r e

/-- The ACCESS bits of R316 of two lists of waiters together. -/
def orBits (a b : Nat) : Nat := (BitVec.ofNat 8 a ||| BitVec.ofNat 8 b).toNat

/-- A launch of a team counts one more fault: a class S record, which then awaits the Bureau, or a fault-buffer entry (R417, R418). -/
def countFault (s : State) (launch : Nat) (record : Bool) : State :=
  let launches := s.hub.launches.map fun l =>
    if l.id = launch then { l with faults := l.faults + 1, awaits := l.awaits || record } else l
  { s with hub := { s.hub with launches } }

/-- The head packet of a queue counts one more fault-buffer entry (R417). -/
def countPacket (s : State) (queue : Nat) : State :=
  let q := tabGet Queue.reset s.hub.queues queue
  match q.packets with
  | p :: r =>
    { s with hub := { s.hub with queues := tabSet s.hub.queues queue { q with packets := { p with faults := p.faults + 1 } :: r } } }
  | [] => s

/-- The append number of the packet whose launch a waiter belongs to, or which is the waiter: one for the packet and for its launch. -/
def countedBy (s : State) (w : Waiter) : Option Nat := match w.kind with
  | .walk _ _ | .remote .. => none
  | .launch q => (tabGet Queue.reset s.hub.queues q).packets.head?.map (·.seq)
  | _ => (s.hub.launches.find? fun l => l.id == w.launch).map (·.pkt.seq)

/-- An entry counted by the launch of a waiter, or by the packet that waits (R417). -/
def countEntry (s : State) (w : Waiter) : State := match w.kind with
  | .walk _ _ | .remote .. => s
  | .launch q => countPacket s q
  | _ => countFault s w.launch false

/-- A waiter appended to the entry of a tag's page, made if it is not there (R302); none when no entry or waiter is free. The
waiter's launch counts the entry, once (R417). -/
def addWaiter (s : State) (die : Nat) (tag : Tag) (page level : Nat) (w : Waiter) : Option State :=
  let d := getDie s die
  let old := fbFind d tag page
  let before := (old.map (·.counted)).getD []
  let new := (countedBy s w).toList.filter fun n => !before.contains n
  let count := fun (x : State) => if new.isEmpty then x else countEntry x w
  if waitersFree d = 0 then none
  else
    match old with
    | some e =>
      some (count (setDie s die { d with fb := fbPut d.fb { e with
        waiters := e.waiters ++ [w], access := orBits e.access w.access, counted := new ++ before } }))
    | none =>
      match fbFree d with
      | none => none
      | some i =>
        let firstPc := match w.kind with
          | .copy _ | .launch _ | .walk _ _ | .remote .. => 0
          | _ => w.pc
        let e : FbEntry :=
          { idx := i, page, tag, level, access := w.access, state := 1, firstPc, time := s.gtime, waiters := [w], counted := new }
        some (count (setDie s die { d with fb := fbPut d.fb e }))

/-- The address of a parked access. -/
def Acc.va : Acc → DWord
  | .load _ va .. => va
  | .store _ va .. => va
  | .sld _ va => va
  | .atom _ va .. => va
  | .scat _ va .. => va
  | .dqnt _ _ elem .. => elem
  | .qnt _ row _ => (row.head?.map (·.1)).getD 0

/-- The page of an address as the team's set of pages counts it (R303). -/
def vpage (va : DWord) : Nat := va.toNat / 2 ^ 21

/-- The page on which an access waits, as the team's set of pages counts it: the streams of a row lie outside the pod window. -/
def accPage (a : Acc) (page : Nat) : Nat := match a with
  | .dqnt .. | .qnt .. => page
  | a => vpage a.va

/-- The page of a waiter of a team as its set of pages counts it. -/
def waiterPage (w : Waiter) (page : Nat) (t : Team) : Nat :=
  match w.kind with
  | .pass (a :: _) => accPage a page
  | _ => if t.pages.any (fun p => p.1 = page) then page else ((t.pages.find? fun p => decide (p.1 % 2 ^ 26 = page % 2 ^ 26)).map (·.1)).getD page

/-- Whether a team's set of pages has room for a page (R303). -/
def Team.pageFits (t : Team) (page : Nat) : Bool := decide (t.pages.length < 16) || t.pages.any fun p => p.1 == page

/-- A fault-buffer entry put back, or freed (R302). -/
def putEntry (s : State) (die idx : Nat) (e : Option FbEntry) : State :=
  let d := getDie s die
  setDie s die { d with fb := match e with
    | some e => fbPut d.fb e
    | none => d.fb.filter fun x => x.idx != idx }

/-- An entry of a die's fault buffer. -/
def entryOf (s : State) (die idx : Nat) : Option FbEntry := (getDie s die).fb.find? fun e => e.idx == idx

/-- A waiter put before the others of an entry that it has just left, its access not made (R303, R304). -/
def putFront (s : State) (die idx : Nat) (w : Waiter) : State :=
  let d := getDie s die
  setDie s die { d with fb := d.fb.map fun e => if e.idx = idx then { e with waiters := w :: e.waiters } else e }

/-- A page counted once more in a team's set of pages with waiters (R303). -/
def notePage (t : Team) (page : Nat) : Team :=
  let pages := if t.pages.any (fun p => p.1 = page) then
      t.pages.map fun p => if p.1 = page then (p.1, p.2 + 1) else p
    else t.pages ++ [(page, 1)]
  { t with pages }

/-- A waiter of a team on a page gone: the page leaves the set with its last (R303). -/
def dropPage (t : Team) (page : Nat) : Team :=
  let pages := (t.pages.map fun p => if p.1 = page then (p.1, p.2 - 1) else p).filter fun p => p.2 != 0
  { t with pages }

/-- The bench of a core. -/
def getBench (s : State) (c b : Nat) : Bench := ((getCore s c).benches[b]?).getD Bench.reset
/-- The state with a bench replaced. -/
def setBench (s : State) (c b : Nat) (x : Bench) : State :=
  let k := getCore s c
  setCore s c { k with benches := listSet k.benches b x }

/-- The bench slot of a team (R404). -/
def slotNo (_ : State) (t : Team) : Nat := t.slot

/-- The summary word of a mask. -/
def summary (t : Team) (m : Mask) : Word :=
  (List.range t.words).foldl (fun a k => if maskWord m k != 0 then a ||| ((1 : Word) <<< k) else a) 0

/-- The bytes of a trace record (R412); slot 0xFF and zeros stand where no team is named. -/
def traceBytes (s : State) (kind slot info : Nat) (tag : Tag) (f : Option Frag) (act : Word) : List Byte :=
  leBytes 1 kind ++ leBytes 1 slot ++ leBytes 1 ((f.map (·.num)).getD 0) ++ leBytes 1 info ++ leBytes 2 tag.toNat ++ [0, 0] ++
    leBytes 8 ((f.map (·.pc.toNat)).getD 0) ++ leBytes 8 s.gtime.toNat ++ leBytes 4 act.toNat ++ leBytes 1 ((f.map (·.depth)).getD 0) ++
    [0, 0, 0]

/-- Whether a bench's ring takes records (R411). -/
def Bench.ringOk (b : Bench) : Bool := decide (6 ≤ fld b.btrace 56 5) && decide (fld b.btrace 56 5 ≤ 24)

/-- A record made by a bench waits for memory; with 64 waiting it is dropped, and DROPS counts it (R411). -/
def traceWrite (s : State) (c b kind slot info : Nat) (tag : Tag) (f : Option Frag) (act : Word) : State :=
  let x := getBench s c b
  if !x.ringOk then s
  else if x.recs.length < 64 then setBench s c b { x with recs := x.recs ++ [traceBytes s kind slot info tag f act] }
  else setBench s c b { x with btrptr := if fld x.btrptr 32 32 = 0xFFFFFFFF then x.btrptr else x.btrptr + 0x100000000 }

/-- A bench's oldest waiting record reaches the ring in memory, and NEXT counts it (R411). -/
def recordOut (s : State) (c b : Nat) : State :=
  let x := getBench s c b
  match x.recs with
  | [] => s
  | r :: rest =>
    let n := fld x.btrptr 0 32
    let pa := fld x.btrace 6 38 * 64 + n % 2 ^ fld x.btrace 56 5 * 32
    if !x.ringOk then setBench s c b { x with recs := rest }
    else
      setBench (homeWrite s pa r 0 0 none [] 2) c b
        { x with recs := rest, btrptr := (x.btrptr &&& 0xFFFFFFFF00000000) ||| BitVec.ofNat 64 ((n + 1) % 2 ^ 32) }

/-- The fragment that a record of a team names: the one that runs, else the one that would. -/
def traceFrag (t : Team) : Option Frag := (runFrag t).or t.nextReady

/-- A trace record of an event of a team, written while BTRACE.EN is 1 (R412). -/
def traceEvent (s : State) (t : Team) (kind info : Nat) : State :=
  if (getBench s t.core t.bench).btrace.getLsbD 63 then
    let f := traceFrag t
    traceWrite s t.core t.bench kind (slotNo s t) info t.tag f ((f.map fun f => summary t f.active).getD 0)
  else s

/-- BSEC of a bench that a team has claimed latches the first fault that the team's instructions meet (R405). -/
def Bench.latch (b : Bench) (uid code : Nat) (addr : DWord) : Bench :=
  if b.claimant = some uid ∧ fld b.bsec 56 8 = 0 then { b with bsec := BitVec.ofNat 64 (code * 2 ^ 56 + addr.toNat % 2 ^ 56) } else b

/-- A fault met by a team's instruction, latched where the team is the claimant (R405). -/
def latchBsec (s : State) (t : Team) (code : Nat) (addr : DWord) : State :=
  { s with cores := s.cores.map fun c => (c.1, { c.2 with benches := c.2.benches.map fun b => b.latch t.uid code addr }) }

/-- A team's access that parks on XLATE is traced, and is the claimant's first fault where it is the first (R405, R412). -/
def noteMiss (s : State) (uid : Nat) (va : DWord) : State :=
  match s.teams.find? fun t => t.uid == uid with
  | some t => traceEvent (latchBsec s t 0x10 va) t 3 0x10
  | none => s

/-- Whether a class S fault cannot be resumed (R187). -/
def fatalCode (code : Nat) : Bool :=
  code == 1 || code == 2 || (decide (7 ≤ code) && decide (code ≤ 0x0F)) || (decide (0x11 ≤ code) && decide (code ≤ 0x1C))

/-- TRAPCODE's word (R183). -/
def trapWord (code arg info : Nat) : Word := BitVec.ofNat 32 (info % 65536 * 65536 + arg % 256 * 256 + code)

/-- The context of a tag enters STOPPED, or the fault is secondary when it is stopped already (R186, R350). A context without teams is
LOADED, and only an activity's fault (loaded) stops it. -/
def stopSlot (s : State) (tag : Tag) (fatal : Bool) (loaded : Bool := false) : State × Bool :=
  match slotOfTag s tag with
  | none => (s, false)
  | some n =>
    let x := getSlot s n
    if x.st = 3 then (s, true)
    else if x.st = 2 ∨ (x.st = 1 ∧ loaded) then (setSlot s n { x with st := 3, fatal := fatal }, false)
    else (s, false)

/-- A fault record posted to the Bureau: its context stops, and the launch counts it (R186, R417, R418). -/
def postRecord (s : State) (launch : Nat) (fatal : Bool) (r : FaultRec) : State :=
  let (s, sec) := stopSlot s r.tag fatal
  countFault { s with hub := { s.hub with records := s.hub.records ++ [{ r with secondary := sec }] } } launch true

/-- A class S fault of a team posted to the Bureau: TRAPCODE and the record, the context STOPPED, BSEC, the trace (R183,
R186, R405, R412). The bench is frozen by the caller (R406). -/
def postFault (s : State) (t : Team) (code arg info : Nat) (pc : DWord) (lanes : Mask) (addr : Option DWord) : State :=
  let s := latchBsec s t code (addr.getD pc)
  let s := traceEvent s t 3 code
  let w := trapWord code arg info
  let s := modTeam s t.uid fun u => { u with trapcode := w }
  postRecord s t.launch (fatalCode code)
    { tag := t.tag, trapcode := w, pc, team := t.number, core := t.core, bench := t.bench, lanes,
      rprog := t.rprog, extra := addr.getD 0, secondary := false, time := s.gtime }

/-- Whether a waiter is a team's own: not a copy context's, nor a launch queue's (R302). -/
def Waiter.isOf (w : Waiter) (uid : Nat) : Bool :=
  w.team == uid && (match w.kind with
    | .copy _ | .launch _ | .walk _ _ | .remote .. => false
    | _ => true)

/-- A team's waiters withdrawn from the fault buffers as its replay records, in list order (R306). -/
def withdraw (s : State) (uid : Nat) : State :=
  let take : State → Nat → State := fun s d =>
    let x := getDie s d
    let mine := x.fb.flatMap fun e => e.waiters.filter fun w => w.isOf uid
    if mine.isEmpty then s
    else
      let fb := x.fb.map fun e => { e with waiters := e.waiters.filter fun w => !w.isOf uid }
      let s := setDie s d { x with fb }
      modTeam s uid fun t => { t with replay := t.replay ++ mine }
  let s := foldNat take s 4
  modTeam s uid fun t => { t with pages := [] }

end Sys2Proof.Machine
end

