-- ==== Sys2Proof/Machine/Access.lean ====
section
/-! DEFINITION. Global accesses of a team: where an address lies, reading and writing there, the region's store buffer and
its publication (R175 to R177, R212 to R219, R303, R434 to R437, R445). -/

namespace Sys2Proof.Machine

/-- Where a translated global address of a team lies: memory of this package through the core cache, memory of this
package through the pod window, another package, or a register block (R340, R434). -/
inductive Loc
  | mem (pa : Nat) (e : TlbEntry)
  | home (pa : Nat) (e : TlbEntry)
  | remote (pkg : Nat) (va : DWord)
  | reg (pa : Nat)
  deriving DecidableEq, Repr

/-- What comes of translating an access of a team. -/
inductive Fx
  | at (l : Loc)
  | miss (die : Nat) (tag : Tag) (page level : Nat)
  | zero (frame : Nat) (tag : Tag)
  | perm (info : Nat)
  | tail
  deriving DecidableEq, Repr

/-- The die whose HBM holds a context's level-1 table (R302). -/
def homeDie (s : State) (tag : Tag) : Nat :=
  match slotOfTag s tag with
  | some n => dieOfPa (fld (getSlot s n).root 19 25 * 2 ^ 19) % 4
  | none => 0

/-- The tag for which a pod access of a package's context is performed here (R435). -/
def podAdmit (s : State) (pkg : Nat) (tag : Tag) : Option Tag :=
  (s.fabric.podacl.find? fun p => p.2.getLsbD 63 && fld p.2 48 8 == pkg &&
    (fld p.2 36 12 == tag.toNat || fld p.2 36 12 == 0xFFF)).map fun p => BitVec.ofNat 12 (fld p.2 24 12)

/-- The translation of a global address of a team (R299, R303, R340, R434, R435). Bits 63:56 of the address are zero. A page
in the team's set of pages with waiters is not walked: the access joins its entry. -/
def locate (s : State) (t : Team) (va : DWord) (k : AccKind) : State × Fx :=
  if va.getLsbD 55 then
    let pkg := fld va 47 8
    if fld s.fabric.fpod 8 8 < pkg then (s, .perm 7)
    else if pkg ≠ fld s.fabric.fpod 0 8 then (s, .at (.remote pkg va))
    else
      match podAdmit s pkg t.tag with
      | none => (s, .perm 7)
      | some g =>
        let v : DWord := va &&& 0x00007FFFFFFFFFFF
        let page := v.toNat / 2 ^ 21
        if t.pages.any (fun p => p.1 = va.toNat / 2 ^ 21) then (s, .miss (homeDie s g) g page 1)
        else
          match translateWalk s g v k with
          | .ok pa e => (s, if Config.hbmEnd ≤ pa then .perm 4 else .at (.home pa e))
          | .xlate l => (s, .miss (homeDie s g) g page l)
          | .perm i => (s, .perm i)
          | .tail => (s, .tail)
          | .zero f o => (s, .zero f o)
          | .pod => (s, .perm 7)
  else
    let page := va.toNat / 2 ^ 21
    if t.pages.any (fun p => p.1 = page) then (s, .miss (dieOf t.core) t.tag page 1)
    else
      match translate s t.core t.tag va k with
      | (s, .ok pa e) =>
        (s, if pa < Config.hbmEnd then .at (.mem pa e) else if t.tag = 0 then .at (.reg pa) else .perm 4)
      | (s, .xlate l) => (s, .miss (dieOf t.core) t.tag page l)
      | (s, .perm i) => (s, .perm i)
      | (s, .tail) => (s, .tail)
      | (s, .zero f o) => (s, .zero f o)
      | (s, .pod) => (s, .perm 7)

/-- n free bytes. -/
def freeBytes (s : State) (n : Nat) : State × List Byte :=
  foldNat (fun x _ => let (v, s) := takeFree x.1; (s, x.2 ++ [v.setWidth 8])) (s, []) n

/-- Poison that arrives over the fabric (R352, R437). -/
def fabricPoison (tag : Tag) : Poison := { tag, source := 3, log := 0 }

/-- A read of n bytes within a line at a place: the bytes, and poison where the line is poisoned (R219, R437). What another
package holds is not read here: the access is sent to it. -/
def readLoc (s : State) (t : Team) (l : Loc) (n : Nat) : State × List Byte × Option Poison :=
  match l with
  | .mem pa e => cacheRead s t.core pa n e.otag e.prot
  | .home pa e =>
    let s := homeTouch s (pa / 64) e.otag e.prot true
    (s, Memory.read s.mem pa n, (homePoison s (pa / 64)).map fun _ => fabricPoison t.tag)
  | .remote .. => (s, [], none)
  | .reg pa => (s, regBytes s pa n, none)

/-- What reading a place does at its home slice, where the read goes there (R423). -/
def touchLoc (s : State) (t : Team) (l : Loc) : State :=
  match l with
  | .mem pa e =>
    if (cacheLine (getCore s t.core) (pa / 64)).any fun x => x.valid == BitVec.allOnes 64 then s else homeTouch s (pa / 64) e.otag e.prot true
  | .home pa e => homeTouch s (pa / 64) e.otag e.prot true
  | _ => s

/-- A request sent to another package for a team (R432, R437). -/
def podSend (s : State) (uid frag pkg : Nat) (va : DWord) (lanes : Mask) (req : PodReq) (pc : DWord) : State :=
  { s with fabric := { s.fabric with msgs := s.fabric.msgs ++ [{ team := uid, frag, lanes, pkg, va, req, pc, time := s.gtime }] } }

/-- A write to a register block as its dwords take it; fuel counts them. -/
def regWrites (pa : Nat) (team : Option Nat) (b : List Byte) : Nat → List RegWrite
  | 0 => []
  | fuel + 1 =>
    if b = [] then []
    else
      let n := 8 - pa % 8
      { pa, bytes := (b.take n).length, value := BitVec.ofNat 64 (leNat (b.take n)), team } :: regWrites (pa + n) team (b.drop n) fuel

/-- A write of bytes within a line at a place. A store to another package awaits its acknowledgement; a store to a
register block is on its way to it (R432, R437). -/
def writeLoc (s : State) (t : Team) (l : Loc) (bytes : List Byte) (poison : Option Poison) (pc : DWord)
    (lanes : Mask := 0) : State :=
  match l with
  | .mem pa e => cacheWrite s t.core pa bytes e.otag e.prot t.uid poison
  | .home pa e => homeWrite s pa bytes e.otag e.prot poison [t.uid] 2
  | .remote pkg va => podSend s t.uid (((runFrag t).map (·.num)).getD 0) pkg va lanes .store pc
  | .reg pa => { s with regq := s.regq ++ regWrites pa (some t.uid) bytes 4 }

/-- The bytes of the open region's buffer laid over bytes read (R177). -/
def overlay (t : Team) (scratch : Bool) (addr : Nat) (bytes : List Byte) : List Byte :=
  match t.region with
  | none => bytes
  | some r => match r.buffer.find? fun b => b.scratch == scratch && b.line == addr / 64 with
    | none => bytes
    | some b => mapIdxFrom (fun i x => if b.mask.getLsbD i then lineByte b.data i else x) (addr % 64) bytes

/-- The bytes that the open region's buffer holds of n from an address on, within a line (R177). -/
def bufBytes (t : Team) (addr n : Nat) : List (Option Byte) :=
  let b := t.region.bind fun r => r.buffer.find? fun b => b.scratch == false && b.line == addr / 64
  (List.range n).map fun i => b.bind fun b => if b.mask.getLsbD (addr % 64 + i) then some (lineByte b.data (addr % 64 + i)) else none

/-- Bytes put into a region's buffer (R177). -/
def bufWrite (r : Region) (scratch : Bool) (addr : Nat) (bytes : List Byte) : Region :=
  let line := addr / 64
  let old := (r.buffer.find? fun b => b.scratch == scratch && b.line == line).getD { scratch, line, mask := 0, data := 0 }
  let new : BufLine := { old with mask := old.mask ||| lineMask (addr % 64) bytes.length, data := lineWrite old.data (addr % 64) bytes }
  if r.buffer.any fun b => b.scratch == scratch && b.line == line then
    { r with buffer := r.buffer.map fun b => if b.scratch == scratch && b.line == line then new else b }
  else { r with buffer := r.buffer ++ [new] }

/-- The lines a region's buffer would hold with these added. -/
def bufLines (r : Region) (add : List (Bool × Nat)) : Nat :=
  (add.foldl (fun l x => if l.contains x then l else l ++ [x]) (r.buffer.map fun b => (b.scratch, b.line))).length

/-- The runs of masked bytes of a line, from byte n - 1 down to 0: offset and bytes. -/
def maskRuns (mask : BitVec 64) (d : BitVec 512) : Nat → List (Nat × List Byte) → List (Nat × List Byte)
  | 0, acc => acc
  | n + 1, acc =>
    if mask.getLsbD n then
      match acc with
      | (o, b) :: r => if o = n + 1 then maskRuns mask d n ((n, lineByte d n :: b) :: r) else maskRuns mask d n ((n, [lineByte d n]) :: acc)
      | [] => maskRuns mask d n [(n, [lineByte d n])]
    else maskRuns mask d n acc

/-- A fault found at translation: code, INFO and address. -/
abbrev Found := Nat × Nat × DWord

/-- A plain store of a closing region, performed now: where translation faults, it waits for replay behind what has come before it; PERM and
TAIL are reported to the caller (R175, R214, R303). lanes is what a fault found at its replay names. -/
def plainStore (s : State) (uid frag : Nat) (lanes : Mask) (va : DWord) (bytes : List Byte) (pc : DWord) : State × List Found :=
  match teamOf s uid with
  | none => (s, [])
  | some t =>
    let w : Waiter := { team := uid, frag, launch := t.launch, pc, access := 2, kind := .pass [.store lanes va bytes none .published] }
    let late := fun (s : State) => modTeam s uid fun t => { t with replay := t.replay ++ [w] }
    match locate s t va .write with
    | (s, .at l) => (writeLoc s t l bytes none pc, [])
    | (s, .perm i) => (s, [(0x11, i, va)])
    | (s, .tail) => (s, [(0x12, 0, va)])
    | (s, .zero f g) => (late (startZero s f g), [])
    | (s, .miss die tag page level) =>
      if !t.pageFits (va.toNat / 2 ^ 21) then (late s, [])
      else match addWaiter s die tag page level w with
        | some s => (modTeam (noteMiss s uid va) uid fun t => notePage t (va.toNat / 2 ^ 21), [])
        | none => (late s, [])

/-- The lines of a buffer published as plain stores of the team (R175). -/
def publish (s : State) (uid frag : Nat) (lanes : Mask) (buf : List BufLine) (pc : DWord) : State × List Found :=
  buf.foldl (fun x b =>
    (maskRuns b.mask b.data 64 []).foldl (fun (x : State × List Found) r =>
      if b.scratch then (spWrite x.1 (b.line / 65536) (b.line % 65536 * 64 + r.1) r.2 none, x.2)
      else
        let (s, l) := plainStore x.1 uid frag lanes (BitVec.ofNat 64 (b.line * 64 + r.1)) r.2 pc
        (s, x.2 ++ l)) x) (s, [])

/-- The open region of a team closed: its lines are published, then the snapshot goes (R175). -/
def closeRegion (s : State) (uid : Nat) (pc : DWord) : State × List Found :=
  match (teamOf s uid).bind (·.region) with
  | none => (s, [])
  | some r =>
    let s := modTeam s uid fun t => { t with region := none }
    publish s uid r.frag r.active r.buffer pc

/-- The snapshot that opens a region for a fragment (R68, R175). -/
def openRegion (t : Team) (f : Frag) (entry : DWord) (operands : List (List Entry)) : Region :=
  { rentry := entry, frag := f.num, d0 := f.depth, fmt := f.fmt, cc := t.cc, active := f.active, member := f.member,
    m0 := f.m0, m1 := f.m1, m2 := f.m2, m3 := f.m3, loops := t.loops, operands, restarts := 0, buffer := [], pendingStores := 0,
    closing := none, kept := false }

end Sys2Proof.Machine
end

