-- ==== Sys2Proof/Machine/Hub.lean ====
section
/-! DEFINITION. Shared acts of the hub: counters, launch ends, retirement of a team, barrier channels, and termination of a
context (R80, R209, R233, R234, R239, R240, R347, R352, R355, R400, R417). -/

namespace Sys2Proof.Machine

/-- The value of a counter by its id (R239). -/
def counter (s : State) (id : Nat) : DWord :=
  if id < 3072 then (tabGet CopyCtx.reset (getDie s (id / 768)).ctxs (id % 768)).counter
  else if id < 3280 then
    match physCore s ((id - 3072) / 52) ((id - 3072) % 52) with
    | some c => (getCore s c).ixCounter
    | none => 0
  else tabGet 0 s.hub.timelines id

/-- The owner tag of a counter; none for an id outside the ranges of R239. -/
def counterOwner (s : State) (id : Nat) : Option Tag :=
  if id < 3072 then
    let w : Word := tabGet 0 (getDie s (id / 768)).cctx (id % 768)
    if w.getLsbD 31 then some (w.setWidth 12) else none
  else if id < 3280 then
    match physCore s ((id - 3072) / 52) ((id - 3072) % 52) with
    | some c =>
      let w := (getCore s c).cowner
      if w.getLsbD 31 then some (w.setWidth 12) else none
    | none => none
  else if 4096 ≤ id ∧ id < 8192 then
    let w : Word := tabGet 0 s.hub.tlown (id - 4096)
    some (if w.getLsbD 31 then w.setWidth 12 else 0)
  else none

/-- A timeline written; counters never decrease (R239, R241). -/
def raiseTimeline (s : State) (id : Nat) (v : DWord) : State :=
  let old := tabGet 0 s.hub.timelines id
  { s with hub := { s.hub with timelines := tabSet s.hub.timelines id (if old.toNat < v.toNat then v else old) } }

/-- A timeline advanced by 1. -/
def bumpTimeline (s : State) (id : Nat) : State := raiseTimeline s id (tabGet 0 s.hub.timelines id + 1)

/-- A frame zeroed at once for an access of the hub or the host, which waits for it (R354; log entry 41). -/
def zeroNow (s : State) (frame : Nat) (tag : Tag) : State :=
  let d := getDie s (frame / Config.framesPerDie)
  zeroFrame (setDie s (frame / Config.framesPerDie) { d with zeroing := d.zeroing.filter fun x => x.1 != frame }) frame tag

/-- The translation of an access that waits for the frames of its page to be zeroed. -/
def walkZeroed (s : State) (tag : Tag) (va : Nat) (k : AccKind) : State × Tr :=
  match translateWalk s tag (BitVec.ofNat 64 va) k with
  | .zero f o =>
    let s := match walk s tag (va % 2 ^ 56) with
      | .leaf e => (List.range (if e.big then 512 else 1)).foldl (fun s i =>
          if frameNeeds s e (e.pa / Config.frameBytes + i) then zeroNow s (e.pa / Config.frameBytes + i) e.otag else s) s
      | _ => zeroNow s f o
    (s, translateWalk s tag (BitVec.ofNat 64 va) k)
  | x => (s, x)

/-- The places of n bytes of a context from an address on, line by line; none where one of them does not translate to memory, and then
nothing of the access is done (R417, R442). -/
def vaPlaces (tag : Tag) (k : AccKind) : Nat → State → Nat → Nat → State × Option (List (Nat × TlbEntry × Nat))
  | 0, s, _, _ => (s, some [])
  | fuel + 1, s, va, n =>
    if n = 0 then (s, some [])
    else
      let m := min (64 - va % 64) n
      match walkZeroed s tag va k with
      | (s, .ok pa e) =>
        if Config.hbmEnd ≤ pa then (s, none)
        else match vaPlaces tag k fuel s (va + m) (n - m) with
          | (s, some l) => (s, some ((pa, e, m) :: l))
          | (s, none) => (s, none)
      | (s, _) => (s, none)

/-- Bytes written by the hub or the host through a context's tables, at the home slices; false where nothing is written. -/
def vaWrite (s : State) (tag : Tag) (va : Nat) (bytes : List Byte) (fuel : Nat) : State × Bool :=
  match vaPlaces tag .write fuel s va bytes.length with
  | (s, some l) =>
    ((l.foldl (fun (x : State × List Byte) p =>
      (homeWrite x.1 p.1 (x.2.take p.2.2) p.2.1.otag p.2.1.prot none [] 2, x.2.drop p.2.2)) (s, bytes)).1, true)
  | (s, none) => (s, false)

/-- Bytes read by the hub or the host through a context's tables, at the home slices; none where they do not translate. -/
def vaRead (s : State) (tag : Tag) (va n fuel : Nat) : State × Option (List Byte) :=
  match vaPlaces tag .read fuel s va n with
  | (s, some l) =>
    let x := l.foldl (fun (x : State × List Byte) p =>
      let s := homeTouch x.1 (p.1 / 64) p.2.1.otag p.2.1.prot true
      (s, x.2 ++ Memory.read s.mem p.1 p.2.2)) (s, [])
    (x.1, some x.2)
  | (s, none) => (s, none)

/-- The launch time record's fields from TAPPEND on (R417, R418): category 1 is FAULT, 6 HOST. -/
def ltrBytes (s : State) (p : Packet) (tfirst : DWord) (acc : TimeAcc) (status faults retired : Nat) : List Byte :=
  let host := if 0 < p.t0.toNat ∧ p.t0.toNat ≤ p.tappend.toNat then p.tappend.toNat - p.t0.toNat else 0
  let cat := fun n => (acc[n - 1]?).getD 0
  leBytes 8 p.tappend.toNat ++ leBytes 8 tfirst.toNat ++ leBytes 8 s.gtime.toNat ++ leBytes 1 status ++ leBytes 7 0 ++
    leBytes 8 host ++ leBytes 8 (cat 5) ++ leBytes 8 (cat 4) ++ leBytes 8 (cat 3) ++ leBytes 8 (cat 2) ++ leBytes 8 (cat 1) ++
    leBytes 4 faults ++ leBytes 4 retired ++ leBytes 32 0

/-- The end of a packet's life: its launch time record, then its SIG advance (R347, R417). -/
def endPacket (s : State) (tag : Tag) (p : Packet) (tfirst : DWord) (acc : TimeAcc) (status faults retired : Nat) : State :=
  let s := if p.ltr = 0 then s
    else (vaWrite s tag (p.ltr.toNat + 8) (ltrBytes s p tfirst acc status faults retired) 4).1
  if (BitVec.ofNat 32 p.sig).getLsbD 31 then bumpTimeline s (p.sig % 8192) else s

/-- Whether a counter may be named as WAIT: a copy context's or a timeline, of the owner or of tag 0 (R240). -/
def waitAllowed (s : State) (tag : Tag) (id : Nat) : Bool :=
  (decide (id < 3072) || decide (4096 ≤ id)) && (counterOwner s id == some tag || counterOwner s id == some 0)

/-- Whether a counter may be named as SIG: a timeline of the owner or of tag 0 (R240). -/
def sigAllowed (s : State) (tag : Tag) (id : Nat) : Bool := decide (4096 ≤ id) && waitAllowed s tag id

/-- The end of a packet that has started no team: its SIG, not checked before, advances only a timeline that its OWNER may name (R240,
R347; log entry 56). -/
def dropPacket (s : State) (p : Packet) (status : Nat) : State :=
  let tag : Tag := BitVec.ofNat 12 p.owner
  endPacket s tag (if sigAllowed s tag (p.sig % 8192) then p else { p with sig := 0 }) 0 p.acc status p.faults 0

/-- A launch ends (R347). -/
def endLaunch (s : State) (l : Launch) (status : Nat) : State :=
  let s := if l.comp.isSome then s else endPacket s l.tag l.pkt (l.tfirst.getD 0) l.acc status l.faults l.retired
  { s with hub := { s.hub with
    launches := s.hub.launches.filter fun x => x.id != l.id
    gens := s.hub.gens.filter fun g => g.2.2.1 != l.id
    channels := s.hub.channels.filter fun c => c.launch != l.id } }

/-- A launch by its id. -/
def launchOf (s : State) (id : Nat) : Option Launch := s.hub.launches.find? fun l => l.id == id
/-- The state with a launch replaced. -/
def setLaunch (s : State) (l : Launch) : State :=
  { s with hub := { s.hub with launches := s.hub.launches.map fun x => if x.id = l.id then l else x } }

/-- The unit of a team at a barrier level: 0 its quad, 1 its die, 2 the package (R233). -/
def unitOf (t : Team) (level : Nat) : Nat := if level = 0 then quadOf t.core else if level = 1 then dieOf t.core else 0

/-- The barrier channels of a unit (R234). -/
def chansOf (s : State) (level unit : Nat) : List Chan :=
  if level = 0 then (getQuad s unit).channels else if level = 1 then (getDie s unit).channels else s.hub.channels

/-- The barrier channels of a unit replaced. -/
def setChans (s : State) (level unit : Nat) (l : List Chan) : State :=
  if level = 0 then setQuad s unit { getQuad s unit with channels := l }
  else if level = 1 then setDie s unit { getDie s unit with channels := l }
  else { s with hub := { s.hub with channels := l } }

/-- The generation count of a launch and id at a unit (R234). -/
def genOf (s : State) (level unit launch id : Nat) : Nat :=
  ((s.hub.gens.find? fun g => g.1 == level && g.2.1 == unit && g.2.2.1 == launch && g.2.2.2.1 == id).map (·.2.2.2.2)).getD 0

/-- The generation count advanced. -/
def bumpGen (s : State) (level unit launch id : Nat) : State :=
  let g := (genOf s level unit launch id + 1) % 2 ^ 32
  let rest := s.hub.gens.filter fun x => !(x.1 == level && x.2.1 == unit && x.2.2.1 == launch && x.2.2.2.1 == id)
  { s with hub := { s.hub with gens := (level, unit, launch, id, g) :: rest } }

/-- The members of a launch still resident in a unit: a retired one counts as arrived (R233). -/
def membersIn (s : State) (launch level unit : Nat) : Nat :=
  (s.teams.filter fun t => t.launch == launch && unitOf t level == unit).length

/-- A fragment no longer waits: PARKED becomes READY (R80). -/
def Frag.wake (f : Frag) : Frag := if f.st = .parked then { f with st := .ready, wait := none } else f

/-- A channel whose arrivals are complete releases: the generation advances, the channel is freed, the waiting fragments
become READY and acquire (R233, R234). -/
def releaseChan (s : State) (level unit launch id : Nat) : State :=
  match (chansOf s level unit).find? fun c => c.launch == launch && c.id == id with
  | none => s
  | some c =>
    if c.arrived < membersIn s launch level unit then s
    else
      let g := genOf s level unit launch id
      let s := bumpGen s level unit launch id
      let s := setChans s level unit ((chansOf s level unit).filter fun c => !(c.launch == launch && c.id == id))
      let waits := fun (f : Frag) => f.wait == some (.nbar level unit id g)
      let mine := s.teams.filter fun t => t.launch == launch && t.frags.any waits
      let s := mine.foldl (fun s t => invalidateAll s t.core) s
      mine.foldl (fun s t => modTeam s t.uid fun t => { t with frags := t.frags.map fun f => if waits f then f.wake else f }) s

/-- Every channel of a launch checked again after one of its teams retired (R233). -/
def recheckChans (s : State) (launch : Nat) (t : Team) : State :=
  foldNat (fun s level =>
    ((chansOf s level (unitOf t level)).filter fun c => c.launch == launch).foldl
      (fun s c => releaseChan s level (unitOf t level) launch c.id) s) s 3

/-- A core that loses its last team: a draining core retires (R209). -/
def coreEmptied (s : State) (c : Nat) : State :=
  if s.teams.any fun t => t.core == c then s
  else
    let x := getCore s c
    if x.cstate.setWidth 2 = (1 : BitVec 2) then setCore s c { x with cstate := 2 } else s

/-- The copy context that a request in flight serves. -/
def PodMsg.ctx (m : PodMsg) : Option Nat := match m.req with
  | .copyRead c _ | .copyWrite c => some c
  | _ => none

/-- Whether a request in flight is a team's own, and not a copy command's. -/
def PodMsg.isOf (m : PodMsg) (uid : Nat) : Bool := m.team == uid && m.ctx.isNone

/-- Whether a request in flight is a store of a team. -/
def PodMsg.isStore (m : PodMsg) (uid : Nat) : Bool := m.team == uid && m.req == .store

/-- Whether a team awaits an answer of another package to an access (R324, R437). -/
def podPending (s : State) (uid : Nat) : Bool := s.fabric.msgs.any fun m => m.isOf uid && m.req != .store

/-- The waiters of a core's full/empty table without those of a team. -/
def dropFe (s : State) (uid : Nat) : State :=
  { s with cores := s.cores.map fun p => (p.1, { p.2 with feWaiters := p.2.feWaiters.filter fun w => w.team != uid }) }

/-- A team leaves the core: retired, or stopped by termination (R80). Its waiters and table entries go with it. -/
def removeTeam (s : State) (t : Team) : State :=
  let s := dropFe (withdraw s t.uid) t.uid
  let s := { s with
    teams := s.teams.filter fun u => u.uid != t.uid
    cur := if s.cur = some t.uid then none else s.cur
    fabric := { s.fabric with msgs := s.fabric.msgs.filter fun m => !m.isOf t.uid } }
  coreEmptied s t.core

/-- A team retires (R80, R347): its launch counts it, its barriers count it as arrived, the trace records it. -/
def retireTeam (s : State) (t : Team) : State :=
  let s := traceEvent s t 6 0
  let s := removeTeam s t
  let s := match launchOf s t.launch with
    | some l => setLaunch s { l with
        retired := l.retired + 1
        compStatus := if l.comp.isSome && l.compStatus.isNone then some (0xFFFFFFFF, 2) else l.compStatus }
    | none => s
  recheckChans s t.launch t

/-- The roots that queued SS.LOAD commands keep mapped (R398). -/
def heldRoots (s : State) : List Nat :=
  s.dies.flatMap fun d => d.2.ctxs.flatMap fun c => c.2.queue.filterMap (·.root)

/-- The granules that a granule's map names. -/
def Store.children (st : Store) (g : Nat) : List Nat :=
  match tabGet (.body []) st.granules g with
  | .map es => es.map (·.2)
  | .body _ => []

/-- The roots of the versions of every record. -/
def Store.roots (st : Store) : List Nat := st.recs.flatMap fun r => r.2.live.toList ++ r.2.snaps.flatMap fun x => x.2.2.toList

/-- Granules that some version maps: roots are followed through two levels of map granules at most (R389, R390). -/
def Store.liveGranules (st : Store) (held : List Nat) : List Nat :=
  let roots := st.roots ++ held
  let l1 := roots.flatMap st.children
  roots ++ l1 ++ l1.flatMap st.children

/-- The supply after versions have gone: granules that no version maps return to it (R390). -/
def Store.sweep (st : Store) (held : List Nat) : Store :=
  let live := st.liveGranules held
  let dead := st.granules.filter fun g => !live.contains g.1
  { st with granules := st.granules.filter fun g => live.contains g.1, free := st.free + dead.length }

/-- Granules that only an ended SS.LOAD command kept mapped return to the supply (R398). -/
def releaseHeld (s : State) : State := { s with hub := { s.hub with store := s.hub.store.sweep (heldRoots s) } }

/-- The address of record header j (R389). -/
def headerAddr (s : State) (j : Nat) : Nat := fld s.hub.store.base 21 23 * 2 ^ 21 + 256 * j

/-- Record slots (R389). -/
def Store.slots (st : Store) : Nat := max 1 (min (fld st.cfg 0 17) 65536)

/-- The granules that the headers and the fixed reserve take (R389). -/
def storeReserve (slots granules : Nat) : Nat :=
  (256 * slots + 4095) / 4096 + (33 * 8 * slots + 4095) / 4096 + (4 * granules + 4095) / 4096

/-- The address of granule g of the supply: what comes after the headers and the reserve (R389). -/
def granuleAddr (s : State) (g : Nat) : Nat :=
  headerAddr s 0 + 4096 * (storeReserve s.hub.store.slots s.hub.store.gran.toNat + g)

/-- The body granules that a record's versions map, each once (R392). -/
def Store.bodies (st : Store) (r : SsRec) : List Nat :=
  let roots := r.live.toList ++ r.snaps.flatMap fun x => x.2.2.toList
  let l1 := roots.flatMap st.children
  let isBody := fun (g : Nat) => match tabGet (.body []) st.granules g with
    | .body _ => true
    | .map _ => false
  (roots ++ l1 ++ l1.flatMap st.children).foldl (fun l g => if isBody g && !l.contains g then l ++ [g] else l) []

/-- The 256 bytes of a record's header (R392); of a revoked one only OWNER, USER, STATE and GEN (R397). -/
def headerBytes (st : Store) (r : SsRec) : List Byte :=
  if r.st = 2 then
    leBytes 8 0 ++ leBytes 2 r.owner.toNat ++ leBytes 2 r.user.toNat ++ leBytes 2 0 ++ [2, 0] ++ leBytes 10 0 ++ leBytes 2 r.gen ++
      List.replicate 228 0
  else
    let pins := (r.snaps.zip (List.range 32)).foldl (fun n x => if x.1.2.1 then n + 2 ^ x.2 else n) 0
    let keys := r.snaps.flatMap fun x => leBytes 6 x.1
    leBytes 8 r.head ++ leBytes 2 r.owner.toNat ++ leBytes 2 r.user.toNat ++ leBytes 2 r.heads.toNat ++ leBytes 1 r.st ++
      leBytes 1 r.nsnap ++ leBytes 4 r.pages ++ leBytes 4 pins ++ leBytes 1 r.snaps.length ++ [0] ++ leBytes 2 r.gen ++
      leBytes 4 (st.bodies r).length ++ keys ++ List.replicate (192 - keys.length) 0 ++ leBytes 8 r.stime.toNat ++
      List.replicate 24 0

/-- A record put into its slot, and its header into the store area; a free slot's header is zeros (R389, R397). -/
def putRec (s : State) (j : Nat) (r : SsRec) : State :=
  let s := { s with hub := { s.hub with store := { s.hub.store with recs := tabSet s.hub.store.recs j r } } }
  homeWrite s (headerAddr s j) (if r.st = 0 then List.replicate 256 0 else headerBytes s.hub.store r) 0 0 none [] 5

/-- Records of a terminated owner are revoked; a terminated user is cleared (R400). -/
def revokeRecords (s : State) (tag : Tag) : State :=
  let resident := fun (u : Tag) => u != 0 && u != tag && (slotOfTag s u).isSome
  releaseHeld (s.hub.store.recs.foldl (fun s x =>
    let j := x.1
    let r := x.2
    if r.st = 0 then s
    else if r.owner = tag ∧ r.st = 1 then
      if resident r.user then putRec s j { r with st := 2, live := none, snaps := [] }
      else putRec s j { SsRec.reset with gen := r.gen }
    else if r.user = tag then putRec s j { r with user := 0 }
    else s) s)

/-- The address of compensation entry i of die d (R372). -/
def entryAddr (s : State) (d i : Nat) : Nat := fld ((s.hub.actseg[d]?).getD 0) 26 18 * 2 ^ 26 + 64 * i

/-- A compensation entry freed: zeroed, USED falls (R373). -/
def freeEntry (s : State) (d i : Nat) : State :=
  let s := homeWrite s (entryAddr s d i) (List.replicate 64 0) 0 0 none [] 2
  { s with hub := { s.hub with segused := listSet s.hub.segused d (((s.hub.segused[d]?).getD 0) - 1) } }

/-- The PREV field of an entry (R372). -/
def entryPrev (s : State) (d i : Nat) : Option (Nat × Nat) :=
  let v := Memory.nat s.mem (entryAddr s d i + 0x28) 8
  if v / 2 ^ 63 % 2 = 1 then some (v / 2 ^ 61 % 4, v % 2 ^ 20) else none

/-- The entries of a chain from one on, newest first; fuel bounds the entries of the package. -/
def chainOf (s : State) : Nat → Option (Nat × Nat) → List (Nat × Nat)
  | 0, _ => []
  | _, none => []
  | fuel + 1, some (d, i) => (d, i) :: chainOf s fuel (entryPrev s d i)

/-- The live entries of an activity, newest first. -/
def Activity.chain (s : State) (a : Activity) : List (Nat × Nat) :=
  chainOf s ((s.hub.segused.foldl (· + ·) 0)) a.last

/-- The activities of a context discarded without running (R352, R385); how many there were. -/
def discardActs (s : State) (tag : Tag) : State × Nat :=
  let mine := s.hub.acts.filter fun a => a.tag == tag
  let s := mine.foldl (fun s a => (a.chain s).foldl (fun s e => freeEntry s e.1 e.2) s) s
  ({ s with hub := { s.hub with acts := s.hub.acts.filter fun a => a.tag != tag } }, mine.length)

/-- Whether a copy context belongs to a tag (R296). -/
def ctxOf (s : State) (die ctx : Nat) (tag : Tag) : Bool :=
  let w : Word := tabGet 0 (getDie s die).cctx ctx
  w.getLsbD 31 && w.setWidth 12 == tag

/-- The queued copy commands of a context discarded, with what its copy contexts stood at; how many there were (R238, R352). -/
def discardCopies (s : State) (tag : Tag) : State × Nat :=
  let s := { s with fabric := { s.fabric with msgs := s.fabric.msgs.filter fun m => match m.ctx with
    | some c => !ctxOf s (c / 768) (c % 768) tag
    | none => true } }
  foldNat (fun x d =>
    let die := getDie x.1 d
    let clear := fun (c : Nat × CopyCtx) => if ctxOf s d c.1 tag then { c.2 with queue := [], stalled := false, quiesced := false } else c.2
    let mine := die.ctxs.filter fun c => ctxOf s d c.1 tag
    if mine.isEmpty then x
    else (setDie x.1 d { die with ctxs := die.ctxs.map fun c => (c.1, clear c) }, x.2 + (mine.map (·.2.queue.length)).sum)) (s, 0) 4

/-- The waiters of a context whose teams are gone freed, with the entries of its tag that no waiter of another is left on (R352, R425,
R435). -/
def freeEntries (s : State) (tag : Tag) : State :=
  let own := fun (w : Waiter) => match w.kind with
    | .copy n => ctxOf s (n / 768) (n % 768) tag
    | .launch q => ((tabGet Queue.reset s.hub.queues q).cfg.setWidth 12 : Tag) == tag
    | .walk g _ => g == tag
    | .remote .. => false
    | _ => !s.teams.any fun t => t.uid == w.team
  foldNat (fun s d =>
    let die := getDie s d
    let fb := (die.fb.map fun e => { e with waiters := e.waiters.filter fun w => !own w }).filter fun e => e.tag != tag || !e.waiters.isEmpty
    if fb = die.fb then s else setDie s d { die with fb }) s 4

/-- The queues of a context emptied: a packet not yet dispatched advances its SIG with status TERMINATED (R352, R355). -/
def emptyQueues (s : State) (tag : Tag) (disable : Bool) : State :=
  s.hub.queues.foldl (fun s p =>
    let q := tabGet Queue.reset s.hub.queues p.1
    if q.cfg.setWidth 12 = tag ∧ q.cfg.getLsbD 31 then
      let s := q.packets.foldl (fun s k =>
        if s.hub.launches.any fun l => l.queue == p.1 && l.pkt.seq == k.seq then s
        else dropPacket s k 0x25) s
      let q := { q with packets := [], parked := none, cfg := if disable then q.cfg &&& 0x7FFFFFFF else q.cfg }
      { s with hub := { s.hub with queues := tabSet s.hub.queues p.1 q } }
    else s) s

/-- The termination record (R352). -/
def termBytes (s : State) (tag : Tag) (vf : Nat) (c : TermCause) (acts copies : Nat) : List Byte :=
  leBytes 1 0x25 ++ leBytes 1 c.cause ++ leBytes 2 c.info ++ leBytes 2 tag.toNat ++ leBytes 1 vf ++ leBytes 1 c.source ++
    leBytes 8 c.log.toNat ++ leBytes 8 c.pc.toNat ++ leBytes 4 c.team ++ leBytes 4 c.whereWord ++ leBytes 8 (c.time.getD s.gtime).toNat ++
    leBytes 8 c.launchImage.toNat ++ leBytes 4 acts ++ leBytes 4 copies ++ leBytes 8 0

/-- A bench of a context that resumes, is saved or is terminated: thawed, and its claim ended (R405, R408). -/
def thawBench (b : Bench) : Bench :=
  { b with bctl := b.bctl &&& 0xFFFFFFFE, bfreeze := 0, bsec := 0, claimant := none, freeze := [], called := none }

/-- Every frozen bench of a context's cores thawed. -/
def thawContext (s : State) (tag : Tag) : State :=
  { s with cores := s.cores.map fun p =>
      if p.2.cowner.getLsbD 31 && p.2.cowner.setWidth 12 == tag then (p.1, { p.2 with benches := p.2.benches.map thawBench }) else p }

/-- The tenancies of a context's launches end: cores with its tag and no team are free again. CPART keeps its last word, as R208 does not
say otherwise (log entry 33). -/
def endTenancies (s : State) (launch : Nat) : State :=
  s.cores.foldl (fun s p =>
    if p.2.tenancy = some launch then
      let s := writeBackAll s p.1
      let c := getCore s p.1
      setCore s p.1 { c with tenancy := none, cowner := 0, matq := [], ixq := [], feWaiters := [] }
    else s) s

/-- A context terminated (R352). -/
def terminate (s : State) (slot : Nat) (c : TermCause) : State :=
  let x := getSlot s slot
  if !x.cxctl.getLsbD 31 ∨ x.st = 0 ∨ x.st = 5 then s
  else
    let tag : Tag := x.cxctl.setWidth 12
    let s := setSlot s slot { x with st := 5 }
    let teams := teamsOfTag s tag
    let s := teams.foldl removeTeam s
    let s := { s with cores := s.cores.map fun p => (p.1, { p.2 with
      matq := p.2.matq.filter fun m => !(teams.any fun t => t.uid == m.team)
      ixq := p.2.ixq.filter fun m => !(teams.any fun t => t.uid == m.1) }) }
    let (s, copies) := discardCopies s tag
    let (s, acts) := discardActs s tag
    let s := freeEntries s tag
    let launches := s.hub.launches.filter fun l => l.tag == tag
    let s := launches.foldl (fun s l =>
      setChans (foldNat (fun s u => setChans (foldNat (fun s v =>
        setChans s 0 (u * 14 + v) ((chansOf s 0 (u * 14 + v)).filter fun c => c.launch != l.id)) s 14) 1 u
          ((chansOf s 1 u).filter fun c => c.launch != l.id)) s 4) 2 0 ((chansOf s 2 0).filter fun c => c.launch != l.id)) s
    let s := thawContext s tag
    let s := emptyQueues s tag false
    let s := launches.foldl (fun s l => endLaunch (endTenancies s l.id) l 0x25) s
    let s := revokeRecords s tag
    let s := { s with
      hub := { s.hub with
        bindings := s.hub.bindings.filter fun b => b.1 != tag
        saved := s.hub.saved.filter fun v => v.tag != tag } }
    let s := homeWrite s (fld x.term 6 38 * 64) (termBytes s tag (fld x.cxctl 24 6) { c with source := if x.fabric then 3 else c.source } acts copies) 0 0 none [] 3
    setSlot s slot { x with st := 1, fatal := false, leaving := false, fabric := false }

end Sys2Proof.Machine
end

