-- ==== Sys2Proof/Machine/Ops.lean ====
section
/-! DEFINITION. Issuing an instruction: the order of checks, the stack and window rules, charging, the loop step; stopping a
context, freezing a bench, taking a trap and returning from one; restarting a region (R48 to R51, R57, R87 to R93, R171,
R175 to R187, R278, R406 to R408, R424). -/

namespace Sys2Proof.Machine

/-- How an instruction does not complete. -/
inductive Stop
  /-- an illegal instruction found at issue, with its CAUSE (R57, R58) -/
  | illop (cause : Nat)
  /-- a precise class S fault: code, INFO and, where it has one, the address (R186) -/
  | fault (code info : Nat) (addr : Option DWord)
  /-- a precise class S fault that comes after a release which stands (R397) -/
  | faultAfter (pre : State → State) (code info : Nat)
  /-- a class U trap of an instruction that has no effect: code and ARG (R134, R180) -/
  | trap (code arg : Nat)
  /-- the fragment parks and the instruction is not issued; what is done besides -/
  | park (w : Wait) (pre : State → State)
  /-- poison consumed, from a lane's own entries or elsewhere (R351, R424); what the read that met it has done
  besides (R423), and the access's address where it has one (R404) -/
  | poison (lane : Bool) (ps : List Poison) (pre : State → State) (addr : Option DWord)

/-- The outcome of a part of an instruction. -/
abbrev Run (α : Type) := Except Stop α

/-- The outcome of a step. -/
abbrev Out := Host.Outcome State Fault Refusal

/-- A class S fault without an address. -/
def Stop.s (code info : Nat) : Stop := .fault code info none

/-- A condition that an instruction needs. -/
def need (b : Bool) (e : Stop) : Run Unit := if b then .ok () else .error e

/-- A lane's own poison consumed. -/
def Stop.lanePoison (ps : List Poison) : Stop := .poison true ps id none

/-- Park with nothing else done. -/
def parkOn {α : Type} (w : Wait) : Run α := .error (.park w id)

/-- What a scoreboard entry adds to a freeze record (R414). -/
def pendingWord (e : SbEntry) : DWord :=
  match e.targets with
  | [] => 0
  | x :: _ => match x.2.2 with
    | .pos n => BitVec.ofNat 64 (e.frag * 256 + n * 65536)
    | .loc k => BitVec.ofNat 64 (1 + e.frag * 256 + k * 65536)

/-- The freeze record of a team, keyed by slot and dword (R408, R414). -/
def freezeRecord (slot : Nat) (t : Team) : List (Nat × DWord) :=
  (slot * 64, BitVec.ofNat 64 t.sb.length) ::
    (mapIdxFrom (fun i e => [(slot * 64 + 1 + 2 * i, pendingWord e), (slot * 64 + 2 + 2 * i, e.pc)]) 0 t.sb).flatten

/-- Whether a team's open region stays open through the stop: one in which REGION_VIOLATION was raised (R177). -/
def regionKept (s : State) (uid : Nat) : Bool := (((teamOf s uid).bind (·.region)).map (·.kept)).getD false

/-- A store of a region that awaits replay, among a waiter's accesses (R445). -/
def Acc.ofRegion : Acc → Bool
  | .store _ _ _ _ k => k == .region
  | .qnt _ _ held => held
  | _ => false

/-- Such a store outside every region (R445). -/
def Acc.released : Acc → Acc
  | .store m va d p .region => .store m va d p .plain
  | .qnt m row _ => .qnt m row false
  | a => a

/-- The lines of global memory that a region's store is for. -/
def Acc.lines : Acc → List Nat
  | .store _ va .. => [va.toNat / 64]
  | .qnt _ row _ => row.map fun x => x.1.toNat / 64
  | _ => []

/-- The accesses of a team that await replay: those of the fault buffers' waiters in their order, then its replay records. -/
def waitingAccs (s : State) (uid : Nat) : List Acc :=
  let own := fun (w : Waiter) => if w.team = uid then (match w.kind with
    | .pass accs => accs
    | _ => []) else []
  ((List.range 4).flatMap fun d => (getDie s d).fb.flatMap fun e => e.waiters.flatMap own) ++
    (((teamOf s uid).map (·.replay)).getD []).flatMap own

/-- What a line's performed stores leave to be stored on resume, because other stores of the line have not been performed (R445). -/
def lateLine (t : Team) (r : Region) (pc : DWord) (b : BufLine) : List Waiter :=
  (maskRuns b.mask b.data 64 []).map fun x =>
    { team := t.uid, frag := r.frag, launch := t.launch, pc, access := 2,
      kind := .pass [.store r.active (BitVec.ofNat 64 (b.line * 64 + x.1)) x.2 none .published] }

/-- A team's region closed for pre-emption or dump (R445): the lines whose stores have all been performed are published; what the others
hold comes first among the replay records. -/
def closeStopped (s : State) (uid : Nat) (pc : DWord) : State × List Found × List Waiter :=
  match teamOf s uid with
  | none => (s, [], [])
  | some t => match t.region with
    | none => (s, [], [])
    | some r =>
      let open' := ((waitingAccs s uid).filter Acc.ofRegion).flatMap Acc.lines
      let late := fun (b : BufLine) => !b.scratch && open'.contains b.line
      let s := modTeam s uid fun t => { t with region := some { r with buffer := r.buffer.filter fun b => !late b } }
      let (s, found) := closeRegion s uid pc
      (s, found, (r.buffer.filter late).flatMap (lateLine t r pc))

/-- A team stopped for pre-emption or dump: its region closes, its waiters are withdrawn as replay records outside every
region, its windows end and its written results leave the scoreboard (R50, R306, R445). -/
def drainTeam (s : State) (uid : Nat) : State × List Found :=
  match teamOf s uid with
  | none => (s, [])
  | some t =>
    let pc := ((runFrag t).map (·.pc)).getD 0
    let plain := fun (w : Waiter) => if w.team = uid then { w with kind := match w.kind with
        | .pass accs => .pass (accs.map Acc.released)
        | k => k } else w
    let kept := regionKept s uid
    let (s, found, first) := if kept then (s, [], []) else closeStopped s uid pc
    let s := withdraw s uid
    (modTeam s uid fun t => { t with
      replay := if kept then t.replay else first ++ t.replay.map plain
      sb := (t.sb.filter (·.waiting)).map fun e => { e with window := 0 } }, found)

/-- A freeze with BCAST set sends the halt broadcast to every other bench with teams of the context (R407). -/
def callBenches (s : State) (c b : Nat) (tag : Tag) : State :=
  (s.teams.filter fun t => t.tag == tag && !(t.core == c && t.bench == b)).foldl
    (fun s t => setBench s t.core t.bench { getBench s t.core t.bench with called := some tag }) s

/-- A bench freezes (R406, R408): BFREEZE, the freeze records, and every team of it drained. A bench already frozen does not. -/
def freezeBench (s : State) (c b cause slot comp : Nat) : State :=
  let x := getBench s c b
  if x.bctl.getLsbD 0 then s
  else
    let mine := s.teams.filter fun t => t.core == c && t.bench == b
    let rec' := mine.flatMap fun t => freezeRecord (slotNo s t) t
    let time := s.gtime.toNat % 2 ^ 48
    let s := setBench s c b { x with
      bctl := x.bctl ||| 1
      bfreeze := BitVec.ofNat 64 (cause * 2 ^ 56 + slot * 2 ^ 52 + comp * 2 ^ 49 + time)
      freeze := rec' }
    let owner := (getCore s c).cowner
    let tag : Tag := owner.setWidth 12
    let s := if x.bctl.getLsbD 2 && owner.getLsbD 31 then callBenches s c b tag else s
    let who := if cause ≤ 2 then mine.find? (fun t => slotNo s t == slot) else none
    let f := who.bind traceFrag
    let act := ((who.bind fun t => f.map fun f => summary t f.active)).getD 0
    let s := if x.btrace.getLsbD 63 then traceWrite s c b 2 (if cause ≤ 2 then slot else 0xFF) cause tag f act else s
    mine.foldl (fun s t =>
      let (s, l) := drainTeam s t.uid
      l.foldl (fun s f => postFault s t f.1 0 f.2.1 0 0 (some f.2.2)) s) s

/-- A class S fault of a team (R186, R406): posted, and the team's bench freezes. -/
def classS (s : State) (uid code arg info : Nat) (pc : DWord) (lanes : Mask) (addr : Option DWord) : State :=
  match teamOf s uid with
  | none => s
  | some t => freezeBench (postFault s t code arg info pc lanes addr) t.core t.bench 1 (slotNo s t) 0

/-- Faults found at translation after an instruction issued (R305). -/
def foundFaults (s : State) (uid : Nat) (pc : DWord) (lanes : Mask) (l : List Found) : State :=
  l.foldl (fun s f => classS s uid f.1 0 f.2.1 pc lanes (some f.2.2)) s

/-- Whether a class U trap of a team enters its handler, and does not escalate (R85, R179). -/
def Team.trapEnters (t : Team) : Bool := t.uhvec != 0 && decide (t.trapLoops.length < 2) && decide (t.frags.length < 64)

/-- Whether entry to a handler waits for the open region's stores that await replay (R445). -/
def Team.trapWaits (t : Team) : Bool := t.trapEnters && (match t.region with
  | some r => r.pendingStores != 0
  | none => false)

/-- A class U trap enters the user handler (R180), or escalates to class S with its own code (R179); SPLIT_OVERFLOW when no
entry is free. ipc is the trapping instruction's address; resume is where the marker runs on; at is where the PC stands when the trap
escalates. The entry made may spill another (R84). A trapping instruction at a loop's end makes no loop step, neither here nor when its
handler has done its work and returns after it: the model's choice (log entry 18). -/
def takeTrap (s : State) (uid code arg info : Nat) (ipc resume at' : DWord) : State :=
  match teamOf s uid with
  | none => s
  | some t =>
    match runFrag t with
    | none => s
    | some f =>
      if t.uhvec = 0 ∨ 2 ≤ t.trapLoops.length then
        let s := setTeam s (modFrag t f.num fun x => { x with pc := at' })
        classS s uid code arg info ipc f.active none
      else if 64 ≤ t.frags.length then
        classS (setTeam s (modFrag t f.num fun x => { x with pc := ipc })) uid 0x0B 0 0 ipc f.active none
      else
        let s := latchBsec s t code ipc
        let (s, found) := closeRegion s uid ipc
        match teamOf s uid with
        | none => s
        | some t =>
          let t := t.endWindows f.num
          let (t, seq) := t.newSeq
          let n := t.freeNum
          let f := ((fragOf t f.num).getD f)
          let h : Frag := { f with
            num := n, pc := pcOf t.uhvec, joinPc := 0, mark := none, st := .run, trapMarker := false, spilled := false,
            handler := true, parent := some f.num, live := 0, seq := seq, member := f.active, wait := none,
            paused := 0, low := 0 }
          let t := modFrag t f.num fun x => { x with trapMarker := true, st := .hold, pc := resume, low := f.depth }
          let t := { t with
            frags := t.frags ++ [h]
            trapLoops := t.loops :: t.trapLoops
            loops := []
            trapcode := trapWord code arg info }
          foundFaults (spillTeam (setTeam s t) uid) uid ipc f.active found

/-- An instruction that is none enters the handler with the EMU registers set (R57, R58): FORM, CAUSE, first parcel, f16 or
arg8, f32, and its length in parcels. -/
def takeIllop (s : State) (uid form cause : Nat) (first arg : BitVec 16) (f32 : BitVec 32) (parcels : Nat) : State :=
  match (teamOf s uid).bind runFrag with
  | none => s
  | some f =>
    let s := modTeam s uid fun t => { t with
      emuop := BitVec.ofNat 32 (form * 2 ^ 30 + cause * 65536 + first.toNat)
      emuf16 := arg.setWidth 32
      emui32 := f32
      emupc := f.pc }
    takeTrap s uid 1 0 0 f.pc (f.pc + BitVec.ofNat 64 (2 * parcels)) f.pc

/-- Whether a waiter holds stores of a team's region: the stores of one instruction belong to a region together. -/
def Waiter.ofRegion (w : Waiter) (uid : Nat) : Bool := w.team == uid && (match w.kind with
  | .pass accs => accs.any Acc.ofRegion
  | _ => false)

/-- The stores of a team's open region that await replay withdrawn from their lists, never to be performed; their pages leave the
team's set with them (R303, R445). -/
def dropRegionStores (s : State) (uid : Nat) : State :=
  let s := foldNat (fun s d =>
    let die := getDie s d
    let mine := die.fb.flatMap fun e => (e.waiters.filter fun w => w.ofRegion uid).map fun w => (e.page, w)
    if mine.isEmpty then s
    else
      let s := setDie s d { die with fb := die.fb.map fun e => { e with waiters := e.waiters.filter fun w => !w.ofRegion uid } }
      mine.foldl (fun s x => modTeam s uid fun t => dropPage t (waiterPage x.2 x.1 t)) s) s 4
  modTeam s uid fun t => { t with replay := t.replay.filter fun w => !w.ofRegion uid }

/-- A region restarts from its snapshot (R178): the buffer and the stores that await replay go, the scoreboard entries of
the fragment clear. The shelf holds what it held, of the entries that are left (log entry 52). -/
def restartRegion (s : State) (t : Team) (r : Region) (code : Nat) (pc : DWord) : State :=
  let s := dropRegionStores (traceEvent (latchBsec s t code pc) t 4 0) t.uid
  modTeam s t.uid fun t =>
    let t := t.mapLanes fun i l =>
      if r.member.getLsbD i then
        let ops := (r.operands[i]?).getD []
        { l with stack := ops ++ l.stack.drop (l.stack.length - (r.d0 - ops.length)) }
      else l
    let t := modFrag t r.frag fun f =>
      let h := min f.shelf r.d0
      { f with
        depth := r.d0, fmt := r.fmt, active := r.active, member := r.member, m0 := r.m0, m1 := r.m1, m2 := r.m2,
        m3 := r.m3, pc := r.rentry, shelf := h }
    { t with
      cc := r.cc, loops := r.loops, sb := t.sb.filter (fun e => e.frag != r.frag),
      region := some { r with restarts := r.restarts + 1, buffer := [], pendingStores := 0, closing := none } }

/-- The tag of a slot. -/
def slotTag (s : State) (n : Nat) : Tag := (getSlot s n).cxctl.setWidth 12

/-- The slots of running and stopped contexts that are not among tags. -/
def liveSlots (s : State) (tags : List Tag) : List Nat :=
  (s.hub.slots.filter fun p =>
    p.2.cxctl.getLsbD 31 && (p.2.st == 2 || p.2.st == 3) && !tags.contains (p.2.cxctl.setWidth 12)).map (·.1)

/-- An uncorrectable error that is not pinned to a tag calls for a warm reset (R351, R353): the level and log word of the error and the
contexts on the unit that the log names. A further one during a reset starts it again, and every context not yet saved then counts
as implicated. -/
def startReset (s : State) (source : Nat) (log : DWord) (tags : List Tag) : State :=
  let job : ResetJob := match s.hub.job with
    | some j => { j with tags := j.tags ++ j.todo.map (slotTag s) ++ tags, todo := [] }
    | none => { source, log, tags, todo := liveSlots s tags, saved := [], time := s.gtime }
  { s with hub := { s.hub with job := some job } }

/-- The tags, other than 0, of the teams on cores that a test names, each once. -/
def tagsOn (s : State) (on : Nat → Bool) : List Tag :=
  s.teams.foldl (fun (l : List Tag) u => if on u.core && u.tag != 0 && !l.contains u.tag then l ++ [u.tag] else l) []

/-- Poison consumed with no region open, or a region's fourth error (code): the tagged contexts and the consumer are terminated; tag 0
calls a warm reset, the contexts of the core implicated (R178, R351 to R353, R424). addr is the access's address, or the instruction's
where the error has none (R404). -/
def poisonKill (s : State) (t : Team) (code : Nat) (pc : DWord) (ps : List Poison) (addr : Option DWord := none) : State :=
  let s := latchBsec s t code (addr.getD pc)
  let s := traceEvent s t 3 code
  let wh := dieOf t.core * 2 ^ 24 + logCore s t.core * 2 ^ 16 + t.bench * 2 ^ 8
  let image := ((launchOf s t.launch).map (·.pkt.image)).getD 0
  let kill := fun (s : State) (p : Poison) =>
    match slotOfTag s p.tag with
    | none => s
    | some n =>
      terminate s n { cause := code, info := 0, source := p.source, log := p.log, pc, team := t.number, whereWord := wh, launchImage := image }
  let on := tagsOn s fun c => c == t.core
  let s := (ps.filter fun p => p.tag != 0).foldl kill s
  let s := if ps.any fun p => p.tag == t.tag then s else kill s { tag := t.tag, source := 7, log := ((ps.head?).map (·.log)).getD 0 }
  match ps.find? fun p => p.tag == 0 with
  | some p => startReset s p.source p.log on
  | none => s

/-- An instruction does not complete: the state it leaves (R57, R80, R178, R180, R186, R424). len is its length in bytes. Entry to
a handler waits, parked, for the open region's stores that await replay (R445); REGION_VIOLATION leaves the region open (R177). -/
def raise (s : State) (i : Instr) (t : Team) (f : Frag) (len : Nat) (e : Stop) : State :=
  let e : Stop := match e with
    | .illop _ | .trap _ _ => if t.trapWaits then Stop.park .regionReplays id else e
    | e => e
  match e with
  | .illop cause =>
    let ps := encode i
    let p := fun n => (ps[n]?).getD 0
    let first := p 0
    let form := if !first.getLsbD 15 then 0 else if first.getLsbD 14 then 3 else 2
    takeIllop s t.uid form cause first (if form = 0 then first &&& 0xFF else p 1)
      (if form = 3 then pair32 (p 2) (p 3) else 0) ps.length
  | .fault 0x20 info addr =>
    match t.region with
    | some r => if r.restarts < 3 then restartRegion s t r 0x20 f.pc
      else poisonKill s t 0x20 f.pc [{ tag := t.tag, source := 0, log := 0 }]
    | none => classS s t.uid 0x20 0 info f.pc f.active addr
  | .fault 0x16 info addr =>
    classS (modTeam s t.uid fun u => { u with region := u.region.map fun r => { r with kept := true } }) t.uid 0x16 0 info f.pc f.active addr
  | .fault code info addr => classS s t.uid code 0 info f.pc f.active addr
  | .faultAfter pre code info => classS (pre s) t.uid code 0 info f.pc f.active none
  | .trap code arg =>
    let next := f.pc + BitVec.ofNat 64 len
    takeTrap s t.uid code arg 0 f.pc next (if code = 2 then f.pc else next)
  | .park w pre => modTeam (pre s) t.uid fun t => modFrag t f.num fun x => { x with st := .parked, wait := some w }
  | .poison lane ps pre addr =>
    match t.region with
    | some r => if lane && decide (r.restarts < 3) then restartRegion s t r 0x21 f.pc else poisonKill (pre s) t 0x21 f.pc ps addr
    | none => poisonKill (pre s) t 0x21 f.pc ps addr
where
  /-- A 32-bit field from its two parcels. -/
  pair32 (a b : BitVec 16) : BitVec 32 := (b.setWidth 32 <<< 16) ||| a.setWidth 32

/-- A charge subtracted from the allowance of a core's quad (R279). -/
def charge (s : State) (core pJ : Nat) : State :=
  let q := getQuad s (quadOf core)
  setQuad s (quadOf core) { q with allow := q.allow - BitVec.ofNat 64 pJ, charged := q.charged + pJ, spent := q.spent + pJ }

/-- What issuing an instruction involves besides its own effect. -/
structure Shape where
  /-- entries popped and pushed (R52, R55) -/
  pops : Nat := 0
  pushes : Nat := 0
  /-- only moves entries: consumes no poison (R93) -/
  moves : Bool := false
  /-- does not park on the entries it pops but moves their target (R50) -/
  retarget : Bool := false
  /-- locals it reads -/
  locals : List Nat := []
  /-- raises REGION_VIOLATION in an open region (R177) -/
  closed : Bool := false
  /-- accesses memory: waits while an atomic of the team has its acquire to make (R226) -/
  access : Bool := false
  /-- an ordering instruction, which waits for earlier accesses and releases wait for engines too (R254, R324) -/
  ordered : Bool := false
  engines : Bool := false
  /-- scalars that must not be pending (R153, R159) -/
  scalars : List SReg := []
  /-- may be the last instruction of a loop body that steps it (R171) -/
  steps : Bool := true
  /-- closes an open region before its own effect (R176) -/
  closes : Bool := false

/-- The passes of a fragment (R75). -/
def passes (t : Team) (f : Frag) : Nat := (passWords t f.member).length

/-- Whether a team has an access that waits for replay (R324). -/
def Team.hasReplays (t : Team) : Bool := !t.pages.isEmpty || !t.replay.isEmpty

/-- Whether an ordering instruction of the team has issued and not completed: no later access is performed before it is (R226, R324). -/
def Team.acquiring (t : Team) : Bool := t.frags.any fun f => match f.wait with
  | some (.acquire _) | some (.barrier ..) | some (.nbar ..) | some (.timeline ..) => true
  | _ => false

/-- Whether an atomic of the team has its own part of an ordering still to make (R226, R324). -/
def Team.atomPending (t : Team) : Bool := t.frags.any fun f => match f.wait with
  | some (.acquire _) => true
  | _ => false

/-- Whether a team has an earlier access that is not yet performed: one that awaits replay, another package's answer, or granules to be
full (R200, R324). -/
def unperformed (s : State) (t : Team) : Bool :=
  t.hasReplays || podPending s t.uid || t.frags.any fun f => match f.wait with
    | some (.fullEmpty ..) => true
    | _ => false

/-- What a team waits for before it retires: the accesses that it has issued and that are not yet performed, and the acknowledgements of
its stores to other packages. Its launch's SIG releases its writes, and an unacknowledged request is the resident team's fault (R80,
R347, R432; log entry 60). -/
def retireWaits (s : State) (uid : Nat) : Option Wait :=
  match teamOf s uid with
  | none => none
  | some t =>
    if unperformed s t then some .ordering else if s.fabric.msgs.any fun m => m.isStore uid then some .fabricAck else none

/-- The row of a QNT or the lane of a DQNT. -/
def Acc.isRow : Acc → Bool
  | .dqnt .. | .qnt .. => true
  | _ => false

/-- Whether rows of QNT or DQNT of the team await replay: they read or write all their streams then, so the team's later accesses wait
(R145, R319; log entry 49). -/
def rowWaits (s : State) (t : Team) : Bool := (waitingAccs s t.uid).any Acc.isRow

/-- The fragments of a team with the row of a QNT among the waiters or the replay records. -/
def waitingRows (s : State) (uid : Nat) : List Nat :=
  let own := fun (w : Waiter) => w.team == uid && (match w.kind with
    | .pass accs => accs.any fun a => match a with
      | .qnt .. => true
      | _ => false
    | _ => false)
  (((List.range 4).flatMap fun d => (getDie s d).fb.flatMap fun e => e.waiters.filter own) ++
    (((teamOf s uid).map (·.replay)).getD []).filter own).map (·.frag)

/-- Whether a team has matrix or IXU commands that have not completed (R254). -/
def hasEngines (s : State) (t : Team) : Bool :=
  let c := getCore s t.core
  t.held.isSome || !t.removed.isEmpty || !t.heldIx.isEmpty || c.matq.any (fun m => m.team == t.uid) ||
    c.ixq.any (fun m => m.1 == t.uid)

/-- The checks of R51 after decoding, of R177 and R424, and the waits, in this order: stack bounds, lookahead, pending
positions and scalars, region rules, poison, ordering. Poison in the flag that SPLIT pops thus restarts an open region, though R167 closes
the region before the pop: the model's choice (log entry 10). -/
def checks (s : State) (t : Team) (f : Frag) (sh : Shape) : Run Unit := do
  need (decide (sh.pops ≤ f.depth)) (.s 0x07 0)
  need (decide (f.depth + sh.pushes - sh.pops ≤ t.stackDecl)) (.s 0x08 0)
  let pend := t.pendingTop f sh.pops
  let loc := sh.locals.flatMap fun k => t.pendingLoc f k
  need (!((pend ++ loc).any fun e => e.frag == f.num && decide (0 < e.window))) (.s 0x09 0)
  match (if sh.retarget then loc else pend ++ loc) with
  | e :: _ => parkOn (.pending e.id)
  | [] => pure ()
  match sh.scalars.find? fun r => t.scalarPend.contains r.toNat with
  | some r => parkOn (.scalar r.toNat)
  | none => pure ()
  match t.region with
  | some r =>
    need (!sh.closed) (.s 0x16 0)
    need (!(r.frag == f.num && !sh.closes && decide (0 < sh.pops ∧ f.depth - sh.pops < r.d0))) (.s 0x17 0)
    if sh.closes && r.pendingStores != 0 then parkOn .regionReplays else pure ()
  | none => pure ()
  let ps := if sh.moves then [] else t.poisonIn f sh.pops
  need ps.isEmpty (.lanePoison ps)
  if sh.access && (t.acquiring || rowWaits s t) then parkOn .replays else pure ()
  if sh.ordered && (t.atomPending || unperformed s t) then parkOn .ordering else pure ()
  if sh.engines && hasEngines s t then parkOn .engines else pure ()

/-- What issuing does before the instruction's own effect: the charge, the windows, the shelf, the PC past it (R48, R90, R278). -/
def enter (i : Instr) (s : State) (t : Team) (f : Frag) (sh : Shape) (len : Nat) : State :=
  let s := charge s t.core (issueCost i (passes t f))
  modTeam s t.uid fun t =>
    let t := (t.tickWindows f.num).notePop f sh.pops
    let t := { t with exempt := false, withheld := 0 }
    modFrag t f.num fun x => { x with
      pc := f.pc + BitVec.ofNat 64 len, paused := 0, shelf := shelfAfter f.depth f.shelf sh.pops sh.pushes }

/-- The outcome of the loop step: nothing, LOOP_SPLIT, or the loop stack and where the PC goes (R171). -/
inductive LoopStep
  | none
  | split
  | to (loops : List LoopEntry) (pc : Option DWord)
  deriving DecidableEq, Repr

/-- The loop step at an end address (R171). -/
def loopStep (pc : DWord) (others : Bool) : List LoopEntry → Bool → LoopStep
  | [], first => if first then .none else .to [] none
  | e :: r, first =>
    if e.last ≠ pc then (if first then .none else .to (e :: r) none)
    else if others then .split
    else if e.count - 1 ≠ 0 then .to ({ e with count := e.count - 1 } :: r) (some e.start)
    else loopStep pc others r false

/-- What follows an instruction that has completed by falling through: the loop step (R171). -/
def leave (s : State) (uid : Nat) (f : Frag) (len : Nat) : State :=
  match teamOf s uid with
  | none => s
  | some t =>
    match fragOf t f.num with
    | none => s
    | some g =>
      if g.pc ≠ f.pc + BitVec.ofNat 64 len ∨ g.st = .hold then s
      else
        match loopStep f.pc (t.othersLive g) t.loops true with
        | .none => s
        | .split => classS s uid 0x0D 0 0 f.pc g.active none
        | .to loops none => setTeam s { t with loops }
        | .to loops (some pc) => setTeam s (modFrag ({ t with loops }.endWindows f.num) f.num fun x => { x with pc })

/-- One instruction of the current team's running fragment: limits of decoding first (R51), then the checks, then its own
effect on the state in which it has issued, then the loop step. The effect is given the team and fragment as they stood. -/
def issue (i : Instr) (sh : Shape) (limits : Team → Run Unit) (body : State → Team → Frag → Run State) (s : State) : Out :=
  match s.cur.bind (teamOf s) with
  | none => .fault .noTeam
  | some t =>
    match runFrag t with
    | none => .fault .noFragment
    | some f =>
      let len := 2 * (encode i).length
      let run : Run State := do
        limits t
        checks s t f sh
        body (enter i s t f sh len) t f
      match run with
      | .ok s' => .next (if sh.steps then leave s' t.uid f len else s')
      | .error e => .next (raise s i t f len e)

/-- Whether the fragment that issues has an active lane that is no helper (R376, R415). -/
def nowActs (s : State) : Bool := match s.cur.bind (teamOf s) with
  | some t => ((runFrag t).map t.acts).getD true
  | none => true

/-- No limit beside those of the encoding. -/
def noLimits (_ : Team) : Run Unit := .ok ()

/-- A team's data changed after issue. -/
def onTeam (g : Team → Frag → Team) (s : State) (t : Team) (f : Frag) : Run State :=
  .ok (modTeam s t.uid fun u => g u f)

/-- The flags that lane operations raise, set in FPSF (R71). -/
def Team.orFlags (t : Team) (fl : Flags) : Team := { t with fpsf := t.fpsf ||| fl }

/-- A lane computation: in each active lane the words of the popped entries (TOS first) give the words pushed (TOS first)
and the flags raised (R87, R125). -/
def laneOp (p q : Nat) (g : Team → Frag → Nat → List Word → List Word × Flags) (t : Team) (f : Frag) : Team :=
  let f := (fragOf t f.num).getD f
  let res := fun i (es : List Entry) => g t f i (es.map (·.bits))
  let fl := (t.activeLanes f).foldl (fun a i => a ||| (res i ((t.lane i).stack.take p)).2) (0 : Flags)
  (t.stackOp f p q fun i es => (res i es).1.map Entry.clean).orFlags fl

/-- A long-latency result takes a scoreboard entry (R49): the components that the instruction has just pushed, in the
fragment's member lanes, with the window of its la4; the fragment parks when all 16 are taken. -/
def takeSb (t : Team) (f : Frag) (q : Nat) (la : BitVec 4) (waiting : Bool) : Run (Team × Nat) :=
  if 16 ≤ t.sb.length then parkOn .sbFull
  else
    let d := ((fragOf t f.num).getD f).depth
    let e : SbEntry :=
      { id := t.nextSb, frag := f.num, targets := (List.range q).map fun c => (c, f.member, Target.pos (d - c)), pc := f.pc,
        window := la.toNat, waiting }
    .ok ({ t with sb := t.sb ++ [e], nextSb := t.nextSb + 1 }, e.id)

/-- A lane computation that is long-latency: the results are pending until the event that writes them (R49, R127). -/
def laneLL (la : BitVec 4) (p q : Nat) (g : Team → Frag → Nat → List Word → List Word × Flags) (s : State) (t : Team) (f : Frag) :
    Run State := do
  match teamOf s t.uid with
  | none => .ok s
  | some u =>
    let (u, _) ← takeSb (laneOp p q g u f) f q la false
    .ok (setTeam s u)

/-- The values of a replayed or engine result delivered to a lane's components (R49, R304). -/
def deliver (t : Team) (sb lane : Nat) (vals : List Entry) : Team :=
  match t.sb.find? fun e => e.id == sb with
  | none => t
  | some e =>
    e.targets.foldl (fun t x =>
      if x.2.1.getLsbD lane then
        let v := (vals[x.1]?).getD Entry.zero
        t.mapLanes fun i l =>
          if i = lane then
            match x.2.2 with
            | .pos n => { l with stack := listSet l.stack (l.stack.length - n) v }
            | .loc k => { l with locals := listSet l.locals k v }
          else l
      else t) t

end Sys2Proof.Machine
end

