-- ==== Sys2Proof/Machine/IntArith.lean ====
section
/-! DEFINITION. Integer, bit-field, byte and 64-bit lane instructions, SEL and CMP (R101, R102, R133 to R138). -/

namespace Sys2Proof.Machine

/-- A lane instruction whose result is computed from the popped words (TOS first), flags included. -/
def laneIns (i : Instr) (p q : Nat) (g : Team → Frag → Nat → List Word → List Word × Flags) (s : State) : Out :=
  issue i { pops := p, pushes := q } noLimits (onTeam (laneOp p q g)) s

/-- A lane instruction that raises no flag. -/
def wordIns (i : Instr) (p q : Nat) (g : List Word → List Word) (s : State) : Out :=
  laneIns i p q (fun _ _ _ ws => (g ws, 0)) s

/-- ( a — r ). -/
def un (i : Instr) (g : Word → Word) (s : State) : Out :=
  wordIns i 1 1 (fun ws => match ws with
    | [a] => [g a]
    | _ => []) s

/-- ( a b — r ). -/
def bin (i : Instr) (g : Word → Word → Word) (s : State) : Out :=
  wordIns i 2 1 (fun ws => match ws with
    | [b, a] => [g a b]
    | _ => []) s

/-- ( a b c — r ). -/
def ter (i : Instr) (g : Word → Word → Word → Word) (s : State) : Out :=
  wordIns i 3 1 (fun ws => match ws with
    | [c, b, a] => [g a b c]
    | _ => []) s

/-- A pair of words as pushed, TOS first (R12). -/
def pairOut (d : DWord) : List Word := [hi32 d, lo32 d]

/-- ( A B — R ) on pairs. -/
def bin64 (i : Instr) (g : DWord → DWord → DWord) (s : State) : Out :=
  wordIns i 4 2 (fun ws => match ws with
    | [bhi, blo, ahi, alo] => pairOut (g (pair alo ahi) (pair blo bhi))
    | _ => []) s

/-- ( A n — R ) on a pair and a count. -/
def shift64 (i : Instr) (g : DWord → Nat → DWord) (s : State) : Out :=
  wordIns i 3 2 (fun ws => match ws with
    | [n, ahi, alo] => pairOut (g (pair alo ahi) (n.toNat % 64))
    | _ => []) s

/-- ADD. -/
def execAdd (s : State) : Out := bin .add (fun a b => a + b) s
/-- SUB. -/
def execSub (s : State) : Out := bin .sub (fun a b => a - b) s
/-- MUL. -/
def execMul (s : State) : Out := bin .mul (fun a b => a * b) s
/-- MULH. -/
def execMulh (s : State) : Out := bin .mulh (fun a b => hi32 (dw (a.toInt * b.toInt))) s
/-- MULHU. -/
def execMulhu (s : State) : Out := bin .mulhu (fun a b => hi32 (BitVec.ofNat 64 (a.toNat * b.toNat))) s
/-- MAD. -/
def execMad (s : State) : Out := ter .mad (fun a b c => a * b + c) s

/-- DIV, DIVU, REM and REMU: DIVZ before the pop when FMT.DIVT is 1 and an active lane has a zero divisor (R134). -/
def divIns (i : Instr) (la : BitVec 4) (g : Word → Word → Word) (s : State) : Out :=
  issue i { pops := 2, pushes := 1 } noLimits
    (fun s t f => do
      need (!(fmtDivt f.fmt && (t.activeLanes f).any fun l => t.opd l 0 == 0)) (.trap 2 0)
      laneLL la 2 1 (fun _ _ _ ws => match ws with
        | [b, a] => ([g a b], 0)
        | _ => ([], 0)) s t f) s

/-- DIV (R102). -/
def execDiv (la : BitVec 4) (s : State) : Out :=
  divIns (.div la) la (fun a b => if b = 0 then 0xFFFFFFFF else wd (a.toInt.tdiv b.toInt)) s
/-- DIVU (R102). -/
def execDivu (la : BitVec 4) (s : State) : Out :=
  divIns (.divu la) la (fun a b => if b = 0 then 0xFFFFFFFF else BitVec.ofNat 32 (a.toNat / b.toNat)) s
/-- REM (R102). -/
def execRem (la : BitVec 4) (s : State) : Out :=
  divIns (.rem la) la (fun a b => if b = 0 then a else wd (a.toInt.tmod b.toInt)) s
/-- REMU (R102). -/
def execRemu (la : BitVec 4) (s : State) : Out :=
  divIns (.remu la) la (fun a b => if b = 0 then a else BitVec.ofNat 32 (a.toNat % b.toNat)) s

/-- NEG. -/
def execNeg (s : State) : Out := un .neg (fun a => 0 - a) s
/-- ABS. -/
def execAbs (s : State) : Out := un .abs (fun a => if a.toInt < 0 then 0 - a else a) s
/-- MIN. -/
def execMin (s : State) : Out := bin .min (fun a b => if a.toInt ≤ b.toInt then a else b) s
/-- MAX. -/
def execMax (s : State) : Out := bin .max (fun a b => if a.toInt ≤ b.toInt then b else a) s
/-- MINU. -/
def execMinu (s : State) : Out := bin .minu (fun a b => if a.toNat ≤ b.toNat then a else b) s
/-- MAXU. -/
def execMaxu (s : State) : Out := bin .maxu (fun a b => if a.toNat ≤ b.toNat then b else a) s
/-- ADDS. -/
def execAdds (s : State) : Out := bin .adds (fun a b => wd (clampS 32 (a.toInt + b.toInt))) s
/-- SUBS. -/
def execSubs (s : State) : Out := bin .subs (fun a b => wd (clampS 32 (a.toInt - b.toInt))) s
/-- AND. -/
def execAnd (s : State) : Out := bin .and (fun a b => a &&& b) s
/-- OR. -/
def execOr (s : State) : Out := bin .or (fun a b => a ||| b) s
/-- XOR. -/
def execXor (s : State) : Out := bin .xor (fun a b => a ^^^ b) s
/-- NOT. -/
def execNot (s : State) : Out := un .not (fun a => ~~~a) s
/-- ANDN. -/
def execAndn (s : State) : Out := bin .andn (fun a b => a &&& ~~~b) s
/-- SHL. -/
def execShl (s : State) : Out := bin .shl (fun a n => a <<< (n.toNat % 32)) s
/-- SHR. -/
def execShr (s : State) : Out := bin .shr (fun a n => a >>> (n.toNat % 32)) s
/-- SAR. -/
def execSar (s : State) : Out := bin .sar (fun a n => a.sshiftRight (n.toNat % 32)) s
/-- ROTL. -/
def execRotl (s : State) : Out := bin .rotl (fun a n => a.rotateLeft (n.toNat % 32)) s
/-- CLZ. -/
def execClz (s : State) : Out := un .clz (fun a => BitVec.ofNat 32 (32 - bitLen a.toNat)) s
/-- POPC. -/
def execPopc (s : State) : Out :=
  un .popc (fun a => BitVec.ofNat 32 ((List.range 32).filter a.getLsbD).length) s
/-- BREV. -/
def execBrev (s : State) : Out :=
  un .brev (fun a => (List.range 32).foldl (fun r i => r ||| (boolWord (a.getLsbD i) <<< (31 - i))) 0) s

/-- The field of BFX, BFXU and BFI: its place and length (R135). -/
def bfField (p q : Word) : Nat × Nat := (p.toNat % 32, min (q.toNat % 64) (32 - p.toNat % 32))

/-- BFX (R135). -/
def execBfx (s : State) : Out :=
  ter .bfx (fun a p q => let (pos, n) := bfField p q; if n = 0 then 0 else wd (sxt n (a.toNat / 2 ^ pos % 2 ^ n))) s
/-- BFXU (R135). -/
def execBfxu (s : State) : Out :=
  ter .bfxu (fun a p q => let (pos, n) := bfField p q; BitVec.ofNat 32 (a.toNat / 2 ^ pos % 2 ^ n)) s
/-- BFI (R135). -/
def execBfi (s : State) : Out :=
  wordIns .bfi 4 1 (fun ws => match ws with
    | [q, p, ins, base] =>
      let (pos, n) := bfField p q
      let m : Word := BitVec.ofNat 32 (2 ^ n - 1) <<< pos
      [(base &&& ~~~m) ||| ((ins <<< pos) &&& m)]
    | _ => []) s

/-- One byte of PERMB's result (R135): the eight source bytes as a pair, and the control byte. -/
def permByte (src : DWord) (c : Nat) : Nat :=
  let x := src.toNat / 2 ^ (8 * (c % 8)) % 256
  let y :=
    match c / 8 % 4 with
    | 0 => x
    | 1 => (BitVec.ofInt 8 (sxt 4 (x % 16))).toNat
    | 2 => (BitVec.ofInt 8 (sxt 4 (x / 16))).toNat
    | _ => if x < 128 then 0 else 255
  if c / 128 % 2 = 1 then 0 else y

/-- PERMB (R135). -/
def execPermb (s : State) : Out :=
  ter .permb (fun a b sel => BitVec.ofNat 32 (leNat ((leBytes 4 sel.toNat).map fun c =>
    BitVec.ofNat 8 (permByte (pair a b) c.toNat)))) s

/-- SEL (R136). -/
def execSel (s : State) : Out := ter .sel (fun x y c => if c = 0 then y else x) s

/-- ADD.64 (R137). -/
def execAdd64 (s : State) : Out := bin64 .add64 (fun a b => a + b) s
/-- SUB.64. -/
def execSub64 (s : State) : Out := bin64 .sub64 (fun a b => a - b) s
/-- MUL.64. -/
def execMul64 (s : State) : Out := bin64 .mul64 (fun a b => a * b) s
/-- SHL.64. -/
def execShl64 (s : State) : Out := shift64 .shl64 (fun a n => a <<< n) s
/-- SHR.64. -/
def execShr64 (s : State) : Out := shift64 .shr64 (fun a n => a >>> n) s
/-- SAR.64. -/
def execSar64 (s : State) : Out := shift64 .sar64 (fun a n => a.sshiftRight n) s
/-- MULW. -/
def execMulw (s : State) : Out :=
  wordIns .mulw 2 2 (fun ws => match ws with
    | [b, a] => pairOut (dw (a.toInt * b.toInt))
    | _ => []) s

/-- The conditions of CMP (R138). -/
def cmpHolds (cc : Cc) (a b : Word) : Bool :=
  match cc with
  | .eq => a == b
  | .ne => a != b
  | .lt => decide (a.toInt < b.toInt)
  | .le => decide (a.toInt ≤ b.toInt)
  | .gt => decide (b.toInt < a.toInt)
  | .ge => decide (b.toInt ≤ a.toInt)
  | .lo => decide (a.toNat < b.toNat)
  | .ls => decide (a.toNat ≤ b.toNat)
  | .hi => decide (b.toNat < a.toNat)
  | .hs => decide (b.toNat ≤ a.toNat)
  | .un | .or => false

/-- CMP (R138); un and or are illegal conditions (R53, R126). -/
def execCmp (cc : Cc) (s : State) : Out :=
  issue (.cmp cc) { pops := 2, pushes := 1 } (fun _ => need cc.cmpOk (.illop 4))
    (onTeam (laneOp 2 1 fun _ _ _ ws => match ws with
      | [b, a] => ([boolWord (cmpHolds cc a b)], 0)
      | _ => ([], 0))) s

end Sys2Proof.Machine
end

