-- ==== Sys2Proof/Machine/FloatOps.lean ====
section
/-! DEFINITION. Floating-point, packed and conversion lane instructions (R105 to R114, R138 to R143). -/

namespace Sys2Proof.Machine

/-- A 32-bit result word and its flags. -/
def outW (r : FRes) : List Word × Flags := ([BitVec.ofNat 32 r.bits], r.fl)
/-- A 64-bit result pair and its flags. -/
def outD (r : FRes) : List Word × Flags := (pairOut (BitVec.ofNat 64 r.bits), r.fl)

/-- ( a — r ) in f32. -/
def f1 (i : Instr) (g : Word → Nat → FRes) (s : State) : Out :=
  laneIns i 1 1 (fun _ f _ ws => match ws with
    | [a] => outW (g f.fmt a.toNat)
    | _ => ([], 0)) s

/-- ( a b — r ) in f32. -/
def f2 (i : Instr) (g : Word → Nat → Nat → FRes) (s : State) : Out :=
  laneIns i 2 1 (fun _ f _ ws => match ws with
    | [b, a] => outW (g f.fmt a.toNat b.toNat)
    | _ => ([], 0)) s

/-- A long-latency special function ( a — r ) in f32. -/
def fLL (i : Instr) (la : BitVec 4) (g : Word → Nat → FRes) (s : State) : Out :=
  issue i { pops := 1, pushes := 1 } noLimits
    (laneLL la 1 1 fun _ f _ ws => match ws with
      | [a] => outW (g f.fmt a.toNat)
      | _ => ([], 0)) s

/-- ( A — R ) in f64. -/
def d1 (i : Instr) (g : Word → Nat → FRes) (s : State) : Out :=
  laneIns i 2 2 (fun _ f _ ws => match ws with
    | [ahi, alo] => outD (g f.fmt (pair alo ahi).toNat)
    | _ => ([], 0)) s

/-- ( A B — R ) in f64, as words TOS first. -/
def d2of (g : Word → Nat → Nat → FRes) (f : Frag) (ws : List Word) : List Word × Flags :=
  match ws with
  | [bhi, blo, ahi, alo] => outD (g f.fmt (pair alo ahi).toNat (pair blo bhi).toNat)
  | _ => ([], 0)

/-- ( A B — R ) in f64. -/
def d2 (i : Instr) (g : Word → Nat → Nat → FRes) (s : State) : Out :=
  laneIns i 4 2 (fun _ f _ ws => d2of g f ws) s

/-- a + b, or a − b, in a format (R139). -/
def addF (F : FFmt) (sub : Bool) (md : RMode) (ftz : Bool) (a b : Nat) : FRes :=
  let y := unpack F ftz b
  faddV F md ftz (unpack F ftz a) (if sub then y.negate else y)
/-- a × b. -/
def mulF (F : FFmt) (md : RMode) (ftz : Bool) (a b : Nat) : FRes := fmulV F md ftz (unpack F ftz a) (unpack F ftz b)
/-- a × b + c with one rounding. -/
def fmaF (F : FFmt) (md : RMode) (ftz : Bool) (a b c : Nat) : FRes :=
  ffmaV F md ftz (unpack F ftz a) (unpack F ftz b) (unpack F ftz c)
/-- a / b. -/
def divF (F : FFmt) (md : RMode) (ftz : Bool) (a b : Nat) : FRes := fdivV F md ftz (unpack F ftz a) (unpack F ftz b)
/-- The square root. -/
def sqrtF (F : FFmt) (md : RMode) (ftz : Bool) (a : Nat) : FRes := fsqrtV F md ftz (unpack F ftz a)

/-- FADD (R139). -/
def execFadd (r : Rnd) (s : State) : Out := f2 (.fadd r) (fun m => addF f32F false (rndMode r m) (fmtFtz m)) s
/-- FSUB. -/
def execFsub (r : Rnd) (s : State) : Out := f2 (.fsub r) (fun m => addF f32F true (rndMode r m) (fmtFtz m)) s
/-- FMUL. -/
def execFmul (r : Rnd) (s : State) : Out := f2 (.fmul r) (fun m => mulF f32F (rndMode r m) (fmtFtz m)) s
/-- FFMA. -/
def execFfma (r : Rnd) (s : State) : Out :=
  laneIns (.ffma r) 3 1 (fun _ f _ ws => match ws with
    | [c, b, a] => outW (fmaF f32F (rndMode r f.fmt) (fmtFtz f.fmt) a.toNat b.toNat c.toNat)
    | _ => ([], 0)) s
/-- FDIV. -/
def execFdiv (la : BitVec 4) (r : Rnd) (s : State) : Out :=
  issue (.fdiv la r) { pops := 2, pushes := 1 } noLimits
    (laneLL la 2 1 fun _ f _ ws => match ws with
      | [b, a] => outW (divF f32F (rndMode r f.fmt) (fmtFtz f.fmt) a.toNat b.toNat)
      | _ => ([], 0)) s
/-- FSQRT. -/
def execFsqrt (la : BitVec 4) (r : Rnd) (s : State) : Out :=
  fLL (.fsqrt la r) la (fun m => sqrtF f32F (rndMode r m) (fmtFtz m)) s
/-- FMIN (R110). -/
def execFmin (s : State) : Out := f2 .fmin (fun m => fminmax f32F false (fmtFtz m)) s
/-- FMAX (R110). -/
def execFmax (s : State) : Out := f2 .fmax (fun m => fminmax f32F true (fmtFtz m)) s

/-- The sign operations, which flush nothing (R107). -/
def signF (F : FFmt) (neg : Bool) (_ : Word) (a : Nat) : FRes := fsign F neg a

/-- FABS (R139). -/
def execFabs (s : State) : Out := f1 .fabs (signF f32F false) s
/-- FNEG (R139). -/
def execFneg (s : State) : Out := f1 .fneg (signF f32F true) s
/-- FRCP (R112). -/
def execFrcp (la : BitVec 4) (s : State) : Out := fLL (.frcp la) la (fun m => frcp (fmtFtz m)) s
/-- FRSQ. -/
def execFrsq (la : BitVec 4) (s : State) : Out := fLL (.frsq la) la (fun m => frsq (fmtFtz m)) s
/-- FEXP2. -/
def execFexp2 (la : BitVec 4) (s : State) : Out := fLL (.fexp2 la) la (fun m => fexp2 (fmtFtz m)) s
/-- FLOG2. -/
def execFlog2 (la : BitVec 4) (s : State) : Out := fLL (.flog2 la) la (fun m => flog2 (fmtFtz m)) s
/-- FSIN. -/
def execFsin (la : BitVec 4) (s : State) : Out := fLL (.fsin la) la (fun m => fsin (fmtFtz m)) s
/-- FCOS. -/
def execFcos (la : BitVec 4) (s : State) : Out := fLL (.fcos la) la (fun m => fcos (fmtFtz m)) s
/-- FTANH. -/
def execFtanh (la : BitVec 4) (s : State) : Out := fLL (.ftanh la) la (fun m => ftanh (fmtFtz m)) s
/-- FRND (R140). -/
def execFrnd (r : Rnd) (s : State) : Out := f1 (.frnd r) (fun m => frnd f32F (rndMode r m) (fmtFtz m)) s

/-- DADD (R139). -/
def execDadd (r : Rnd) (s : State) : Out := d2 (.dadd r) (fun m => addF f64F false (rndMode r m) (fmtFtz m)) s
/-- DSUB. -/
def execDsub (r : Rnd) (s : State) : Out := d2 (.dsub r) (fun m => addF f64F true (rndMode r m) (fmtFtz m)) s
/-- DMUL. -/
def execDmul (r : Rnd) (s : State) : Out := d2 (.dmul r) (fun m => mulF f64F (rndMode r m) (fmtFtz m)) s
/-- DFMA. -/
def execDfma (r : Rnd) (s : State) : Out :=
  laneIns (.dfma r) 6 2 (fun _ f _ ws => match ws with
    | [chi, clo, bhi, blo, ahi, alo] =>
      outD (fmaF f64F (rndMode r f.fmt) (fmtFtz f.fmt) (pair alo ahi).toNat (pair blo bhi).toNat (pair clo chi).toNat)
    | _ => ([], 0)) s
/-- DDIV. -/
def execDdiv (la : BitVec 4) (r : Rnd) (s : State) : Out :=
  issue (.ddiv la r) { pops := 4, pushes := 2 } noLimits
    (laneLL la 4 2 fun _ f _ ws => d2of (fun m => divF f64F (rndMode r m) (fmtFtz m)) f ws) s
/-- DSQRT. -/
def execDsqrt (la : BitVec 4) (r : Rnd) (s : State) : Out :=
  issue (.dsqrt la r) { pops := 2, pushes := 2 } noLimits
    (laneLL la 2 2 fun _ f _ ws => match ws with
      | [ahi, alo] => outD (sqrtF f64F (rndMode r f.fmt) (fmtFtz f.fmt) (pair alo ahi).toNat)
      | _ => ([], 0)) s
/-- DMIN (R110). -/
def execDmin (s : State) : Out := d2 .dmin (fun m => fminmax f64F false (fmtFtz m)) s
/-- DMAX (R110). -/
def execDmax (s : State) : Out := d2 .dmax (fun m => fminmax f64F true (fmtFtz m)) s
/-- DABS (R139). -/
def execDabs (s : State) : Out := d1 .dabs (signF f64F false) s
/-- DNEG (R139). -/
def execDneg (s : State) : Out := d1 .dneg (signF f64F true) s

/-- The conditions un and or aside, those of FCMP and DCMP are limited by R53. -/
def fcmpIns (i : Instr) (cc : Cc) (p : Nat) (g : Frag → List Word → List Word × Flags) (s : State) : Out :=
  issue i { pops := p, pushes := 1 } (fun _ => need cc.fcmpOk (.illop 4))
    (onTeam (laneOp p 1 fun _ f _ ws => g f ws)) s

/-- FCMP (R111, R138). -/
def execFcmp (cc : Cc) (s : State) : Out :=
  fcmpIns (.fcmp cc) cc 2 (fun f ws => match ws with
    | [b, a] => let (r, fl) := fcmp f32F (fmtFtz f.fmt) cc a.toNat b.toNat; ([boolWord r], fl)
    | _ => ([], 0)) s
/-- DCMP (R111, R138). -/
def execDcmp (cc : Cc) (s : State) : Out :=
  fcmpIns (.dcmp cc) cc 4 (fun f ws => match ws with
    | [bhi, blo, ahi, alo] =>
      let (r, fl) := fcmp f64F (fmtFtz f.fmt) cc (pair alo ahi).toNat (pair blo bhi).toNat
      ([boolWord r], fl)
    | _ => ([], 0)) s

/-- The two elements of a packed entry, computed separately and packed (R104, R141). -/
def packed (g : Nat → FRes) : Word × Flags :=
  let x := g 0
  let y := g 1
  (BitVec.ofNat 32 (y.bits * 65536 + x.bits), x.fl ||| y.fl)
/-- Element j of a packed entry. -/
def elem16 (w : Word) (j : Nat) : Nat := w.toNat / 65536 ^ j % 65536

/-- A packed ( a b — r ). -/
def h2 (i : Instr) (g : FFmt → Word → Nat → Nat → FRes) (s : State) : Out :=
  laneIns i 2 1 (fun _ f _ ws => match ws with
    | [b, a] => let (w, fl) := packed fun j => g (packF f.fmt) f.fmt (elem16 a j) (elem16 b j); ([w], fl)
    | _ => ([], 0)) s

/-- HADD2 (R141). -/
def execHadd2 (r : Rnd) (s : State) : Out := h2 (.hadd2 r) (fun F m => addF F false (rndMode r m) (fmtFtz m)) s
/-- HMUL2. -/
def execHmul2 (r : Rnd) (s : State) : Out := h2 (.hmul2 r) (fun F m => mulF F (rndMode r m) (fmtFtz m)) s
/-- HFMA2. -/
def execHfma2 (r : Rnd) (s : State) : Out :=
  laneIns (.hfma2 r) 3 1 (fun _ f _ ws => match ws with
    | [c, b, a] =>
      let (w, fl) := packed fun j =>
        fmaF (packF f.fmt) (rndMode r f.fmt) (fmtFtz f.fmt) (elem16 a j) (elem16 b j) (elem16 c j)
      ([w], fl)
    | _ => ([], 0)) s
/-- HMAX2. -/
def execHmax2 (s : State) : Out := h2 .hmax2 (fun F m => fminmax F true (fmtFtz m)) s
/-- PACK2 (R143). -/
def execPack2 (r : Rnd) (s : State) : Out :=
  laneIns (.pack2 r) 2 1 (fun _ f _ ws => match ws with
    | [x1, x0] =>
      let (w, fl) := packed fun j =>
        fcvt f32F (packF f.fmt) (rndMode r f.fmt) (fmtFtz f.fmt) (if j = 0 then x0 else x1).toNat
      ([w], fl)
    | _ => ([], 0)) s
/-- UNPK2 (R143): exact. -/
def execUnpk2 (s : State) : Out :=
  laneIns .unpk2 1 2 (fun _ f _ ws => match ws with
    | [p] =>
      let x := fcvt (packF f.fmt) f32F .rn (fmtFtz f.fmt) (elem16 p 0)
      let y := fcvt (packF f.fmt) f32F .rn (fmtFtz f.fmt) (elem16 p 1)
      ([BitVec.ofNat 32 y.bits, BitVec.ofNat 32 x.bits], x.fl ||| y.fl)
    | _ => ([], 0)) s

/-- The format of a floating-point type of CVT (R54). -/
def cvtF (t : CvtTy) : FFmt :=
  match t with
  | .f64 => f64F
  | .f16 => f16F
  | .bf16 => bf16F
  | _ => f32F
/-- Width and signedness of an integer type of CVT (R54). -/
def cvtI (t : CvtTy) : Bool × Nat :=
  match t with
  | .i32 => (true, 32)
  | .n32 => (false, 32)
  | .i64 => (true, 64)
  | .n64 => (false, 64)
  | .i16 => (true, 16)
  | .n16 => (false, 16)
  | .i8 => (true, 8)
  | .n8 => (false, 8)
  | _ => (true, 32)

/-- An integer read as its own type from the low bits of a source (R142). -/
def readInt (t : CvtTy) (x : Nat) : Int :=
  let (sg, w) := cvtI t
  if sg then sxt w (x % 2 ^ w) else ((x % 2 ^ w : Nat) : Int)

/-- One conversion: the source's bits, the rounding, saturation and FTZ give the result's bits in 64 and the flags
(R113, R114, R142). A narrow integer result is extended by its type. -/
def cvtOne (src dst : CvtTy) (md : RMode) (sat ftz : Bool) (x : Nat) : DWord × Flags :=
  let intOut := fun (v : Int) => let (sg, w) := cvtI dst; if sg then dw (sxt w (BitVec.ofInt w v).toNat) else dw ((BitVec.ofInt w v).toNat : Int)
  if src.isFloat then
    let F := cvtF src
    let b := x % 2 ^ F.width
    if dst.isFloat then
      let r := fcvt F (cvtF dst) md ftz b
      (BitVec.ofNat 64 r.bits, r.fl)
    else
      let (sg, w) := cvtI dst
      let (v, fl) := ftoi md sat sg w (unpack F ftz b)
      (intOut v, fl)
  else
    let v := readInt src x
    if dst.isFloat then
      let r := icvt (cvtF dst) md ftz v
      (BitVec.ofNat 64 r.bits, r.fl)
    else
      let (sg, w) := cvtI dst
      (intOut (if sat then (if sg then clampS w v else clampU w v) else v), 0)

/-- CVT (R54, R142). -/
def execCvt (src dst : CvtTy) (r : Rnd) (sat : Bool) (s : State) : Out :=
  let p := if src.is64 then 2 else 1
  let q := if dst.is64 then 2 else 1
  issue (.cvt src dst r sat) { pops := p, pushes := q }
    (fun _ => need (src != dst && !(sat && dst.isFloat)) (.illop 4))
    (onTeam (laneOp p q fun _ f _ ws =>
      let x := match ws with
        | [hi, lo] => (pair lo hi).toNat
        | [a] => a.toNat
        | _ => 0
      let (v, fl) := cvtOne src dst (rndMode r f.fmt) (sat || fmtSat f.fmt) (fmtFtz f.fmt) x
      (if dst.is64 then pairOut v else [lo32 v], fl))) s

end Sys2Proof.Machine
end

