-- ==== Sys2Proof/Machine/Operands.lean ====
section
/-! DEFINITION. Operand forms: lane addresses and their spaces, scratchpad addresses, memory operands as stack entries, the
translation of a pass and its waiters (R97, R199, R212 to R218, R302, R303, R354). -/

namespace Sys2Proof.Machine

/-- One lane's access: the lane and its address. -/
abbrev LaneAddr := Nat × DWord

/-- The address of layouts M and A (R213): the popped offset is TOS. -/
def laneEA (t : Team) (sa : SReg) (scale : BitVec 2) (c : BitVec 32) (l : Nat) : DWord :=
  getS t sa + c.signExtend 64 + (t.opd l 0).signExtend 64 <<< scale.toNat

/-- The address of LDA and STA (R217): the popped pair is on top. -/
def laneEAPair (t : Team) (c : BitVec 32) (l : Nat) : DWord := t.opd2 l 0 + c.signExtend 64

/-- Whether an address is global (R212). -/
def globalOk (va : DWord) : Bool := fld va 56 8 == 0

/-- Whether an address lies in the scratchpad window (R212). -/
def windowOk (va : DWord) : Bool := fld va 32 32 == 0xFF000000

/-- Whether an address is a multiple of n. -/
def alignedTo (va : DWord) (n : Nat) : Bool := va.toNat % n == 0

/-- A check made on a list in order: the first failure stands. -/
def checkEach {α : Type} (g : α → Run Unit) : List α → Run Unit
  | [] => .ok ()
  | x :: r => do g x; checkEach g r

/-- The checks of a global address: PERM, then ALIGN (R212, R214). -/
def checkGlobal (n : Nat) (va : DWord) : Run Unit := do
  need (globalOk va) (.fault 0x11 0 (some va))
  need (alignedTo va n) (.fault 0x14 0 (some va))

/-- Whether a lane is a helper (R166). -/
def Team.isHelper (t : Team) (l : Nat) : Bool := t.helpers.getLsbD l

/-- The lanes that make accesses: active, and primaries in a protected team (R97). -/
def Team.accessors (t : Team) (f : Frag) : List Nat := t.primaries (t.activeLanes f)

/-- Those of them that are not helpers. -/
def Team.doers (t : Team) (f : Frag) : List Nat := (t.accessors f).filter fun l => !t.isHelper l

/-- In a protected team each pair's operands agree, or SDC_DETECT is raised before the access (R97, R242). -/
def checkPairs {α : Type} [DecidableEq α] (t : Team) (g : Nat → α) (lanes : List Nat) : Run Unit :=
  if t.isProtected then checkEach (fun l => need (decide (g l = g (l + 1))) (.s 0x20 0)) lanes else .ok ()

/-- The core and offset of a scratchpad address as a core's context reaches it (R199); none where it raises PERM. -/
def spOf (s : State) (core : Nat) (tag : Tag) (a : Nat) : Option (Nat × Nat) :=
  let q := a / 2 ^ 22 % 4
  let rmt := a / 2 ^ 24 % 2
  let off := a % 2 ^ 22
  if a / 2 ^ 25 ≠ 0 ∨ (rmt = 0 ∧ q ≠ 0) then none
  else
    let core := if rmt = 0 then core else core / 4 * 4 + q
    let c := getCore s core
    if c.tenancy.isSome ∧ c.cowner.setWidth 12 = tag ∧ off < partScr c.cpart * 65536 then some (core, off) else none

/-- The same for a team. -/
def spTarget (s : State) (t : Team) (a : Nat) : Option (Nat × Nat) := spOf s t.core t.tag a

/-- The checks of a scratchpad word's address, as LDS and STS form it (R199, R220). -/
def checkSp (s : State) (t : Team) (n : Nat) (va : DWord) : Run (Nat × Nat) := do
  match (if fld va 32 32 = 0 then spTarget s t va.toNat else none) with
  | none => .error (.fault 0x11 0 (some va))
  | some (core, off) => do
    need (decide (off % n = 0)) (.fault 0x14 0 (some va))
    .ok (core, off)

/-- The key of a scratchpad byte in a region's buffer. -/
def spKey (core off : Nat) : Nat := core * 65536 * 64 + off

/-- The words that a lane stores, first in memory first: n words with the last k places below TOS (R216 to R218). -/
def laneWords (t : Team) (l k n : Nat) : List Word := (List.range n).map fun j => t.opd l (k + n - 1 - j)

/-- The bytes that a lane stores. -/
def laneBytes (t : Team) (l k n bytes : Nat) : List Byte := ((laneWords t l k n).flatMap fun w => leBytes 4 w.toNat).take bytes

/-- The words of loaded bytes, first in memory first, extended by sign or with zeros (R216). -/
def loadWords (signed : Bool) (b : List Byte) : List Word :=
  if b.length < 4 then
    [if signed then wd (sxt (8 * b.length) (leNat b)) else BitVec.ofNat 32 (leNat b)]
  else (List.range (b.length / 4)).map fun i => BitVec.ofNat 32 (leNat ((b.drop (4 * i)).take 4))

/-- The entries that a load pushes, TOS first, with the poison of the line (R214). -/
def loadEntries (signed : Bool) (b : List Byte) (p : Option Poison) : List Entry :=
  (loadWords signed b).reverse.map fun w => { bits := w, poison := p }

/-- The translations of a list of accesses, in order. -/
def locateAll (s : State) (t : Team) (k : AccKind) (l : List LaneAddr) : State × List Fx :=
  l.foldl (fun x a =>
    let (s, fx) := locate x.1 t a.2 k
    (s, x.2 ++ [fx])) (s, [])

/-- An access to a frame that is being zeroed parks, and starts the zeroing (R354). -/
def gateZero (fx : List Fx) : Run Unit :=
  match fx.findSome? fun x => match x with
    | .zero f g => some (f, g)
    | _ => none with
  | some (f, g) => .error (.park (.zeroing f) fun s => startZero s f g)
  | none => .ok ()

/-- The bytes that a lane's access of memory reads. -/
def Acc.bytes : Acc → Nat
  | .load _ _ n _ _ => n
  | .sld .. => 8
  | .atom _ _ op _ _ _ _ => if op = .dadd then 8 else 4
  | _ => 0

/-- The bytes of the open region's buffer that a load is to find over those of memory (R177); an atomic finds none. -/
def Acc.held (t : Team) (a : Acc) : List (Option Byte) := match a with
  | .load .. | .sld .. => bufBytes t a.va.toNat a.bytes
  | _ => []

/-- The faulted lanes of one pass on one page (R302); va is the first address that faulted. -/
structure Missed where
  word : Nat
  va : DWord
  die : Nat
  tag : Tag
  page : Nat
  level : Nat
  accs : List Acc
  deriving DecidableEq, Repr

/-- A faulted lane put with those of its pass and page. -/
def addMissed : List Missed → Missed → List Missed
  | [], m => [m]
  | x :: r, m => if x.word = m.word ∧ vpage x.va = vpage m.va then { x with accs := x.accs ++ m.accs } :: r else x :: addMissed r m

/-- The faulted lanes of an instruction grouped by pass and page. -/
def groupMissed (fx : List (LaneAddr × Fx)) (acc : LaneAddr → Acc) : List Missed :=
  fx.foldl (fun l x => match x.2 with
    | .miss die tag page level =>
      addMissed l { word := x.1.1 / 32, va := x.1.2, die, tag, page, level, accs := [acc x.1] }
    | _ => l) []

/-- The accesses of an instruction's lanes that go to another package, with the package (R434, R437). -/
def groupSent (fx : List (LaneAddr × Fx)) (acc : LaneAddr → Acc) : List (LaneAddr × Nat × Acc) :=
  fx.filterMap fun x => match x.2 with
    | .at (.remote pkg _) => some (x.1, pkg, acc x.1)
    | _ => none

/-- Those requests sent. -/
def sendAll (s : State) (t : Team) (f : Frag) (l : List (LaneAddr × Nat × Acc)) : State :=
  l.foldl (fun s x => podSend s t.uid f.num x.2.1 x.1.2 (laneBit x.1.1) (.acc x.2.2 (x.2.2.held t)) f.pc) s

/-- A team whose pages with waiters would exceed 16 parks until one leaves the set (R303). -/
def gatePages (t : Team) (pages : List Nat) : Run Unit :=
  let more := pages.foldl (fun l p => if l.contains p then l else l ++ [p]) (t.pages.map (·.1))
  match pages.find? fun p => !(t.pages.any fun q => q.1 == p) with
  | some p => if t.pages ≠ [] ∧ 16 < more.length then parkOn (.pageSet p) else .ok ()
  | none => .ok ()

/-- The waiters of an instruction's faulted lanes enter the fault buffers; the instruction parks when one finds no room (R302). Lanes on
pages beyond the sixteenth wait until one leaves the set, and the team parks (R303). -/
def putWaiters (s : State) (t : Team) (f : Frag) (access : Nat) (l : List Missed) : Run State :=
  l.foldlM (fun s m =>
    let w : Waiter := { team := t.uid, frag := f.num, launch := t.launch, pc := f.pc, access, kind := .pass m.accs }
    if !(((teamOf s t.uid).map fun u => u.pageFits (vpage m.va)).getD true) then .ok (modTeam s t.uid fun u => { u with replay := u.replay ++ [w] })
    else match addWaiter s m.die m.tag m.page m.level w with
    | some s => .ok (modTeam (noteMiss s t.uid m.va) t.uid fun u => notePage u (vpage m.va))
    | none => parkOn (.faultFull m.die)) s

/-- The instruction is issued again when the walker has replayed this page: it parks, with a waiter on the page (R235, R302). -/
def reissueOn (t : Team) (f : Frag) (access : Nat) (va : DWord) (die : Nat) (tag : Tag) (page level : Nat) (s : State) : Run Unit := do
  gatePages t [vpage va]
  let w : Waiter := { team := t.uid, frag := f.num, launch := t.launch, pc := f.pc, access, kind := .reissue }
  match addWaiter s die tag page level w with
  | none => parkOn (.faultFull die)
  | some s' =>
    let n := ((fbFind (getDie s' die) tag page).map (·.idx)).getD 0
    .error (.park (.fault die n) fun s => match addWaiter s die tag page level w with
      | some s => modTeam (noteMiss s t.uid va) t.uid fun u => notePage u (vpage va)
      | none => s)

/-- The faults that lanes meet at translation (R305): one for each code and INFO, with its lanes. -/
def laneFaults (fx : List (LaneAddr × Fx)) : List (Nat × Nat × DWord × Mask) :=
  fx.foldl (fun l x =>
    let put := fun (code info : Nat) =>
      if l.any fun y => y.1 == code && y.2.1 == info then
        l.map fun y => if y.1 = code ∧ y.2.1 = info then (y.1, y.2.1, y.2.2.1, y.2.2.2 ||| laneBit x.1.1) else y
      else l ++ [(code, info, x.1.2, laneBit x.1.1)]
    match x.2 with
    | .perm i => put 0x11 i
    | .tail => put 0x12 0
    | _ => l) []

/-- Those faults posted: the context stops after the instruction (R186, R305). -/
def postLaneFaults (s : State) (uid : Nat) (pc : DWord) (l : List (Nat × Nat × DWord × Mask)) : State :=
  l.foldl (fun s x => classS s uid x.1 0 x.2.1 pc x.2.2.2 (some x.2.2.1)) s

end Sys2Proof.Machine
end

