-- ==== Sys2Proof/Machine/MemOps.lean ====
section
/-! DEFINITION. Global and scratchpad loads and stores, SLD and SST, and the full/empty waits (R97, R158, R159, R176, R177, R200,
R212 to R222, R445). -/

namespace Sys2Proof.Machine

/-- Whether a region's buffer holds all of these bytes. -/
def bufCovers (t : Team) (scratch : Bool) (addr n : Nat) : Bool :=
  match t.region with
  | none => false
  | some r => match r.buffer.find? fun b => b.scratch == scratch && b.line == addr / 64 with
    | none => false
    | some b => (b.mask &&& lineMask (addr % 64) n) == lineMask (addr % 64) n

/-- A load of one lane performed: the bytes, the open region's over those of memory, and the poison (R214, R219). -/
def loadAt (s : State) (t : Team) (l : Loc) (va : DWord) (n : Nat) : State × List Byte × Option Poison :=
  let (s, b, p) := readLoc s t l n
  (s, overlay t false va.toNat b, if bufCovers t false va.toNat n then none else p)

/-- The bytes at an address that a closed region of a team has published and that wait for replay: the newest of each, where there is one
(R175, R322). -/
def publishedAt (s : State) (uid a n : Nat) : List (Option Byte) :=
  (List.range n).map fun i => (waitingAccs s uid).foldl (fun (x : Option Byte) c => match c with
    | .store _ va b _ .published => if va.toNat ≤ a + i then (b[a + i - va.toNat]?).or x else x
    | _ => x) none

/-- A load performed at its replay, or one that reads a row: what the team's closed regions have published is laid over memory, since the
load's place among the team's accesses is behind their stores (R322), and the open region's bytes over both (R177). -/
def loadPast (s : State) (t : Team) (l : Loc) (va : DWord) (n : Nat) : State × List Byte × Option Poison :=
  let own := List.zipWith (fun (a b : Option Byte) => a.or b) (bufBytes t va.toNat n) (publishedAt s t.uid va.toNat n)
  let (s, b, p) := readLoc s t l n
  (s, mapIdxFrom (fun i x => (((own[i]?).bind id).getD x : Byte)) 0 b, if own.all (·.isSome) then none else p)

/-- Free entries: the value of a lane that met PERM or TAIL, which the spec does not give. -/
def freeEntries' (s : State) (n : Nat) : State × List Entry :=
  foldNat (fun x _ => let (v, s) := takeFree x.1; (s, x.2 ++ [Entry.clean (v.setWidth 32)])) (s, []) n

/-- The loads of an instruction's lanes that this package performs, in order: entries by lane (R214, R215). -/
def performLoads (s : State) (t : Team) (bytes q : Nat) (signed : Bool) (l : List (LaneAddr × Fx)) : State × List (Nat × List Entry) :=
  l.foldl (fun x a =>
    match a.2 with
    | .at (.remote ..) => x
    | .at loc =>
      let (s, b, p) := loadAt x.1 t loc a.1.2 bytes
      (s, x.2 ++ [(a.1.1, loadEntries signed b p)])
    | .perm _ | .tail =>
      if t.isHelper a.1.1 then x
      else
        let (s, es) := freeEntries' x.1 q
        (s, x.2 ++ [(a.1.1, es)])
    | _ => x) (s, [])

/-- What lane i receives: in a protected team both lanes of a pair what the primary loaded (R97). -/
def laneResult (t : Team) (q : Nat) (vals : List (Nat × List Entry)) (i : Nat) : List Entry :=
  let k := if t.isProtected then i / 2 * 2 else i
  ((vals.find? fun v => v.1 == k).map (·.2)).getD (List.replicate q Entry.zero)

/-- The pages of the accesses that faulted, helpers apart (R303). -/
def missPages (fx : List (LaneAddr × Fx)) : List Nat :=
  fx.filterMap fun x => match x.2 with
    | .miss .. => some (vpage x.1.2)
    | _ => none

/-- LD, LDA and LDV (R214 to R219). -/
def loadIns (i : Instr) (la : BitVec 4) (p q bytes : Nat) (signed : Bool) (scal : List SReg) (ea : Team → Nat → DWord) (s : State) :
    Out :=
  issue i { pops := p, pushes := q, access := true, scalars := scal } noLimits
    (fun s t f => do
      checkEach (fun l => checkGlobal bytes (ea t l)) (t.doers f)
      let addrs := ((t.accessors f).filter fun l => globalOk (ea t l) && alignedTo (ea t l) bytes).map fun l => (l, ea t l)
      let (s, fx) := locateAll s t .read addrs
      gateZero fx
      let fx := addrs.zip fx
      let live := fx.filter fun x => !t.isHelper x.1.1
      gatePages t (missPages live)
      let (s, vals) := performLoads s t bytes q signed fx
      match teamOf s t.uid with
      | none => .ok s
      | some u =>
        let sb := u.nextSb
        let acc := fun (a : LaneAddr) => Acc.load a.1 a.2 bytes signed sb
        let missed := groupMissed live acc
        let sent := groupSent fx acc
        let (u, _) ← takeSb (u.stackOp f p q fun l _ => laneResult t q vals l) f q la (!missed.isEmpty || !sent.isEmpty)
        let s ← putWaiters (sendAll (setTeam s u) t f sent) t f AccKind.read.bits missed
        .ok (postLaneFaults s t.uid f.pc (laneFaults live))) s

/-- How the stores of an instruction stand to the open region (R176). -/
inductive Plan
  /-- no region is open -/
  | plain
  /-- they are held in its buffer -/
  | held
  /-- they start the 33rd line: it closes, and a new one opens before the instruction -/
  | reopen
  /-- they need more than 32 lines: it closes, they are plain, and a new one opens after the instruction -/
  | around
  deriving DecidableEq, Repr

/-- The plan of an instruction that stores to these lines (R176, R445). -/
def storePlan (t : Team) (lines : List (Bool × Nat)) : Run Plan :=
  match t.region with
  | none => .ok .plain
  | some r =>
    let own := lines.foldl (fun l x => if l.contains x then l else l ++ [x]) []
    let close := fun (p : Plan) => if r.pendingStores ≠ 0 then parkOn .regionReplays else .ok p
    if 32 < own.length then close .around
    else if own ≠ [] ∧ 32 < bufLines r own then close .reopen
    else .ok .held

/-- What a plan does before the stores: t and f are the team and fragment before the instruction, which popped p entries. -/
def planBefore (s : State) (t : Team) (f : Frag) (p : Nat) (pl : Plan) : State × List Found :=
  match pl with
  | .plain | .held => (s, [])
  | .around => closeRegion s t.uid f.pc
  | .reopen =>
    let (s, l) := closeRegion s t.uid f.pc
    let ops := mapIdxFrom (fun i (x : Lane) => if f.member.getLsbD i then x.stack.take p else []) 0 t.lanes
    (modTeam s t.uid fun u => { u with region := some (openRegion t f f.pc ops) }, l)

/-- What a plan does after the stores, the loop step with it: the new region's snapshot is the state after the instruction. -/
def planAfter (s : State) (t : Team) (f : Frag) (len : Nat) (pl : Plan) : State :=
  let s := leave s t.uid f len
  match pl with
  | .around => modTeam s t.uid fun u => match fragOf u f.num with
    | some g => { u with region := some (openRegion u g g.pc []) }
    | none => u
  | _ => s

/-- Bytes put into the open region's buffer. -/
def holdBytes (s : State) (uid : Nat) (scratch : Bool) (addr : Nat) (b : List Byte) : State :=
  modTeam s uid fun u => { u with region := u.region.map fun r => bufWrite r scratch addr b }

/-- Stores that await replay belong to the open region: they take their lines now (R445). -/
def holdMissed (s : State) (uid : Nat) (l : List (LaneAddr × Fx)) : State :=
  l.foldl (fun s x => match x.2 with
    | .miss .. =>
      let s := holdBytes s uid false x.1.2.toNat []
      modTeam s uid fun u => { u with region := u.region.map fun r => { r with pendingStores := r.pendingStores + 1 } }
    | _ => s) s

/-- The stores of an instruction's lanes, in order (R215, R219): into the region's buffer, or performed. -/
def performStores (s : State) (t : Team) (held : Bool) (data : Nat → List Byte) (pc : DWord) (l : List (LaneAddr × Fx)) : State :=
  l.foldl (fun s x => match x.2 with
    | .at loc => if held then holdBytes s t.uid false x.1.2.toNat (data x.1.1) else writeLoc s t loc (data x.1.1) none pc (laneBit x.1.1)
    | _ => s) s

/-- ST, STA and STV (R214 to R219). -/
def storeIns (i : Instr) (p bytes : Nat) (scal : List SReg) (ea : Team → Nat → DWord) (data : Team → Nat → List Byte) (s : State) : Out :=
  issue i { pops := p, access := true, scalars := scal, steps := false } noLimits
    (fun s t f => do
      let lanes := t.doers f
      checkEach (fun l => checkGlobal bytes (ea t l)) lanes
      checkPairs t (fun l => (ea t l, data t l)) lanes
      let addrs := lanes.map fun l => (l, ea t l)
      let (s, fx) := locateAll s t .write addrs
      gateZero fx
      let fx := addrs.zip fx
      gatePages t (missPages fx)
      let stored := fx.filter fun x => match x.2 with
        | .at _ | .miss .. => true
        | _ => false
      let pl ← storePlan t (stored.map fun x => (false, x.1.2.toNat / 64))
      let s := modTeam s t.uid fun u => u.stackOp f p 0 fun _ _ => []
      let (s, found) := planBefore s t f p pl
      let held := pl == .held || pl == .reopen
      let s := performStores s t held (data t) f.pc fx
      let s := if held then holdMissed s t.uid fx else s
      let missed := groupMissed fx fun a => .store (laneBit a.1) a.2 (data t a.1) none (if held then .region else .plain)
      let s ← putWaiters s t f AccKind.write.bits missed
      let s := postLaneFaults s t.uid f.pc (laneFaults fx)
      let s := foundFaults s t.uid f.pc f.active found
      .ok (planAfter s t f (2 * (encode i).length) pl)) s

/-- LD, W form (R216). -/
def execLdW (la : BitVec 4) (w : Width) (scale : BitVec 2) (sa : SReg) (s : State) : Out :=
  loadIns (.ldW la w scale sa) la 1 w.entries w.bytes w.signed [sa] (fun t l => laneEA t sa scale 0 l) s
/-- LD, L form. -/
def execLdL (la : BitVec 4) (w : Width) (scale : BitVec 2) (sa : SReg) (c : BitVec 32) (s : State) : Out :=
  loadIns (.ldL la w scale sa c) la 1 w.entries w.bytes w.signed [sa] (fun t l => laneEA t sa scale c l) s
/-- ST, W form (R216). -/
def execStW (w : Width) (scale : BitVec 2) (sa : SReg) (s : State) : Out :=
  storeIns (.stW w scale sa) (1 + w.entries) w.bytes [sa] (fun t l => laneEA t sa scale 0 l)
    (fun t l => laneBytes t l 1 w.entries w.bytes) s
/-- ST, L form. -/
def execStL (w : Width) (scale : BitVec 2) (sa : SReg) (c : BitVec 32) (s : State) : Out :=
  storeIns (.stL w scale sa c) (1 + w.entries) w.bytes [sa] (fun t l => laneEA t sa scale c l)
    (fun t l => laneBytes t l 1 w.entries w.bytes) s
/-- LDA, W form (R217). -/
def execLdaW (la : BitVec 4) (w : Width) (s : State) : Out :=
  loadIns (.ldaW la w) la 2 w.entries w.bytes w.signed [] (fun t l => laneEAPair t 0 l) s
/-- LDA, L form. -/
def execLdaL (la : BitVec 4) (w : Width) (c : BitVec 32) (s : State) : Out :=
  loadIns (.ldaL la w c) la 2 w.entries w.bytes w.signed [] (fun t l => laneEAPair t c l) s
/-- STA, W form (R217). -/
def execStaW (w : Width) (s : State) : Out :=
  storeIns (.staW w) (2 + w.entries) w.bytes [] (fun t l => laneEAPair t 0 l) (fun t l => laneBytes t l 2 w.entries w.bytes) s
/-- STA, L form. -/
def execStaL (w : Width) (c : BitVec 32) (s : State) : Out :=
  storeIns (.staL w c) (2 + w.entries) w.bytes [] (fun t l => laneEAPair t c l) (fun t l => laneBytes t l 2 w.entries w.bytes) s
/-- LDV, W form (R218). -/
def execLdvW (la : BitVec 4) (scale : BitVec 2) (sa : SReg) (s : State) : Out :=
  loadIns (.ldvW la scale sa) la 1 4 16 false [sa] (fun t l => laneEA t sa scale 0 l) s
/-- LDV, L form. -/
def execLdvL (la : BitVec 4) (scale : BitVec 2) (sa : SReg) (c : BitVec 32) (s : State) : Out :=
  loadIns (.ldvL la scale sa c) la 1 4 16 false [sa] (fun t l => laneEA t sa scale c l) s
/-- STV, W form (R218). -/
def execStvW (scale : BitVec 2) (sa : SReg) (s : State) : Out :=
  storeIns (.stvW scale sa) 5 16 [sa] (fun t l => laneEA t sa scale 0 l) (fun t l => laneBytes t l 1 4 16) s
/-- STV, L form. -/
def execStvL (scale : BitVec 2) (sa : SReg) (c : BitVec 32) (s : State) : Out :=
  storeIns (.stvL scale sa c) 5 16 [sa] (fun t l => laneEA t sa scale c l) (fun t l => laneBytes t l 1 4 16) s

/-- A scratchpad word as a lane reads it: the region's bytes over the bank's, and the row's poison (R211, R222). -/
def spLoad (s : State) (t : Team) (core off : Nat) : Entry :=
  let b := overlay t true (spKey core off) (spRead s core off 4)
  let p := if bufCovers t true (spKey core off) 4 then none else spPoison s core off
  { bits := BitVec.ofNat 32 (leNat b), poison := p }

/-- A granule reads as full for a team: it is full, or the region's buffer holds the word (R222). -/
def fullFor (s : State) (t : Team) (r : SpRead) : Bool :=
  isFull s r.core r.off || bufCovers t true (spKey r.core r.off) 4

/-- TOS of a lane replaced, its shadow's with it (R97). -/
def setTos (t : Team) (lane : Nat) (e : Entry) : Team :=
  t.mapLanes fun i l =>
    if i = lane ∨ (t.isProtected ∧ i = lane + 1) then { l with stack := listSet l.stack 0 e } else l

/-- One pass of LDS.fe or LDS.fec whose granules are all full: it reads, and clears them (R200, R221). -/
def fePass (s : State) (uid : Nat) (fec : Bool) (pass : List SpRead) : State :=
  let s := pass.foldl (fun s r => modTeam s uid fun t => setTos t r.lane (spLoad s t r.core r.off)) s
  if fec then pass.foldl (fun s r => setFull s r.core r.off false) s else s

/-- The passes of an LDS.fe in order: those whose granules are full are made; the rest are left (R200). -/
def fePasses (s : State) (uid : Nat) (fec : Bool) : List (List SpRead) → State × List (List SpRead)
  | [] => (s, [])
  | p :: r =>
    match teamOf s uid with
    | none => (s, [])
    | some t => if p.all (fullFor s t) then fePasses (fePass s uid fec p) uid fec r else (s, p :: r)

/-- A waiter put into a table in the order of parking (R200). -/
def fePut (w : FeWaiter) : List FeWaiter → List FeWaiter
  | [] => [w]
  | x :: r => if w.since < x.since then w :: x :: r else x :: fePut w r

/-- A fragment registers in the waiter table of the core that holds the first granule found empty; a full table of 256
leaves it to retry after 64 pulses (R200). -/
def feRegister (s : State) (uid frag since : Nat) (pass : List SpRead) : State :=
  match teamOf s uid with
  | none => s
  | some t =>
    match pass.find? fun r => !fullFor s t r with
    | none => s
    | some r =>
      let c := getCore s r.core
      if 256 ≤ c.feWaiters.length then
        modTeam s uid fun t => modFrag t frag fun x => { x with wait := match x.wait with
          | some (.fullEmpty fec la pc passes n _) => some (.fullEmpty fec la pc passes n 64)
          | w => w }
      else setCore s r.core { c with feWaiters := fePut { team := uid, frag, gran := r.off / 16, since } c.feWaiters }

/-- A fragment parked on full/empty granules proceeds as far as they are full (R200): when the last pass is made it is READY,
and its result is pending where the scoreboard has room (R195). -/
def feAdvance (s : State) (uid frag : Nat) : State :=
  match (teamOf s uid).bind (fragOf · frag) with
  | none => s
  | some f =>
    match f.wait with
    | some (.fullEmpty fec la pc passes since _) =>
      let (s, rest) := fePasses s uid fec passes
      match rest with
      | [] =>
        modTeam s uid fun t =>
          let t := if 16 ≤ t.sb.length then t
            else
              let e : SbEntry :=
                { id := t.nextSb, frag, targets := [(0, f.member, Target.pos f.depth)], pc, window := la.toNat, waiting := false }
              { t with sb := t.sb ++ [e], nextSb := t.nextSb + 1 }
          modFrag t frag Frag.wake
      | p :: _ =>
        let s := modTeam s uid fun t => modFrag t frag fun x => { x with wait := some (.fullEmpty fec la pc rest since 0) }
        feRegister s uid frag since p
    | _ => s

/-- The granules that n bytes from an offset on touch, by their offsets. -/
def granulesOf (off n : Nat) : List Nat := (List.range ((off % 16 + n + 15) / 16)).map fun i => off / 16 * 16 + 16 * i

/-- A waiter of a core put among others in the order of parking. -/
def parkedAfter (x : Nat × FeWaiter) : List (Nat × FeWaiter) → List (Nat × FeWaiter)
  | [] => [x]
  | y :: r => if x.2.since < y.2.since then x :: y :: r else y :: parkedAfter x r

/-- The waiters of granules, given by core and offset, in the order in which they parked. -/
def feWaiting (s : State) (l : List (Nat × Nat)) : List (Nat × FeWaiter) :=
  ((l.map (·.1)).eraseDups.flatMap fun c => ((getCore s c).feWaiters.filter fun w => l.contains (c, w.gran * 16)).map fun w => (c, w)).foldl
    (fun a x => parkedAfter x a) []

/-- Waiters served in their order, each while its granule is full (R200). -/
def feServe (s : State) : List (Nat × FeWaiter) → State
  | [] => s
  | (core, w) :: r =>
    if isFull s core (w.gran * 16) then
      let c := getCore s core
      feServe (feAdvance (setCore s core { c with feWaiters := c.feWaiters.filter fun x => x != w }) w.team w.frag) r
    else feServe s r

/-- The granules that one access writes are all set full; then their waiters are served (R200). -/
def fillGranules (s : State) (l : List (Nat × Nat)) : State :=
  feServe (l.foldl (fun s g => setFull s g.1 g.2 true) s) (feWaiting s l)

/-- LDS in its three forms (R200, R220 to R222). -/
def ldsIns (i : Instr) (la : BitVec 4) (q : LdsForm) (sa : SReg) (ea : Team → Nat → DWord) (s : State) : Out :=
  issue i { pops := 1, pushes := 1, access := true, scalars := [sa], closed := q == .fec } noLimits
    (fun s t f => do
      let lanes := t.accessors f
      checkEach (fun l => do let _ ← checkSp s t 4 (ea t l); .ok ()) (t.doers f)
      let reads := lanes.filterMap fun l => match checkSp s t 4 (ea t l) with
        | .ok (c, o) => some ({ lane := l, core := c, off := o } : SpRead)
        | .error _ => none
      match teamOf s t.uid with
      | none => .ok s
      | some u =>
        let vals := reads.map fun r => (r.lane, [spLoad s t r.core r.off])
        let u := u.stackOp f 1 1 fun l _ => laneResult t 1 vals l
        let waits := if q = .plain then [] else reads.filter fun r => !t.isHelper r.lane
        let passes := ((passWords t f.member).map fun k => waits.filter fun r => r.lane / 32 = k).filter fun p => !p.isEmpty
        need (decide (u.sb.length < 16)) (.park .sbFull id)
        let (s, rest) := fePasses (setTeam s u) t.uid (q == .fec) passes
        match rest with
        | [] => match teamOf s t.uid with
          | none => .ok s
          | some u => do
            let (u, _) ← takeSb u f 1 la false
            .ok (setTeam s u)
        | p :: _ =>
          let s := modTeam s t.uid fun u => modFrag u f.num fun x =>
            { x with st := .parked, wait := some (.fullEmpty (q == .fec) la f.pc rest s.free 0) }
          .ok (feRegister { s with free := s.free + 1 } t.uid f.num s.free p)) s

/-- STS in its two forms (R200, R220 to R222): a pass is one access, which sets its granules full before any waiter is served. -/
def stsIns (i : Instr) (fe : Bool) (sa : SReg) (ea : Team → Nat → DWord) (s : State) : Out :=
  issue i { pops := 2, access := true, scalars := [sa], closed := fe, steps := false } noLimits
    (fun s t f => do
      let lanes := t.doers f
      checkEach (fun l => do let _ ← checkSp s t 4 (ea t l); .ok ()) lanes
      checkPairs t (fun l => (ea t l, t.opd l 1)) lanes
      let puts := lanes.filterMap fun l => match checkSp s t 4 (ea t l) with
        | .ok (c, o) => some (l, c, o)
        | .error _ => none
      let pl ← storePlan t (puts.map fun x => (true, spKey x.2.1 x.2.2 / 64))
      let s := modTeam s t.uid fun u => u.stackOp f 2 0 fun _ _ => []
      let (s, found) := planBefore s t f 2 pl
      let put := fun (s : State) (x : Nat × Nat × Nat) =>
        let b := leBytes 4 (t.opd x.1 1).toNat
        if pl = .held ∨ pl = .reopen then holdBytes s t.uid true (spKey x.2.1 x.2.2) b else spWrite s x.2.1 x.2.2 b none
      let s := (passWords t f.member).foldl (fun s k =>
        let mine := puts.filter fun x => x.1 / 32 == k
        let s := mine.foldl put s
        if fe then fillGranules s (mine.map fun x => (x.2.1, x.2.2 / 16 * 16)).eraseDups else s) s
      let s := foundFaults s t.uid f.pc f.active found
      .ok (planAfter s t f (2 * (encode i).length) pl)) s

/-- LDS, W form. -/
def execLdsW (la : BitVec 4) (q : LdsForm) (scale : BitVec 2) (sa : SReg) (s : State) : Out :=
  ldsIns (.ldsW la q scale sa) la q sa (fun t l => laneEA t sa scale 0 l) s
/-- LDS, L form. -/
def execLdsL (la : BitVec 4) (q : LdsForm) (scale : BitVec 2) (sa : SReg) (c : BitVec 32) (s : State) : Out :=
  ldsIns (.ldsL la q scale sa c) la q sa (fun t l => laneEA t sa scale c l) s
/-- STS, W form. -/
def execStsW (q : StsForm) (scale : BitVec 2) (sa : SReg) (s : State) : Out :=
  stsIns (.stsW q scale sa) (q == .fe) sa (fun t l => laneEA t sa scale 0 l) s
/-- STS, L form. -/
def execStsL (q : StsForm) (scale : BitVec 2) (sa : SReg) (c : BitVec 32) (s : State) : Out :=
  stsIns (.stsL q scale sa c) (q == .fe) sa (fun t l => laneEA t sa scale c l) s

/-- The address of SLD and SST. -/
def scalarEA (t : Team) (sa : SReg) (c : BitVec 32) : DWord := getS t sa + c.signExtend 64

/-- SLD (R158, R159). Poison has no place in a scalar: the load consumes it (log entry 12). -/
def execSld (sd sa : SReg) (imm : BitVec 32) (s : State) : Out :=
  issue (.sld sd sa imm) { access := true, scalars := [sa, sd] } noLimits
    (fun s t f => do
      let va := scalarEA t sa imm
      checkGlobal 8 va
      let (s, fx) := locate s t va .read
      gateZero [fx]
      let pend := fun (s : State) => modTeam s t.uid fun u => if sd = 0 then u else { u with scalarPend := u.scalarPend ++ [sd.toNat] }
      match fx with
      | .at (.remote ..) => .ok (pend (sendAll s t f (groupSent [((0, va), fx)] fun a => .sld sd.toNat a.2)))
      | .at l =>
        let (s', b, p) := loadAt s t l va 8
        match p with
        | some g => .error (.poison false [g] (fun s => touchLoc s t l) (some va))
        | none => .ok (modTeam s' t.uid fun u => setS u sd (BitVec.ofNat 64 (leNat b)))
      | .miss .. =>
        gatePages t [vpage va]
        let s ← putWaiters s t f AccKind.read.bits (groupMissed [((0, va), fx)] fun a => .sld sd.toNat a.2)
        .ok (pend s)
      | _ => .ok (postLaneFaults s t.uid f.pc (laneFaults [((0, va), fx)]))) s

/-- SST (R158): suppressed without an active lane that is not a helper. -/
def execSst (sb sa : SReg) (imm : BitVec 32) (s : State) : Out :=
  let i : Instr := .sst sb sa imm
  issue i { access := true, scalars := [sa, sb], steps := false } noLimits
    (fun s t f => do
      let len := 2 * (encode i).length
      if !t.acts f then .ok (leave s t.uid f len)
      else
        let va := scalarEA t sa imm
        checkGlobal 8 va
        let data := leBytes 8 (getS t sb).toNat
        let (s, fx) := locate s t va .write
        gateZero [fx]
        let l := [((0, va), fx)]
        gatePages t (missPages l)
        let pl ← storePlan t (match fx with
          | .at _ | .miss .. => [(false, va.toNat / 64)]
          | _ => [])
        let (s, found) := planBefore s t f 0 pl
        let held := pl == .held || pl == .reopen
        let s := performStores s t held (fun _ => data) f.pc l
        let s := if held then holdMissed s t.uid l else s
        let s ← putWaiters s t f AccKind.write.bits (groupMissed l fun a =>
          .store (laneBit a.1) a.2 data none (if held then .region else .plain))
        let s := postLaneFaults s t.uid f.pc (laneFaults l)
        let s := foundFaults s t.uid f.pc f.active found
        .ok (planAfter s t f len pl)) s

end Sys2Proof.Machine
end

