-- ==== Sys2Proof/Machine/Atomics.lean ====
section
/-! DEFINITION. SCATADD and ATOM, and the cache actions of fences (R223 to R227, R436, R438). -/

namespace Sys2Proof.Machine

/-- The cache action of a release at a scope (R227). -/
def fenceRel (s : State) (core : Nat) (sc : Scope) : State := if sc = .core then s else writeBackAll s core

/-- The cache action of an acquire at a scope (R227). -/
def fenceAcq (s : State) (core : Nat) (sc : Scope) : State := if sc = .core then s else invalidateAll s core

/-- A release at pod or sys scope waits for the acknowledgements of the team's pod-window stores (R227); for its atomics every ordering
instruction waits (R324). -/
def fabricWait (s : State) (t : Team) (sc : Scope) : Run Unit :=
  if (sc = .pod ∨ sc = .sys) ∧ (s.fabric.msgs.any fun m => m.isStore t.uid) then parkOn .fabricAck else .ok ()

/-- The new value of an atomic's location from the value found, v and, for cas, the compare value (R224). -/
def atomNew (op : AtomOp) (m v cmp : DWord) : DWord :=
  let a := lo32 m
  let b := lo32 v
  let w := fun (x : Word) => x.setWidth 64
  match op with
  | .add => w (a + b)
  | .sub => w (a - b)
  | .min => w (if a.toInt ≤ b.toInt then a else b)
  | .max => w (if a.toInt ≤ b.toInt then b else a)
  | .minu => w (if a.toNat ≤ b.toNat then a else b)
  | .maxu => w (if a.toNat ≤ b.toNat then b else a)
  | .and => w (a &&& b)
  | .or => w (a ||| b)
  | .xor => w (a ^^^ b)
  | .xchg => w b
  | .cas => w (if a = lo32 cmp then b else a)
  | .fadd => BitVec.ofNat 64 (addF f32F false .rn false a.toNat b.toNat).bits
  | .dadd => BitVec.ofNat 64 (addF f64F false .rn false m.toNat v.toNat).bits
  | .fmax => BitVec.ofNat 64 (fminmax f32F true false a.toNat b.toNat).bits

/-- The bytes of an atomic's location. -/
def atomBytes (op : AtomOp) : Nat := if op = .dadd then 8 else 4

/-- A read-modify-write at a home slice (R225, R293): the value found, or the poison met. -/
def homeRmw (s : State) (pa n : Nat) (tag : Tag) (prot : Nat) (writer : Nat) (g : DWord → DWord) : State × Except Poison DWord :=
  let s := homeTouch s (pa / 64) tag prot true
  match homePoison s (pa / 64) with
  | some p => (s, .error p)
  | none =>
    let m : DWord := BitVec.ofNat 64 (Memory.nat s.mem pa n)
    (homeWrite s pa (leBytes n (g m).toNat) tag prot none [writer] 1, .ok m)

/-- An atomic update of a team at a translated address of this package: this core's own line is written back and invalidated first
(R225). Another package's memory is not updated here: the request is sent to it (R432, R438). -/
def globalRmw (s : State) (t : Team) (l : Loc) (n : Nat) (g : DWord → DWord) : State × Except Poison DWord :=
  match l with
  | .mem pa e => homeRmw (flushLine s t.core (pa / 64)) pa n e.otag e.prot t.uid g
  | .home pa e =>
    match homeRmw (flushLine s t.core (pa / 64)) pa n e.otag e.prot t.uid g with
    | (s, .error _) => (s, .error (fabricPoison t.tag))
    | r => r
  | .remote .. => (s, .ok 0)
  | .reg pa =>
    let m : DWord := BitVec.ofNat 64 (leNat (regBytes s pa n))
    ({ s with regq := s.regq ++ regWrites pa (some t.uid) (leBytes n (g m).toNat) 4 }, .ok m)

/-- An update that meets poison at a home slice: it is consumed, and the read that met it stands (R423, R424). -/
def rmwPoison (t : Team) (l : Loc) (va : DWord) (p : Poison) : Stop :=
  .poison false [p] (fun s => match l with
    | .mem pa e | .home pa e => homeTouch (flushLine s t.core (pa / 64)) (pa / 64) e.otag e.prot true
    | _ => s) (some va)

/-- An atomic update of a scratchpad word at its bank (R225). -/
def bankRmw (s : State) (core off n : Nat) (g : DWord → DWord) : State × Except Poison DWord :=
  match spPoison s core off with
  | some p => (s, .error p)
  | none =>
    let m : DWord := BitVec.ofNat 64 (leNat (spRead s core off n))
    (spWrite s core off (leBytes n (g m).toNat) none, .ok m)

/-- Where an atomic's lane acts: a global address, or a scratchpad word's core and offset. -/
inductive AtomPlace
  | global (va : DWord)
  | bank (core off : Nat)
  deriving DecidableEq, Repr

/-- The checks of an atomic's address: PERM, ALIGN, SCOPE (R212, R214, R225). -/
def checkAtom (s : State) (t : Team) (n : Nat) (sc : Scope) (va : DWord) : Run AtomPlace :=
  if windowOk va then do
    match spTarget s t (va.toNat % 2 ^ 32) with
    | none => .error (.fault 0x11 0 (some va))
    | some (core, off) => do
      need (alignedTo va n) (.fault 0x14 0 (some va))
      need (!(sc == .core && core != t.core)) (.fault 0x13 0 (some va))
      .ok (.bank core off)
  else do
    checkGlobal n va
    need (decide ((if va.getLsbD 55 then 4 else 2) ≤ sc.rank)) (.fault 0x13 0 (some va))
    .ok (.global va)

/-- The entries of an atomic's result, TOS first. -/
def atomEntries (op : AtomOp) (m : DWord) : List Entry :=
  if op = .dadd then [Entry.clean (hi32 m), Entry.clean (lo32 m)] else [Entry.clean (lo32 m)]

/-- The atomics of an instruction's lanes in lane order: each finds what the one before it left (R215). -/
def performAtoms (s : State) (t : Team) (op : AtomOp) (ea v cmp : Nat → DWord) (fx : List (LaneAddr × Fx)) :
    List (Nat × AtomPlace) → List (Nat × List Entry) → Run (State × List (Nat × List Entry))
  | [], acc => .ok (s, acc)
  | (l, .bank core off) :: r, acc =>
    match bankRmw s core off (atomBytes op) fun m => atomNew op m (v l) (cmp l) with
    | (_, .error p) => .error (.poison false [p] id (some (ea l)))
    | (s, .ok m) => performAtoms s t op ea v cmp fx r (acc ++ [(l, atomEntries op m)])
  | (l, .global va) :: r, acc =>
    match ((fx.find? fun x => x.1 == (l, va)).map (·.2) : Option Fx) with
    | some (.at (.remote ..)) | some (.miss ..) => performAtoms s t op ea v cmp fx r acc
    | some (.at loc) =>
      match globalRmw s t loc (atomBytes op) fun m => atomNew op m (v l) (cmp l) with
      | (_, .error p) => .error (rmwPoison t loc va p)
      | (s, .ok m) => performAtoms s t op ea v cmp fx r (acc ++ [(l, atomEntries op m)])
    | _ =>
      let (s, es) := freeEntries' s (atomEntries op 0).length
      performAtoms s t op ea v cmp fx r (acc ++ [(l, es)])

/-- Whether an order qualifier releases or acquires (R226). -/
def ordRels : MemOrder → Bool
  | .rel | .ar => true
  | _ => false

/-- Whether an order qualifier acquires. -/
def ordAcqs : MemOrder → Bool
  | .acq | .ar => true
  | _ => false

/-- ATOM (R214, R215, R224 to R226). One that orders, with lanes that await replay or another package's answer, has not completed: its
fragment parks, and the team's later accesses wait (R324). -/
def atomIns (i : Instr) (la : BitVec 4) (op : AtomOp) (ord : MemOrder) (sc : Scope) (scale : BitVec 2) (sa : SReg) (c : BitVec 32)
    (s : State) : Out :=
  let n := atomBytes op
  let p := if op = .cas ∨ op = .dadd then 3 else 2
  let q := if op = .dadd then 2 else 1
  issue i { pops := p, pushes := q, access := true, scalars := [sa], closed := true,
            ordered := ordRels ord || ordAcqs ord, engines := ordRels ord } noLimits
    (fun s t f => do
      let ea := fun l => laneEA t sa scale c l
      let v := fun l => if op = .dadd then t.opd2 l 1 else (t.opd l 1).setWidth 64
      let cmp := fun l => if op = .cas then (t.opd l 2).setWidth 64 else (0 : DWord)
      let lanes := t.doers f
      checkEach (fun l => do let _ ← checkAtom s t n sc (ea l); .ok ()) lanes
      checkPairs t (fun l => (ea l, v l, cmp l)) lanes
      if ordRels ord then fabricWait s t sc else pure ()
      let places := lanes.filterMap fun l => match checkAtom s t n sc (ea l) with
        | .ok x => some (l, x)
        | .error _ => none
      let s := if ordRels ord then fenceRel s t.core sc else s
      let addrs := places.filterMap fun x => match x.2 with
        | .global va => some (x.1, va)
        | .bank .. => none
      let (s, fx) := locateAll s t .rw addrs
      gateZero fx
      let fx := addrs.zip fx
      gatePages t (missPages fx)
      let (s, vals) ← performAtoms s t op ea v cmp fx places []
      match teamOf s t.uid with
      | none => .ok s
      | some u =>
        let sb := u.nextSb
        let acc := fun (a : LaneAddr) => Acc.atom a.1 a.2 op sc (v a.1) (cmp a.1) sb
        let missed := groupMissed fx acc
        let sent := groupSent fx acc
        let late := !missed.isEmpty || !sent.isEmpty
        let (u, _) ← takeSb (u.stackOp f p q fun l _ => laneResult t q vals l) f q la late
        let s ← putWaiters (sendAll (setTeam s u) t f sent) t f AccKind.rw.bits missed
        let s := postLaneFaults s t.uid f.pc (laneFaults fx)
        if late && (ordRels ord || ordAcqs ord) then
          .ok (modTeam s t.uid fun u => modFrag u f.num fun x =>
            { x with st := .parked, wait := some (.acquire (if ordAcqs ord then sc else .core)) })
        else if ordAcqs ord then .ok (fenceAcq s t.core sc)
        else .ok s) s

/-- ATOM, W form. -/
def execAtomW (la : BitVec 4) (op : AtomOp) (ord : MemOrder) (sc : Scope) (scale : BitVec 2) (sa : SReg) (s : State) : Out :=
  atomIns (.atomW la op ord sc scale sa) la op ord sc scale sa 0 s
/-- ATOM, L form. -/
def execAtomL (la : BitVec 4) (op : AtomOp) (ord : MemOrder) (sc : Scope) (scale : BitVec 2) (sa : SReg) (c : BitVec 32) (s : State) :
    Out :=
  atomIns (.atomL la op ord sc scale sa c) la op ord sc scale sa c s

/-- The bytes of a SCATADD type. -/
def scatBytes (ty : ScatTy) : Nat := if ty = .f64 then 8 else 4

/-- The addition of SCATADD (R223): to nearest even, subnormals honoured, no flag. -/
def scatAdd (ty : ScatTy) (a b : DWord) : DWord :=
  match ty with
  | .i32 => (lo32 a + lo32 b).setWidth 64
  | .f32 => BitVec.ofNat 64 (addF f32F false .rn false (lo32 a).toNat (lo32 b).toNat).bits
  | .f64 => BitVec.ofNat 64 (addF f64F false .rn false a.toNat b.toNat).bits

/-- A lane's value combined with those of its pass's earlier lanes at the same address: (lowest lane, address, sum) (R223). -/
def scatPut (ty : ScatTy) (lane : Nat) (va v : DWord) : List (LaneAddr × DWord) → List (LaneAddr × DWord)
  | [] => [((lane, va), v)]
  | x :: r =>
    if x.1.2 = va ∧ x.1.1 / 32 = lane / 32 then (x.1, scatAdd ty x.2 v) :: r else x :: scatPut ty lane va v r

/-- The updates sent to the home slices, in order. -/
def performScats (s : State) (t : Team) (ty : ScatTy) : List ((LaneAddr × DWord) × Fx) → Run State
  | [] => .ok s
  | (x, .at loc) :: r =>
    match globalRmw s t loc (scatBytes ty) fun m => scatAdd ty m x.2 with
    | (_, .error p) => .error (rmwPoison t loc x.1.2 p)
    | (s, .ok _) => performScats s t ty r
  | _ :: r => performScats s t ty r

/-- The checks of SCATADD's address: PERM, ALIGN, and SCOPE in the pod window (R214, R223, R436). -/
def checkScat (n : Nat) (va : DWord) : Run Unit := do
  checkGlobal n va
  need (!va.getLsbD 55) (.fault 0x13 0 (some va))

/-- SCATADD (R223). -/
def scatIns (i : Instr) (ty : ScatTy) (scale : BitVec 2) (sa : SReg) (c : BitVec 32) (s : State) : Out :=
  let p := if ty = .f64 then 3 else 2
  issue i { pops := p, access := true, scalars := [sa], closed := true } noLimits
    (fun s t f => do
      let ea := fun l => laneEA t sa scale c l
      let v := fun l => if ty = .f64 then t.opd2 l 1 else (t.opd l 1).setWidth 64
      let lanes := t.doers f
      checkEach (fun l => checkScat (scatBytes ty) (ea l)) lanes
      checkPairs t (fun l => (ea l, v l)) lanes
      let puts := lanes.foldl (fun a l => scatPut ty l (ea l) (v l) a) []
      let (s, fx) := locateAll s t .rw (puts.map (·.1))
      gateZero fx
      let fa := (puts.map (·.1)).zip fx
      gatePages t (missPages fa)
      let s ← performScats s t ty (puts.zip fx)
      let s := modTeam s t.uid fun u => u.stackOp f p 0 fun _ _ => []
      let val := fun (a : LaneAddr) => ((puts.find? fun x => x.1 == a).map (·.2)).getD 0
      let s ← putWaiters s t f AccKind.rw.bits (groupMissed fa fun a => .scat a.1 a.2 ty (val a))
      .ok (postLaneFaults s t.uid f.pc (laneFaults fa))) s

/-- SCATADD, W form. -/
def execScataddW (ty : ScatTy) (scale : BitVec 2) (sa : SReg) (s : State) : Out := scatIns (.scataddW ty scale sa) ty scale sa 0 s
/-- SCATADD, L form. -/
def execScataddL (ty : ScatTy) (scale : BitVec 2) (sa : SReg) (c : BitVec 32) (s : State) : Out :=
  scatIns (.scataddL ty scale sa c) ty scale sa c s

end Sys2Proof.Machine
end

