-- ==== Sys2Proof/Machine/Range.lean ====
section
/-! DEFINITION. An instruction's own reads and writes of ranges of global memory: descriptors, rows, packets (R212, R299, R302, R436). -/

namespace Sys2Proof.Machine

/-- A range cut at the lines: addresses and lengths; fuel bounds the lines. -/
def linePieces : Nat → Nat → Nat → List (Nat × Nat)
  | 0, _, _ => []
  | fuel + 1, va, n =>
    if n = 0 then []
    else
      let k := min (64 - va % 64) n
      (va, k) :: linePieces fuel (va + k) (n - k)

/-- A range of global memory of an instruction, cut at the lines. -/
def pieces (va : DWord) (n : Nat) : List (DWord × Nat) :=
  (linePieces (n / 64 + 2) va.toNat n).map fun x => (BitVec.ofNat 64 x.1, x.2)

/-- Bytes dealt out to pieces in order. -/
def cutBytes : List (DWord × Nat) → List Byte → List (DWord × List Byte)
  | [], _ => []
  | (va, n) :: r, b => (va, b.take n) :: cutBytes r (b.drop n)

/-- A translated piece of a range. -/
structure Piece where
  loc : Loc
  va : DWord
  len : Nat
  deriving DecidableEq, Repr

/-- The pieces of a range translated before anything is done: PERM for an address in no global space, INFO 6 in the pod window,
PERM and TAIL precisely; a translation fault parks the fragment for replay, and the instruction is issued again. -/
def locatePieces (t : Team) (f : Frag) (k : AccKind) : State → List (DWord × Nat) → Run (State × List Piece)
  | s, [] => .ok (s, [])
  | s, (va, n) :: r => do
    need (globalOk va) (.fault 0x11 0 (some va))
    need (!va.getLsbD 55) (.fault 0x11 6 (some va))
    match locate s t va k with
    | (s, .at loc) => do
      let (s, l) ← locatePieces t f k s r
      .ok (s, { loc, va, len := n } :: l)
    | (_, .perm i) => .error (.fault 0x11 i (some va))
    | (_, .tail) => .error (.fault 0x12 0 (some va))
    | (_, .zero fr g) => .error (.park (.zeroing fr) fun s => startZero s fr g)
    | (s', .miss die tag page level) => do
      reissueOn t f k.bits va die tag page level s'
      .ok (s, [])

/-- The bytes of translated pieces as the team reads them; poison met is consumed (log entry 12). -/
def readPieces (t : Team) : State → List Piece → Run (State × List Byte)
  | s, [] => .ok (s, [])
  | s, p :: r =>
    match loadAt s t p.loc p.va p.len with
    | (_, _, some g) => .error (.poison false [g] (fun s => touchLoc s t p.loc) (some p.va))
    | (s, b, none) => do
      let (s, bs) ← readPieces t s r
      .ok (s, b ++ bs)

/-- A range read by an instruction of the team. -/
def readRange (s : State) (t : Team) (f : Frag) (va : DWord) (n : Nat) : Run (State × List Byte) := do
  let (s, l) ← locatePieces t f .read s (pieces va n)
  readPieces t s l

/-- Bytes written to translated pieces: into the open region's buffer, or performed. -/
def writePieces (s : State) (t : Team) (held : Bool) (pc : DWord) (l : List Piece) (b : List Byte) : State :=
  (l.foldl (fun (x : State × List Byte) p =>
    let d := x.2.take p.len
    (if held then holdBytes x.1 t.uid false p.va.toNat d else writeLoc x.1 t p.loc d none pc, x.2.drop p.len)) (s, b)).1

end Sys2Proof.Machine
end

