-- ==== Sys2Proof/Machine/Sync.lean ====
section
/-! DEFINITION. Fences, bound objects, watches, barriers and timelines (R227 to R234, R239 to R241, R323, R324). -/

namespace Sys2Proof.Machine

/-- FENCE.rel and FENCE.full at a scope: the waits, then the cache actions (R227). -/
def fenceIns (i : Instr) (rel acq : Bool) (sc : Scope) (s : State) : Out :=
  issue i { ordered := true, engines := true, closed := true } noLimits
    (fun s t _ => do
      if rel then fabricWait s t sc else pure ()
      let s := if rel then fenceRel s t.core sc else s
      .ok (if acq then fenceAcq s t.core sc else s)) s

/-- FENCE.acq. -/
def execFenceAcq (sc : Scope) (s : State) : Out := fenceIns (.fenceAcq sc) false true sc s
/-- FENCE.rel. -/
def execFenceRel (sc : Scope) (s : State) : Out := fenceIns (.fenceRel sc) true false sc s
/-- FENCE.full. -/
def execFenceFull (sc : Scope) (s : State) : Out := fenceIns (.fenceFull sc) true true sc s

/-- The ranges bound to an object of a context (R228). -/
def rangesOf (s : State) (tag : Tag) (obj : DWord) : Option (List DWord) :=
  (s.hub.bindings.find? fun b => b.1 == tag && b.2.1 == obj).map (·.2.2)

/-- The physical pieces of a context's range of 2^k bytes: address and length of each part that is mapped. -/
def rangePieces (s : State) (tag : Tag) (w : DWord) : List (Nat × Nat) :=
  let k := fld w 56 8
  let base := fld w 0 56
  let part := fun (va n : Nat) => match walk s tag va with
    | .leaf e => [(e.pa + (if e.big then va % 2 ^ 30 else va % 2 ^ 21), n)]
    | _ => []
  if k < 21 then part base (2 ^ k)
  else (List.range (2 ^ (k - 21))).flatMap fun i => part (base + i * 2 ^ 21) (2 ^ 21)

/-- The lines of a core's cache that lie in a range bound to an object (R229). -/
def boundLines (s : State) (t : Team) (obj : DWord) : List Nat :=
  let ps := ((rangesOf s t.tag obj).getD []).flatMap (rangePieces s t.tag)
  ((getCore s t.core).cache.filter fun x => ps.any fun p => decide (p.1 ≤ x.line * 64) && decide (x.line * 64 < p.1 + p.2)).map (·.line)

/-- The translated place of a synchronisation object, checked first (R228, R323). -/
def objectAt (s : State) (t : Team) (f : Frag) (k : AccKind) (obj : DWord) : Run (State × Option Loc) := do
  checkGlobal 8 obj
  need (!obj.getLsbD 55) (.fault 0x13 0 (some obj))
  let (s, l) ← locatePieces t f k s [(obj, 8)]
  .ok (s, (l.head?).map (·.loc))

/-- REL (R229, R323). -/
def execRel (sa : SReg) (s : State) : Out :=
  issue (.rel sa) { scalars := [sa], ordered := true, engines := true, closed := true, access := true } noLimits
    (fun s t f => do
      let (s, l) ← objectAt s t f .rw (getS t sa)
      let s := (boundLines s t (getS t sa)).foldl (fun s x => writeBackLine s t.core x) s
      match l with
      | none => .ok s
      | some l => match globalRmw s t l 8 fun m => m + 1 with
        | (_, .error p) => .error (rmwPoison t l (getS t sa) p)
        | (s, .ok _) => .ok s) s

/-- ACQ (R229, R323): this core's line of the object is written back and invalidated, as the lines of the bound ranges are. -/
def execAcq (sa : SReg) (s : State) : Out :=
  issue (.acq sa) { scalars := [sa], ordered := true, access := true } noLimits
    (fun s t f => do
      let (s, l) ← objectAt s t f .read (getS t sa)
      let s := match l with
        | some (.mem pa e) => homeTouch (flushLine s t.core (pa / 64)) (pa / 64) e.otag e.prot true
        | _ => s
      .ok ((boundLines s t (getS t sa)).foldl (fun s x => flushLine s t.core x) s)) s

/-- The checks of BIND's and UNBIND's object (R228, R436). -/
def checkObject (obj : DWord) : Run Unit := do
  checkGlobal 8 obj
  need (!obj.getLsbD 55) (.fault 0x11 6 (some obj))

/-- BIND (R228); a range in the pod window is an operand address that R436 does not name as accepted. -/
def execBind (sa sb : SReg) (s : State) : Out :=
  issue (.bind sa sb) { scalars := [sa, sb], closed := true } noLimits
    (fun s t _ => do
      let obj := getS t sa
      let w := getS t sb
      checkObject obj
      let k := fld w 56 8
      need (decide (6 ≤ k) && decide (k ≤ 40) && decide (fld w 0 56 % 2 ^ k = 0)) (.s 0x15 1)
      need (!w.getLsbD 55) (.fault 0x11 6 (some (w &&& 0x00FFFFFFFFFFFFFF)))
      let mine := s.hub.bindings.filter fun b => b.1 == t.tag
      match rangesOf s t.tag obj with
      | none => do
        need (decide (mine.length < 256)) (.s 0x15 2)
        .ok { s with hub := { s.hub with bindings := s.hub.bindings ++ [(t.tag, obj, [w])] } }
      | some rs =>
        if rs.contains w then .ok s
        else do
          need (decide (rs.length < 8)) (.s 0x15 2)
          .ok { s with hub := { s.hub with bindings := s.hub.bindings.map fun b =>
            if b.1 = t.tag ∧ b.2.1 = obj then (b.1, b.2.1, rs ++ [w]) else b } }) s

/-- UNBIND (R228). -/
def execUnbind (sa : SReg) (s : State) : Out :=
  issue (.unbind sa) { scalars := [sa], closed := true } noLimits
    (fun s t _ => do
      checkObject (getS t sa)
      .ok { s with hub := { s.hub with bindings := s.hub.bindings.filter fun b => !(b.1 == t.tag && b.2.1 == getS t sa) } }) s

/-- The running fragment parks after its instruction has issued. -/
def parkAfter (s : State) (uid n : Nat) (w : Wait) : State :=
  modTeam s uid fun u => modFrag u n fun x => { x with st := .parked, wait := some w }

/-- WAITV (R230). -/
def execWaitv (sa : SReg) (s : State) : Out :=
  issue (.waitv sa) { scalars := [sa], access := true } noLimits
    (fun s t f => do
      let va := getS t sa
      let (s, l) ← locatePieces t f .read s [(va, 1)]
      .ok (match ((l.head?).map (·.loc) : Option Loc) with
        | some (.mem pa _) | some (.home pa _) | some (.reg pa) => parkAfter s t.uid f.num (.watch (pa / 64) 4096 false)
        | _ => s)) s

/-- The core and offset of a barrier word, checked (R199, R232). -/
def barrierAt (s : State) (t : Team) (va : DWord) : Run (Nat × Nat) := do
  let (core, off) ← checkSp s t 8 va
  match spPoison s core off with
  | some p => .error (.poison false [p] id (some va))
  | none => .ok (core, off)

/-- A barrier word: EXPECT, ARRIVED, GEN, and whether its reserved bits are zero (R231). -/
def barrierWord (s : State) (core off : Nat) : Nat × Nat × Nat × Bool :=
  let w := leNat (spRead s core off 8)
  (w % 65536, w / 65536 % 65536, w / 2 ^ 32 % 65536, w / 2 ^ 48 == 0)

/-- The mark of an arrival (R77, R232). -/
def markOf (va : DWord) (gen : Nat) : Mark := { addr := va.setWidth 25, gen := BitVec.ofNat 16 gen }

/-- An arrival at a barrier word (R232): the word, and the fragment's mark. -/
def barArrive (s : State) (t : Team) (f : Frag) (va : DWord) (core off : Nat) : Run State := do
  let (expect, arrived, gen, ok) := barrierWord s core off
  need (expect != 0 && ok) (.s 0x15 3)
  let full := decide (arrived + 1 = expect)
  let w := expect + (if full then 0 else (arrived + 1) % 65536) * 65536 + (if full then (gen + 1) % 65536 else gen) * 2 ^ 32
  let s := spWrite (fenceRel s t.core (if core = t.core then .core else .quad)) core off (leBytes 8 w) none
  .ok (modTeam s t.uid fun u => modFrag u f.num fun x => { x with mark := some (markOf va gen) })

/-- The wait at a barrier word (R232): the fragment parks while GEN is that of its own arrival; otherwise the mark is cleared
and the wait's end acquires. -/
def barWait (s : State) (t : Team) (f : Frag) (va : DWord) (core off : Nat) : State :=
  let mark := ((teamOf s t.uid).bind (fragOf · f.num)).bind (·.mark)
  let gen := (barrierWord s core off).2.2.1
  if mark = some (markOf va gen) then parkAfter s t.uid f.num (.barrier core off (BitVec.ofNat 16 gen) (core != t.core))
  else
    fenceAcq (modTeam s t.uid fun u => modFrag u f.num fun x => { x with mark := none }) t.core
      (if core = t.core then .core else .quad)

/-- The BAR instructions. -/
def barIns (i : Instr) (sa : SReg) (arrives waits : Bool) (s : State) : Out :=
  issue i { scalars := [sa], ordered := true, engines := arrives, closed := true } noLimits
    (fun s t f => do
      let va := getS t sa
      let (core, off) ← barrierAt s t va
      let s ← if arrives then barArrive s t f va core off else .ok s
      .ok (if waits then barWait s t f va core off else s)) s

/-- BAR.arrive. -/
def execBarArrive (sa : SReg) (s : State) : Out := barIns (.barArrive sa) sa true false s
/-- BAR.wait. -/
def execBarWait (sa : SReg) (s : State) : Out := barIns (.barWait sa) sa false true s
/-- BAR.sync. -/
def execBarSync (sa : SReg) (s : State) : Out := barIns (.barSync sa) sa true true s

/-- An arrival at a named barrier (R233, R234): it releases at the level's scope, joins the channel or takes one, and parks until
the generation releases; with every channel held by others the fragment parks before it. -/
def nbarIns (i : Instr) (level id : Nat) (s : State) : Out :=
  issue i { ordered := true, engines := true, closed := true } noLimits
    (fun s t f => do
      need t.isCoresident (.s 0x19 0)
      let unit := unitOf t level
      let chans := chansOf s level unit
      let held := chans.any fun c => c.launch == t.launch && c.id == id
      need (held || decide (chans.length < 16)) (.park (.channel level unit id) fun s => s)
      let s := writeBackAll s t.core
      let chans := if held then chans.map fun c =>
          if c.launch = t.launch ∧ c.id = id then { c with arrived := c.arrived + 1 } else c
        else chans ++ [{ launch := t.launch, id, arrived := 1, expect := membersIn s t.launch level unit }]
      let s := setChans s level unit chans
      let s := parkAfter s t.uid f.num (.nbar level unit id (genOf s level unit t.launch id))
      .ok (releaseChan s level unit t.launch id)) s

/-- NBAR.quad. -/
def execNbarQuad (id : BitVec 4) (s : State) : Out := nbarIns (.nbarQuad id) 0 id.toNat s
/-- NBAR.die. -/
def execNbarDie (id : BitVec 4) (s : State) : Out := nbarIns (.nbarDie id) 1 id.toNat s
/-- NBAR.pkg. -/
def execNbarPkg (id : BitVec 4) (s : State) : Out := nbarIns (.nbarPkg id) 2 id.toNat s
/-- GBAR: the package network under id 16 (R234). -/
def execGbar (s : State) : Out := nbarIns .gbar 2 16 s

/-- The check of a counter's owner (R239). -/
def checkCounter (s : State) (t : Team) (id : DWord) : Run Unit :=
  need (counterOwner s id.toNat == some t.tag) (.s 0x1B 1)

/-- TLWAIT (R241). -/
def execTlwait (sa sb : SReg) (s : State) : Out :=
  issue (.tlwait sa sb) { scalars := [sa, sb], ordered := true } noLimits
    (fun s t f => do
      let id := getS t sa
      checkCounter s t id
      if (getS t sb).toNat ≤ (counter s id.toNat).toNat then .ok (fenceAcq s t.core .pkg)
      else .ok (parkAfter s t.uid f.num (.timeline id.toNat (getS t sb)))) s

/-- TLREAD (R241). -/
def execTlread (sd sa : SReg) (s : State) : Out :=
  issue (.tlread sd sa) { scalars := [sd, sa] } noLimits
    (fun s t _ => do
      checkCounter s t (getS t sa)
      .ok (modTeam s t.uid fun u => setS u sd (counter s (getS t sa).toNat))) s

/-- TLSIG (R241). -/
def execTlsig (sa sb : SReg) (s : State) : Out :=
  issue (.tlsig sa sb) { scalars := [sa, sb], ordered := true, engines := true, closed := true } noLimits
    (fun s t _ => do
      let id := getS t sa
      need (decide (4096 ≤ id.toNat) && decide (id.toNat < 8192)) (.s 0x1B 1)
      checkCounter s t id
      .ok (raiseTimeline (fenceRel s t.core .pkg) id.toNat (getS t sb))) s

end Sys2Proof.Machine
end

