-- ==== Sys2Proof/Machine/Activity.lean ====
section
/-! DEFINITION. Long activities: handles, steps, the reverse walk, CRET, the activity registers, XPROBE (R312, R369 to R385). -/

namespace Sys2Proof.Machine

/-- The handle of an activity (R369). -/
def Activity.handle (a : Activity) : DWord := BitVec.ofNat 64 (a.tag.toNat * 2 ^ 20 + a.gen * 2 ^ 8 + a.slot)

/-- The activity that a handle names; none where it is in NONE (R371). -/
def actOf (s : State) (h : DWord) : Option Activity :=
  s.hub.acts.find? fun a => a.tag.toNat == fld h 20 12 && a.slot == fld h 0 8 && a.gen == fld h 8 12

/-- The state with an activity replaced. -/
def setAct (s : State) (a : Activity) : State :=
  { s with hub := { s.hub with acts := s.hub.acts.map fun b => if b.tag = a.tag ∧ b.slot = a.slot then a else b } }

/-- The activity of a slot of a context. -/
def actAt (s : State) (tag : Tag) (slot : Nat) : Option Activity := s.hub.acts.find? fun a => a.tag == tag && a.slot == slot

/-- The state without an activity: its slot is in NONE (R371). -/
def dropAct (s : State) (a : Activity) : State :=
  { s with hub := { s.hub with acts := s.hub.acts.filter fun b => !(b.tag == a.tag && b.slot == a.slot) } }

/-- A field of a compensation entry (R372): n bytes at an offset. -/
def entryField (s : State) (e : Nat × Nat) (off n : Nat) : Nat := Memory.nat s.mem (entryAddr s e.1 e.2 + off) n

/-- Bytes written into a compensation entry by the hub. -/
def entryPut (s : State) (e : Nat × Nat) (off : Nat) (b : List Byte) : State :=
  homeWrite s (entryAddr s e.1 e.2 + off) b 0 0 none [] 2

/-- An entry read by the hub: whether it is sound. An uncorrectable error in one terminates the context of its TAG, and calls for a warm
reset where that is 0 or the error is in TAG itself, as a free value says (R351, R373; log entry 12). -/
def entryRead (s : State) (e : Nat × Nat) (tag : Tag) : State × Bool :=
  let line := entryAddr s e.1 e.2 / 64
  let s := homeTouch s line 0 0 true
  match homePoison s line with
  | none => (s, true)
  | some p =>
    let (v, s) := takeFree s
    if tag = 0 ∨ v.getLsbD 0 then (startReset s p.source p.log (tagsOn s fun c => dieOf c == e.1), false)
    else match slotOfTag s tag with
      | some n =>
        let c : TermCause :=
          { cause := 0x21, info := 0, source := p.source, log := p.log, pc := 0, team := 0xFFFFFFFF, whereWord := e.1 * 2 ^ 24,
            launchImage := 0 }
        (terminate s n c, false)
      | none => (s, false)

/-- Entries read by the hub in their order, until one is not sound. -/
def readEntries (s : State) (tag : Tag) : List (Nat × Nat) → State × Bool
  | [] => (s, true)
  | e :: r => match entryRead s e tag with
    | (s, false) => (s, false)
    | (s, true) => readEntries s tag r

/-- Whether entry e of activity a must wait for another activity's later entry with its key (R379). -/
def keyHeld (s : State) (a : Activity) (e : Nat × Nat) : Bool :=
  let key := entryField s e 8 8
  key != 0 && s.hub.acts.any fun b => b.tag == a.tag && b.slot != a.slot &&
    (b.chain s).any fun f => entryField s f 8 8 == key && decide (entryField s e 0 8 < entryField s f 0 8)

/-- The hub looks for entry e's key in the chains of the context's other activities (R379); none where it meets an entry that is not
sound. -/
def keyLook (s : State) (a : Activity) (e : Nat × Nat) : State × Option Bool :=
  let others := (s.hub.acts.filter fun b => b.tag == a.tag && b.slot != a.slot).flatMap fun b => b.chain s
  match readEntries s a.tag (e :: if entryField s e 8 8 = 0 then [] else others) with
  | (s, false) => (s, none)
  | (s, true) => (s, some (keyHeld s a e))

/-- The walk stands at the entry that `last` names (R378): it ends, waits for the key, or wants the entry's compensation. -/
def walkOn (s : State) (a : Activity) : State :=
  match a.last with
  | none =>
    let s := match a.timeline with
      | some id => bumpTimeline s id
      | none => s
    dropAct s a
  | some e =>
    match keyLook s a e with
    | (s, none) => s
    | (s, some true) => setAct s { a with st := .walking, keyWait := some 0, running := false }
    | (s, some false) => setAct (entryPut s e 0x26 [2]) { a with st := .walking, keyWait := none, running := true }

/-- The walk reaches an entry: it takes its place among all appends (R382). -/
def walkTo (s : State) (a : Activity) (e : Option (Nat × Nat)) : State :=
  let n := s.hub.nextSeq
  walkOn { s with hub := { s.hub with nextSeq := n + 1 } } { a with last := e, seq := n }

/-- The entry at which a walk stands is freed, and the walk goes on (R378, R380). -/
def walkPast (s : State) (a : Activity) : State :=
  match a.last with
  | none => walkOn s a
  | some e =>
    match entryRead s e a.tag with
    | (s, false) => s
    | (s, true) => walkTo (freeEntry s e.1 e.2) a (entryPrev s e.1 e.2)

/-- A class S fault of a walk (R380): the context stops, and the record gives the handle and the entry's STEP. -/
def postWalkFault (s : State) (a : Activity) (code info : Nat) : State :=
  match readEntries s a.tag a.last.toList with
  | (s, false) => s
  | (s, true) =>
    let step := match a.last with
      | some e => entryField s e 0 8
      | none => 0
    let (s, sec) := stopSlot s a.tag (fatalCode code) true
    let r : FaultRec :=
      { tag := a.tag, trapcode := trapWord code 0 info, pc := a.handle, team := 0, core := 0, bench := 0, lanes := 0, rprog := 0,
        extra := BitVec.ofNat 64 step, secondary := sec, time := s.gtime }
    { s with hub := { s.hub with records := s.hub.records ++ [r] } }

/-- The compensation of an activity's entry has ended with a status, and the INFO of COMP_FAIL (R378, R382). -/
def compDone (s : State) (a : Activity) (c : Word) (info : Nat) : State :=
  match a.last with
  | none => s
  | some e =>
    let s := entryPut s e 0x38 (leBytes 4 c.toNat)
    let a := { a with running := false, cret := c }
    if c = 0 then walkPast s { a with cret := 0 }
    else
      let a := { a with st := .failed }
      postWalkFault (setAct s a) a 0x23 info

/-- A team's CC.F and a scalar result, 0 where the instruction failed (R376). -/
def actResult (s : State) (uid : Nat) (sd : SReg) (r : Option DWord) : State :=
  modTeam s uid fun u => { setS u sd (r.getD 0) with cc := ccF u.cc r.isNone }

/-- The check of a handle (R376). -/
def checkHandle (t : Team) (h : DWord) : Run Unit := need (fld h 20 12 == t.tag.toNat) (.s 0x1B 2)

/-- An activity instruction (R376): its scalars, then what it does for a fragment with an active lane that is no helper. One without
such a lane meets only the checks of R51 and R57. -/
def actIns (i : Instr) (sd : SReg) (regs : List SReg) (body : State → Team → Frag → Run State) (s : State) : Out :=
  issue i { scalars := regs, closed := nowActs s } noLimits
    (fun s t f => if t.acts f then body s t f else .ok (actResult s t.uid sd none)) s

/-- The generation of a slot after its next use: 1 to 4095 (R369). -/
def nextGen (s : State) (tag : Tag) (slot : Nat) : Nat :=
  let g := ((s.hub.actgen.find? fun x => x.1 == tag && x.2.1 == slot).map (·.2.2)).getD 0
  if g < 4095 then g + 1 else 1

/-- The PRIO that an activity takes: QCFG.PRIO of the queue of the team's launch as it is now; a compensation's launch has none of its
own, and keeps its activity's (R376, R382). -/
def launchPrio (s : State) (l : Launch) : Nat :=
  if l.comp.isSome then l.prio else fld (tabGet Queue.reset s.hub.queues l.queue).cfg 28 3

/-- ACT.OPEN (R376). -/
def execActOpen (sd : SReg) (s : State) : Out :=
  actIns (.actOpen sd) sd [sd]
    (fun s t _ =>
      let free := (List.range 256).find? fun n => (actAt s t.tag n).isNone
      .ok (match (if s.hub.actcfg.getLsbD 31 then free else none : Option Nat) with
        | none => actResult s t.uid sd none
        | some slot =>
          let g := nextGen s t.tag slot
          let prio := ((launchOf s t.launch).map (launchPrio s)).getD 0
          let a : Activity :=
            { tag := t.tag, slot, gen := g, st := .opened, last := none, prio, timeline := none, cret := 0, keyWait := none,
              running := false, seq := 0 }
          let s := { s with hub := { s.hub with
            acts := s.hub.acts ++ [a]
            actgen := (t.tag, slot, g) :: s.hub.actgen.filter fun x => !(x.1 == t.tag && x.2.1 == slot) } }
          actResult s t.uid sd (some a.handle))) s

/-- The waits of an instruction that releases at pkg scope within its effect (R254, R324). -/
def releaseWait (s : State) (t : Team) : Run Unit := do
  if t.atomPending || unperformed s t then parkOn .ordering else pure ()
  if hasEngines s t then parkOn .engines else pure ()

/-- An entry's 64 bytes (R372). -/
def entryBytes (n key routine args act : DWord) (tag : Tag) (prev : Option (Nat × Nat)) (time : DWord) : List Byte :=
  let p := match prev with
    | some (d, i) => 2 ^ 63 + d * 2 ^ 61 + i
    | none => 0
  leBytes 8 n.toNat ++ leBytes 8 key.toNat ++ leBytes 8 routine.toNat ++ leBytes 8 args.toNat ++ leBytes 4 act.toNat ++
    leBytes 2 tag.toNat ++ [1, 0] ++ leBytes 8 p ++ leBytes 8 time.toNat ++ leBytes 8 0

/-- An entry appended to a die's segment for a step (R373, R374, R376); none when the segment is full, or an error met. -/
def appendEntry (s : State) (d : Nat) (a : Activity) (routine args key : DWord) : State × Option DWord :=
  let i := (s.hub.seghead[d]?).getD 0
  match entryRead s (d, i) (BitVec.ofNat 12 (entryField s (d, i) 0x24 2)) with
  | (s, false) => (s, none)
  | (s, true) =>
    if entryField s (d, i) 0x26 1 ≠ 0 then (s, none)
    else
      let n := s.hub.pstep + 1
      let s := { s with hub := { s.hub with
        pstep := n
        seghead := listSet s.hub.seghead d ((i + 1) % 2 ^ 20)
        segused := listSet s.hub.segused d ((s.hub.segused[d]?).getD 0 + 1) } }
      let s := entryPut s (d, i) 0 (entryBytes n key routine args a.handle a.tag a.last s.gtime)
      (setAct s { a with last := some (d, i) }, some n)

/-- ACT.STEP (R376): a step that fails makes its release all the same. -/
def execActStep (sd sa sb sc se : SReg) (s : State) : Out :=
  actIns (.actStep sd sa sb sc se) sd [sd, sa, sb, sc, se]
    (fun s t _ => do
      checkHandle t (getS t sa)
      let routine := getS t sb
      need (globalOk routine) (.fault 0x11 0 (some routine))
      need (!routine.getLsbD 55) (.fault 0x11 6 (some routine))
      need (alignedTo routine 64) (.fault 0x14 0 (some routine))
      releaseWait s t
      let s := fenceRel s t.core .pkg
      .ok (match actOf s (getS t sa) with
        | none => actResult s t.uid sd none
        | some a =>
          if a.st = .opened then
            let (s, r) := appendEntry s (dieOf t.core) a routine (getS t sc) (getS t se)
            actResult s t.uid sd r
          else actResult s t.uid sd none)) s

/-- The entries of a chain freed, newest first, until one cannot be read (R351, R373); fuel bounds the entries of the package. -/
def freeChain (s : State) (tag : Tag) : Nat → Option (Nat × Nat) → State × Bool
  | 0, _ => (s, true)
  | _, none => (s, true)
  | fuel + 1, some e => match entryRead s e tag with
    | (s, false) => (s, false)
    | (s, true) => freeChain (freeEntry s e.1 e.2) tag fuel (entryPrev s e.1 e.2)

/-- ACT.CLOSE (R376). -/
def execActClose (sa : SReg) (s : State) : Out :=
  actIns (.actClose sa) 0 [sa]
    (fun s t _ => do
      checkHandle t (getS t sa)
      .ok (match actOf s (getS t sa) with
        | none => actResult s t.uid 0 none
        | some a =>
          if a.st = .opened then
            match freeChain s a.tag (a.chain s).length a.last with
            | (s, true) => actResult (dropAct s a) t.uid 0 (some 0)
            | (s, false) => s
          else actResult s t.uid 0 none)) s

/-- ACT.ABANDON (R377): the checks in order, then the walk begins. -/
def execActAbandon (sa : SReg) (s : State) : Out :=
  actIns (.actAbandon sa) 0 [sa]
    (fun s t _ => do
      let w := getS t sa
      checkHandle t w
      let en := w.getLsbD 47
      let id := fld w 32 13
      need (fld w 48 16 == 0 && fld w 45 2 == 0 && (en || id == 0)) (.s 0x15 4)
      need (!en || (decide (4096 ≤ id) && counterOwner s id == some t.tag)) (.s 0x1B 1)
      .ok (match actOf s w with
        | none => actResult s t.uid 0 none
        | some a =>
          if a.st = .opened then
            actResult (walkTo s { a with timeline := if en then some id else none } a.last) t.uid 0 (some 0)
          else actResult s t.uid 0 none)) s

/-- The code of a state (R371). -/
def ActState.code : ActState → Nat
  | .opened => 1
  | .walking => 2
  | .failed => 3
  | .entangled => 4

/-- The status word of an activity (R381). -/
def statWord (s : State) (a : Activity) : DWord :=
  BitVec.ofNat 64 ((a.chain s).length * 2 ^ 40 + a.st.code * 2 ^ 32 + (if a.st = .failed then a.cret.toNat else 0))

/-- ACT.STAT (R376): performed whatever lanes are helpers. The hub follows the chain for LIVE (R381). -/
def execActStat (sd sa : SReg) (s : State) : Out :=
  issue (.actStat sd sa) { scalars := [sd, sa], closed := true } noLimits
    (fun s t _ => do
      checkHandle t (getS t sa)
      .ok (match actOf s (getS t sa) with
        | none => actResult s t.uid sd none
        | some a => match readEntries s a.tag (a.chain s) with
          | (s, false) => s
          | (s, true) => actResult s t.uid sd (some (statWord s a)))) s

/-- ACT.SKIP (R380). -/
def execActSkip (sa : SReg) (s : State) : Out :=
  actIns (.actSkip sa) 0 [sa]
    (fun s t _ => do
      checkHandle t (getS t sa)
      .ok (match actOf s (getS t sa) with
        | none => actResult s t.uid 0 none
        | some a =>
          if a.st = .failed ∨ a.st = .entangled then actResult (walkPast s { a with cret := 0 }) t.uid 0 (some 0)
          else actResult s t.uid 0 none)) s

/-- ACT.RETRY (R380): the routine of a failed entry is wanted again, and an entangled one's key wait starts afresh. -/
def execActRetry (sa : SReg) (s : State) : Out :=
  actIns (.actRetry sa) 0 [sa]
    (fun s t _ => do
      checkHandle t (getS t sa)
      .ok (match actOf s (getS t sa) with
        | none => actResult s t.uid 0 none
        | some a =>
          if a.st = .failed then actResult (setAct s { a with st := .walking, running := true }) t.uid 0 (some 0)
          else if a.st = .entangled then actResult (walkOn s a) t.uid 0 (some 0)
          else actResult s t.uid 0 none)) s

/-- CRET (R383): a release at pkg scope, the team's status, and the team retires. -/
def execCret (sa : SReg) (s : State) : Out :=
  issue (.cret sa) { scalars := [sa], closed := true, ordered := true, engines := true, steps := false }
    (fun t => need t.isComp (.illop 4))
    (fun s t _ => match retireWaits s t.uid with
      | some w => parkOn w
      | none => .ok (
        let s := fenceRel s t.core .pkg
        let s := match launchOf s t.launch with
          | some l => setLaunch s { l with compStatus := some (lo32 (getS t sa), 0) }
          | none => s
        match teamOf s t.uid with
        | some u => retireTeam s u
        | none => s)) s

/-- Whether an activity's walk pauses: its context is SAVED (R385). -/
def walkPaused (s : State) (tag : Tag) : Bool := match slotOfTag s tag with
  | some n => (getSlot s n).st == 4
  | none => true

/-- KEY_WAIT_END (R379): the wait of a walk ends when no later entry holds its key any more. -/
def execKeyWaitEnd (tag : BitVec 12) (slot : Nat) (s : State) : Out :=
  .next (match actAt s tag slot with
    | some a =>
      match a.keyWait, a.last with
      | some _, some e => if a.st = .walking ∧ (keyLook s a e).2 ≠ some true ∧ !walkPaused s tag then walkOn s a else s
      | _, _ => s
    | none => s)

/-- KEY_WAIT_TIMEOUT (R379): a wait that has lasted TMO µs entangles the activity. -/
def execKeyWaitTimeout (tag : BitVec 12) (slot : Nat) (s : State) : Out :=
  .next (match actAt s tag slot with
    | some a =>
      match a.keyWait, a.last with
      | some n, some e =>
        if a.st = .walking ∧ fld s.hub.actcfg 0 20 * 1000 ≤ n ∧ !walkPaused s tag then
          match keyLook s a e with
          | (s, none) => s
          | (_, some false) => s
          | (s, some true) =>
            let a := { a with st := .entangled, keyWait := none }
            postWalkFault (setAct s a) a 0x22 0
        else s
      | _, _ => s
    | none => s)

/-- ACTCFG_WRITE (R370). -/
def execActcfgWrite (value : BitVec 32) (s : State) : Out :=
  let tmo := max 1 (min (fld value 0 20) 1000000)
  let busy := !s.hub.acts.isEmpty || s.hub.segused.any fun n => n != 0
  let en := value.getLsbD 31 || (s.hub.actcfg.getLsbD 31 && busy)
  .next { s with hub := { s.hub with actcfg := BitVec.ofNat 32 ((if en then 2 ^ 31 else 0) + tmo) } }

/-- ACTSEG written: ignored while activities are enabled (R370). -/
def writeActseg (s : State) (d : Nat) (v : DWord) : State :=
  if s.hub.actcfg.getLsbD 31 then s
  else { s with hub := { s.hub with actseg := listSet s.hub.actseg d (v &&& 0x00000FFFFC000000) } }

/-- The word that XPROBE writes from a walk (R312). -/
def probeWord (s : State) (tag : Tag) (va : Nat) : DWord :=
  let code := fun (c info : Nat) => BitVec.ofNat 64 (c * 2 ^ 56 + info * 2 ^ 52)
  let word := fun (e : TlbEntry) (c info pa : Nat) => BitVec.ofNat 64 (c * 2 ^ 56 + info * 2 ^ 52 + e.shr.toNat * 2 ^ 51 +
    e.x.toNat * 2 ^ 50 + e.w.toNat * 2 ^ 49 + e.r.toNat * 2 ^ 48 + e.big.toNat * 2 ^ 47 + e.prot * 2 ^ 45 + e.sys.toNat * 2 ^ 44 +
    (if c = 0 then pa / 4096 * 4096 else 0) + e.otag.toNat)
  match walk s tag va with
  | .xlate _ => code 0x10 0
  | .perm i (some e) => word e 0x11 i 0
  | .perm i none => code 0x11 i
  | .pod => code 0x11 6
  | .leaf e => match leafCheck e tag .probe va with
    | .ok pa _ => word e 0 0 pa
    | .perm i => word e 0x11 i 0
    | .tail => word e 0x12 0 0
    | _ => word e 0 0 0

/-- XPROBE (R312). An address in the pod window is walked nowhere here (R299), and raises PERM with INFO 6 under R436. -/
def execXprobe (sd sa : SReg) (s : State) : Out :=
  issue (.xprobe sd sa) { scalars := [sd, sa] } noLimits
    (fun s t _ => do
      need (t.tag == 0) (.s 0x1A 0)
      let w := getS t sa
      need (fld w 56 8 != 0 || !w.getLsbD 55) (.fault 0x11 6 (some (w &&& 0x00FFFFFFFFFFF000)))
      let named : Tag := if fld w 0 12 = 0 then t.tag else BitVec.ofNat 12 (fld w 0 12)
      let r : DWord := if fld w 56 8 ≠ 0 then BitVec.ofNat 64 (0x11 * 2 ^ 56 + 5 * 2 ^ 52)
        else if (slotOfTag s named).isNone then BitVec.ofNat 64 (0x11 * 2 ^ 56 + 6 * 2 ^ 52)
        else probeWord s named (fld w 12 44 * 4096)
      .ok (modTeam s t.uid fun u => setS u sd r)) s

end Sys2Proof.Machine
end

