-- ==== Sys2Proof/Machine/Hse.lean ====
section
/-! DEFINITION. The HSE formats: elements, descriptors, reading and the quantiser (R107, R118 to R124). -/

namespace Sys2Proof.Machine

/-- The bits m of an HSE format by its FMT code (R118). -/
def hseM (code : Nat) : Nat := if code = 8 then 2 else if code = 9 then 4 else 7

/-- The bytes of a group of 16 elements (R118). -/
def hseGroup (m : Nat) : Nat := 2 * (1 + m)

/-- An HSE descriptor (R121). -/
structure HseDesc where
  m : Nat
  elem : DWord
  micro : DWord
  bmap : DWord
  exps : DWord
  groups : Nat
  deriving DecidableEq, Repr

/-- A descriptor's 32 bytes read, with FORM required to be a code (R121, R122). -/
def hseDesc (code : Nat) (b : List Byte) : Option HseDesc :=
  let q := fun (i : Nat) => leNat ((b.drop (8 * i)).take 8)
  let lo := fun (i : Nat) => BitVec.ofNat 64 (q i % 2 ^ 56)
  let hi := fun (i : Nat) => q i / 2 ^ 56
  let g := hi 3 * 256 + hi 2
  if hi 0 = code ∧ hi 1 = 0 ∧ g ≠ 0 then
    some { m := hseM code, elem := lo 0, micro := lo 1, bmap := lo 2, exps := lo 3, groups := g }
  else none

/-- The value of code c in a block of exponent E with sub-shift u (R119). -/
def hseValue (m e : Nat) (c : Int) (u : Nat) : FV :=
  if e = 0 then .fin false 0 0
  else if e = 255 then .nan false
  else .fin (decide (c < 0)) c.natAbs ((e : Int) - 127 - m - u)

/-- The sub-shift of element j in a micro byte (R119). -/
def subShift (micro j : Nat) : Nat := micro / 4 ^ (j / 4) % 4

/-- The set bits of a bitmap from bit 1 to bit g (R120, R146). -/
def bitsTo (bm : List Byte) (g : Nat) : Nat :=
  ((List.range g).filter fun i => ((bm[(i + 1) / 8]?).getD 0).getLsbD ((i + 1) % 8)).length

/-- One group as the quantiser writes it: its 16 codes, micro byte, whether it starts a block, and the block's exponent. -/
structure HseOut where
  codes : List Int
  micro : Nat
  start : Bool
  e : Nat
  deriving DecidableEq, Repr

/-- The magnitude's exponent, floor(log2 |x|), of a value that is not zero; an infinity counts as 2^128 (R123). -/
def hseLog : FV → Option Int
  | .nan _ => none
  | .inf _ => some 128
  | .fin _ m e => if m = 0 then none else some (e + bitLen m - 1)

/-- The greatest exponent of a group's values. -/
def hseTop (l : List FV) : Option Int :=
  l.foldl (fun a v => match a, hseLog v with
    | none, y => y
    | x, none => x
    | some x, some y => some (max x y)) none

/-- x × 2^k rounded to the nearest even integer (R123). -/
def hseRound (k : Int) : FV → Int
  | .nan _ => 0
  | .inf n => (toIntegral .rn n 1 (128 + k)).1
  | .fin n m e => (toIntegral .rn n m (e + k)).1

/-- A quarter's codes and sub-shift in a block (R123). -/
def hseQuarter (m e : Nat) (q : List FV) : List Int × Nat :=
  if e = 0 ∨ e = 255 then (q.map fun _ => 0, 0)
  else
    let r := fun (v : Nat) (x : FV) => hseRound (127 + m + v - e) x
    let fits := fun (v : Nat) => q.all fun x => decide (-(2 ^ m : Int) ≤ r v x) && decide (r v x ≤ 2 ^ m - 1)
    let u := if fits 3 then 3 else if fits 2 then 2 else if fits 1 then 1 else 0
    (q.map fun x => max (-(2 ^ m : Int)) (min (r u x) (2 ^ m - 1)), u)

/-- A group quantised after a block of exponent E, none before the first (R123). -/
def hseGroupOut (m : Nat) (blk : Option Nat) (g : List FV) : HseOut :=
  let e : Nat :=
    if g.any FV.isNaN then 255
    else match hseTop g with
      | none => 0
      | some t => (max 1 (min (t + 128) 254)).toNat
  let start := match blk with
    | none => true
    | some b => b == 255 || e == 255 || (e != 0 && b == 0) || (e != 0 && (decide (b < e) || decide (e + 2 ≤ b)))
  let b := if start then e else blk.getD e
  let qs := (List.range 4).map fun q => hseQuarter m b ((g.drop (4 * q)).take 4)
  { codes := qs.flatMap (·.1), micro := (mapSum qs), start, e := b }
where
  /-- The micro byte of the four quarters' sub-shifts. -/
  mapSum (qs : List (List Int × Nat)) : Nat := qs.foldr (fun q a => q.2 + 4 * a) 0

/-- The groups of a row quantised in order (R123). -/
def hseGroups (m : Nat) : Option Nat → List (List FV) → List HseOut
  | _, [] => []
  | blk, g :: r =>
    let o := hseGroupOut m blk g
    o :: hseGroups m (some o.e) r

/-- The values of a row cut into groups of 16. -/
def cut16 : Nat → List FV → List (List FV)
  | 0, _ => []
  | n + 1, l => l.take 16 :: cut16 n (l.drop 16)

/-- The flags that one element raises (R124). -/
def hseFlags (m : Nat) (o : HseOut) (x : FV) (j : Nat) : Flags :=
  let c := (o.codes[j]?).getD 0
  let back := hseValue m o.e c (subShift o.micro j)
  let differs : Bool := match x, back with
    | .nan _, .nan _ => false
    | .fin n k e, .fin n' k' e' =>
      let q := min e e'
      decide (scaleTo n k e q ≠ scaleTo n' k' e' q)
    | _, _ => true
  let lost : Bool := match x with
    | .fin _ k _ => k != 0 && c == 0 && o.e != 0 && o.e != 255
    | _ => false
  let inf : Bool := match x with
    | .inf _ => true
    | _ => false
  flIf differs flNX ||| flIf lost flUF ||| flIf inf flOF ||| flIf x.isSNaN flNV

/-- The flags of a group: those of its elements, and OF when its top exponent passes 254 (R124). -/
def hseGroupFlags (m : Nat) (g : List FV) (o : HseOut) : Flags :=
  let top := match hseTop g with
    | some t => !(g.any FV.isNaN) && decide (254 < t + 128)
    | none => false
  (List.range 16).foldl (fun a j => a ||| hseFlags m o ((g[j]?).getD (.fin false 0 0)) j) (flIf top flOF)

/-- The four streams of a quantised row (R120, R121). -/
structure HseRow where
  elem : List Byte
  micro : List Byte
  bmap : List Byte
  exps : List Byte
  fl : Flags
  deriving DecidableEq, Repr

/-- The bytes of a row, stream by stream. -/
def HseRow.streams (r : HseRow) : List (List Byte) := [r.elem, r.micro, r.bmap, r.exps]

/-- The bytes of a group's codes, packed least significant bit first (R118). -/
def hsePack (m : Nat) (codes : List Int) : List Byte :=
  leBytes (hseGroup m) (codes.foldr (fun c a => (BitVec.ofInt (1 + m) c).toNat + 2 ^ (1 + m) * a) 0)

/-- A row of f32 words quantised (R123, R124); the words are those of groups × 16 elements. -/
def quantise (m groups : Nat) (ftz : Bool) (ws : List Word) : HseRow :=
  let gs := cut16 groups (ws.map fun w => unpack f32F ftz w.toNat)
  let os := hseGroups m none gs
  let exps := (os.filter (·.start)).map fun o => BitVec.ofNat 8 o.e
  let starts := os.map (·.start)
  let bm := (List.range ((groups + 7) / 8)).map fun i =>
    (List.range 8).foldl (fun (a : Byte) k => if (starts[8 * i + k]?).getD false then a ||| ((1 : Byte) <<< k) else a) 0
  { elem := os.flatMap fun o => hsePack m o.codes
    micro := os.map fun o => BitVec.ofNat 8 o.micro
    bmap := bm
    exps := exps ++ List.replicate (groups - exps.length) 0
    fl := (gs.zip os).foldl (fun a x => a ||| hseGroupFlags m x.1 x.2) 0 }

end Sys2Proof.Machine
end

