-- ==== Sys2Proof/Machine/Quant.lean ====
section
/-! DEFINITION. QNT and DQNT (R144 to R146). -/

namespace Sys2Proof.Machine

/-- The HSE descriptor of an instruction read and checked (R121, R122); its place is checked before its alignment, and one in a scratchpad
window is PERM (log entry 48). -/
def readHseDesc (s : State) (t : Team) (f : Frag) (code : Nat) (va : DWord) : Run (State × HseDesc) := do
  need (globalOk va) (.fault 0x11 0 (some va))
  need (!va.getLsbD 55) (.fault 0x11 6 (some va))
  need (alignedTo va 32) (.fault 0x15 0 (some va))
  let (s, b) ← readRange s t f va 32
  match hseDesc code b with
  | some d => .ok (s, d)
  | none => .error (.fault 0x15 0 (some va))

/-- The row that QNT quantises (R144): the words of the active lanes that are not helpers, +0 elsewhere. -/
def qntRow (t : Team) (f : Frag) (side n : Nat) : List Word :=
  (List.range n).map fun v =>
    let l := t.sameSide side v
    if v < t.nlane ∧ f.active.getLsbD l ∧ !t.isHelper l then t.opd l 0 else 0

/-- The row of a QNT, line by line (R144, R145): none of its stores is made before every page has translated. Where one has no place yet,
the fragment parks and the row waits whole for replay; in an open region it takes its buffer lines now (R445). -/
def rowPlaces (t : Team) : State → List (DWord × List Byte) → Run (State × List Piece × Option (DWord × Nat × Tag × Nat × Nat))
  | s, [] => .ok (s, [], none)
  | s, (va, b) :: r => do
    need (globalOk va) (.fault 0x11 0 (some va))
    need (!va.getLsbD 55) (.fault 0x11 6 (some va))
    match locate s t va .write with
    | (s, .at loc) => do
      let (s, l, m) ← rowPlaces t s r
      .ok (s, { loc, va, len := b.length } :: l, m)
    | (_, .perm i) => .error (.fault 0x11 i (some va))
    | (_, .tail) => .error (.fault 0x12 0 (some va))
    | (_, .zero fr g) => .error (.park (.zeroing fr) fun s => startZero s fr g)
    | (s, .miss die tag page level) => .ok (s, [], some (va, die, tag, page, level))

/-- A row that waits for replay takes the lines of the open region's buffer and counts as one of its stores (R445). -/
def holdRow (s : State) (uid : Nat) (row : List (DWord × List Byte)) : State :=
  let s := row.foldl (fun s x => holdBytes s uid false x.1.toNat []) s
  modTeam s uid fun u => { u with region := u.region.map fun r => { r with pendingStores := r.pendingStores + 1 } }

/-- A fragment that waits for the row of its QNT to be stored (R145). -/
def parkRow (s : State) (uid frag : Nat) : State := modTeam s uid fun u => modFrag u frag fun x => { x with st := .parked, wait := some .row }

/-- QNT (R144, R145): in a protected team the rows computed from the two sides are compared before any store. -/
def qntIns (i : Instr) (code : Nat) (sa : SReg) (s : State) : Out :=
  issue i { pops := 1, access := true, scalars := [sa], steps := false } noLimits
    (fun s t f => do
      let (s, d) ← readHseDesc s t f code (getS t sa)
      let len := 2 * (encode i).length
      let pop := fun (s : State) => modTeam s t.uid fun u => u.stackOp f 1 0 fun _ _ => []
      if !t.acts f then .ok (leave (pop s) t.uid f len)
      else do
        let side := fun (k : Nat) => quantise d.m d.groups (fmtFtz f.fmt) (qntRow t f k (16 * d.groups))
        let row := side 0
        need (!(t.isProtected && row.streams != (side 1).streams)) (.s 0x20 0)
        let lines := [(d.elem, row.elem), (d.micro, row.micro), (d.bmap, row.bmap), (d.exps, row.exps)].flatMap fun x =>
          cutBytes (pieces x.1 x.2.length) x.2
        let (s, l, miss) ← rowPlaces t s lines
        (match miss with
          | some m => gatePages t [vpage m.1]
          | none => .ok ())
        let pl ← storePlan t (lines.map fun p => (false, p.1.toNat / 64))
        let held := pl == .held || pl == .reopen
        let (s, found) := planBefore (pop s) t f 1 pl
        let s := modTeam s t.uid fun u => u.orFlags row.fl
        match miss with
        | none =>
          let s := writePieces s t held f.pc l (lines.flatMap (·.2))
          .ok (planAfter (foundFaults s t.uid f.pc f.active found) t f len pl)
        | some (va, die, tag, page, level) => do
          let s ← putWaiters (if held then holdRow s t.uid lines else s) t f AccKind.write.bits
            [{ word := 0, va, die, tag, page, level, accs := [.qnt f.active lines held] }]
          .ok (parkRow (planAfter (foundFaults s t.uid f.pc f.active found) t f len pl) t.uid f.num)) s

/-- QNT.hse2. -/
def execQntHse2 (sa : SReg) (s : State) : Out := qntIns (.qntHse2 sa) 8 sa s
/-- QNT.hse4. -/
def execQntHse4 (sa : SReg) (s : State) : Out := qntIns (.qntHse4 sa) 9 sa s
/-- QNT.hse7. -/
def execQntHse7 (sa : SReg) (s : State) : Out := qntIns (.qntHse7 sa) 10 sa s

/-- What one lane reads of a stream, piece by piece: bytes and poison, or the address and outcome that stops it. -/
def laneRead (s : State) (t : Team) (va : DWord) (n : Nat) : State × Except (DWord × Fx) (List Byte × Option Poison) :=
  (pieces va n).foldl (fun x p => match x.2 with
    | .error _ => x
    | .ok (b, g) =>
      if !globalOk p.1 then (x.1, .error (p.1, .perm 0))
      else if p.1.getLsbD 55 then (x.1, .error (p.1, .perm 6))
      else match locate x.1 t p.1 .read with
        | (s, .at loc) =>
          let (s, c, h) := loadPast s t loc p.1 p.2
          (s, .ok (b ++ c, if g.isSome then g else h))
        | (s, fx) => (s, .error (p.1, fx))) (s, .ok ([], none))

/-- One element of a row read as DQNT reads it (R119, R146): the entry and its flags, or what stops the lane. A lane of group 0 reads the
bitmap's first byte too (log entry 48). -/
def dqntLane (s : State) (t : Team) (d : HseDesc) (idx : Nat) (ftz : Bool) : State × Except (DWord × Fx) (Entry × Flags) :=
  let g := idx / 16
  let j := idx % 16
  if d.groups ≤ g then (s, .ok (Entry.zero, 0))
  else
    match laneRead s t d.bmap (g / 8 + 1) with
    | (s, .error e) => (s, .error e)
    | (s, .ok (bm, p0)) =>
      match laneRead s t (d.exps + BitVec.ofNat 64 (bitsTo bm g)) 1 with
      | (s, .error e) => (s, .error e)
      | (s, .ok (ex, p1)) =>
        match laneRead s t (d.micro + BitVec.ofNat 64 g) 1 with
        | (s, .error e) => (s, .error e)
        | (s, .ok (mi, p2)) =>
          let w := 1 + d.m
          let lo := j * w / 8
          let hi := (j * w + w - 1) / 8
          match laneRead s t (d.elem + BitVec.ofNat 64 (g * hseGroup d.m + lo)) (hi + 1 - lo) with
          | (s, .error e) => (s, .error e)
          | (s, .ok (el, p3)) =>
            let c := sxt w (leNat el / 2 ^ (j * w - 8 * lo) % 2 ^ w)
            let r := roundV f32F .rn ftz (hseValue d.m (leNat ex) c (subShift (leNat mi) j))
            let p := (p0.or p1).or (p2.or p3)
            (s, .ok ({ bits := BitVec.ofNat 32 r.bits, poison := p }, r.fl &&& (flUF ||| flNX)))

/-- The lanes of a DQNT in order: entries, flags, and the lanes that met a fault. -/
def dqntLanes (s : State) (t : Team) (d : HseDesc) (ftz : Bool) (l : List (Nat × Nat)) :
    State × List (Nat × List Entry) × Flags × List (LaneAddr × Fx) :=
  l.foldl (fun x a =>
    match dqntLane x.1 t d a.2 ftz with
    | (s, .ok (e, fl)) => (s, x.2.1 ++ [(a.1, [e])], x.2.2.1 ||| fl, x.2.2.2)
    | (s, .error (va, fx)) => (s, x.2.1, x.2.2.1, x.2.2.2 ++ [((a.1, va), fx)])) (s, [], 0, [])

/-- DQNT (R146). -/
def dqntIns (i : Instr) (la : BitVec 4) (code : Nat) (sa : SReg) (s : State) : Out :=
  issue i { pops := 1, pushes := 1, access := true, scalars := [sa] } noLimits
    (fun s t f => do
      let (s, d) ← readHseDesc s t f code (getS t sa)
      let ftz := fmtFtz f.fmt
      let (s, vals, fl, bad) := dqntLanes s t d ftz ((t.accessors f).map fun l => (l, (t.opd l 0).toNat))
      gateZero (bad.map (·.2))
      let live := bad.filter fun x => !t.isHelper x.1.1
      gatePages t (missPages live)
      let (s, vals) := live.foldl (fun (x : State × List (Nat × List Entry)) a => match a.2 with
        | .perm _ | .tail =>
          let (s, es) := freeEntries' x.1 1
          (s, x.2 ++ [(a.1.1, es)])
        | _ => x) (s, vals)
      match teamOf s t.uid with
      | none => .ok s
      | some u =>
        let sb := u.nextSb
        let missed := groupMissed live fun a =>
          .dqnt a.1 d.m d.elem d.micro d.bmap d.exps d.groups (t.opd a.1 0).toNat ftz sb
        let (u, _) ← takeSb ((u.stackOp f 1 1 fun l _ => laneResult t 1 vals l).orFlags fl) f 1 la (!missed.isEmpty)
        let s ← putWaiters (setTeam s u) t f AccKind.read.bits missed
        .ok (postLaneFaults s t.uid f.pc (laneFaults live))) s

/-- DQNT.hse2. -/
def execDqntHse2 (la : BitVec 4) (sa : SReg) (s : State) : Out := dqntIns (.dqntHse2 la sa) la 8 sa s
/-- DQNT.hse4. -/
def execDqntHse4 (la : BitVec 4) (sa : SReg) (s : State) : Out := dqntIns (.dqntHse4 la sa) la 9 sa s
/-- DQNT.hse7. -/
def execDqntHse7 (la : BitVec 4) (sa : SReg) (s : State) : Out := dqntIns (.dqntHse7 la sa) la 10 sa s

end Sys2Proof.Machine
end

