-- ==== Sys2Proof/Machine/Replay.lean ====
section
/-! DEFINITION. Replaying accesses: waiters of a mapped page, and the replay records of a resumed team (R303 to R306, R445). -/

namespace Sys2Proof.Machine

/-- How the replay of one access ends. -/
inductive Rep
  | done
  /-- it meets a translation fault again -/
  | again (die : Nat) (tag : Tag) (page level : Nat)
  /-- its frame is being zeroed -/
  | zeroing (frame : Nat) (tag : Tag)
  | fault (code info : Nat) (va : DWord)
  | poison (p : Poison)
  deriving DecidableEq, Repr

/-- The scoreboard entry that an access's result goes to. -/
def Acc.sb : Acc → Option Nat
  | .load _ _ _ _ sb => some sb
  | .atom _ _ _ _ _ _ sb => some sb
  | .dqnt _ _ _ _ _ _ _ _ _ sb => some sb
  | _ => none

/-- The lane of an access. -/
def Acc.lane : Acc → Nat
  | .load lane .. => lane
  | .atom lane .. => lane
  | .scat lane .. => lane
  | .dqnt lane .. => lane
  | _ => 0

/-- The lanes that a fault of an access names (R305). -/
def Acc.lanes : Acc → Mask
  | .store m .. => m
  | .qnt m .. => m
  | a => laneBit a.lane

/-- A result delivered to a lane, and to its shadow in a protected team (R97). -/
def deliverLane (s : State) (uid sb lane : Nat) (vals : List Entry) : State :=
  modTeam s uid fun t =>
    let t := deliver t sb lane vals
    if t.isProtected then deliver t sb (lane + 1) vals else t

/-- A translation outcome that lets nothing be done. -/
def repOf (va : DWord) : Fx → Rep
  | .at _ => .done
  | .miss die tag page level => .again die tag page level
  | .zero f g => .zeroing f g
  | .perm i => .fault 0x11 i va
  | .tail => .fault 0x12 0 va

/-- A store of a region that has been replayed, or that will never be, no longer keeps the region from closing (R445). -/
def storeReplayed (s : State) (uid : Nat) : State :=
  modTeam s uid fun u => { u with region := u.region.map fun r => { r with pendingStores := r.pendingStores - 1 } }

/-- The pieces of a row translated, or the address and outcome of the first that has no place (R145). -/
def locateRow (t : Team) : State → List (DWord × List Byte) → State × Except (DWord × Fx) (List (Loc × DWord × List Byte))
  | s, [] => (s, .ok [])
  | s, (va, b) :: r =>
    match locate s t va .write with
    | (s, .at l) => match locateRow t s r with
      | (s, .ok ls) => (s, .ok ((l, va, b) :: ls))
      | (s, .error e) => (s, .error e)
    | (s, fx) => (s, .error (va, fx))

/-- One access replayed: the walker is asked for the page that has been mapped, and an access of any other page in the team's set joins
that page's waiters (R303, R304). An access that lies in another package is sent there. -/
def replayAcc (s : State) (uid frag : Nat) (page : Option Nat) (pc : DWord) (a : Acc) : State × Rep :=
  match teamOf s uid with
  | none => (s, .done)
  | some t0 =>
    let t := { t0 with pages := t0.pages.filter fun p => page != some p.1 }
    let send := fun (s : State) (pkg : Nat) => (podSend s uid frag pkg a.va a.lanes (.acc a (a.held t)) pc, Rep.done)
    match a with
    | .load lane va n sg sb =>
      match locate s t va .read with
      | (s, .at (.remote pkg _)) => send s pkg
      | (s, .at loc) =>
        let (s, b, p) := loadPast s t loc va n
        (deliverLane s uid sb lane (loadEntries sg b p), .done)
      | (s, fx) => (s, repOf va fx)
    | .store lanes va data poison kind =>
      match locate s t va .write with
      | (s, .at loc) =>
        if kind = .region then (storeReplayed (holdBytes s uid false va.toNat data) uid, .done)
        else (writeLoc s t loc data poison pc lanes, .done)
      | (s, fx) => (s, repOf va fx)
    | .sld sd va =>
      match locate s t va .read with
      | (s, .at (.remote pkg _)) => send s pkg
      | (s, .at loc) =>
        match loadPast s t loc va 8 with
        | (s, _, some g) => (s, .poison g)
        | (s, b, none) =>
          (modTeam s uid fun u =>
            { setS u (BitVec.ofNat 5 sd) (BitVec.ofNat 64 (leNat b)) with scalarPend := u.scalarPend.erase sd }, .done)
      | (s, fx) => (s, repOf va fx)
    | .atom lane va op _ v cmp sb =>
      match locate s t va .rw with
      | (s, .at (.remote pkg _)) => send s pkg
      | (s, .at loc) =>
        match globalRmw s t loc (atomBytes op) fun m => atomNew op m v cmp with
        | (s, .error g) => (s, .poison g)
        | (s, .ok m) => (deliverLane s uid sb lane (atomEntries op m), .done)
      | (s, fx) => (s, repOf va fx)
    | .scat _ va ty v =>
      match locate s t va .rw with
      | (s, .at loc) =>
        match globalRmw s t loc (scatBytes ty) fun m => scatAdd ty m v with
        | (s, .error g) => (s, .poison g)
        | (s, .ok _) => (s, .done)
      | (s, fx) => (s, repOf va fx)
    | .dqnt lane m elem micro bmap exps groups idx ftz sb =>
      match dqntLane s t { m, elem, micro, bmap, exps, groups } idx ftz with
      | (s, .ok (e, fl)) => (modTeam (deliverLane s uid sb lane [e]) uid fun u => u.orFlags fl, .done)
      | (s, .error (va, fx)) => (s, repOf va fx)
    | .qnt _ row held =>
      match locateRow t s row with
      | (s, .error (va, fx)) => (s, repOf va fx)
      | (s, .ok l) =>
        if held then (storeReplayed (l.foldl (fun s x => holdBytes s uid false x.2.1.toNat x.2.2) s) uid, .done)
        else (l.foldl (fun s x => writeLoc s t x.1 x.2.2 none pc a.lanes) s, .done)

/-- Accesses replayed in order: those that must wait again, with why, and the faults met. -/
def replayAccs (s : State) (uid frag : Nat) (page : Option Nat) (pc : DWord) (l : List Acc) : State × List (Acc × Rep) :=
  l.foldl (fun x a =>
    let (s, r) := replayAcc x.1 uid frag page pc a
    (s, x.2 ++ [(a, r)])) (s, [])

/-- The waiters that hold an access of a team for a scoreboard entry. -/
def sbWaits (s : State) (uid sb : Nat) : Bool :=
  let has := fun (w : Waiter) => w.team == uid && (match w.kind with
    | .pass accs => accs.any fun a => a.sb == some sb
    | _ => false)
  ((List.range 4).any fun d => (getDie s d).fb.any fun e => e.waiters.any has) ||
    (((teamOf s uid).map (·.replay)).getD []).any has ||
    s.fabric.msgs.any fun m => m.team == uid && (match m.req with
      | .acc a _ => a.sb == some sb
      | _ => false)

/-- The scoreboard entries whose last replay has been made can be written (R49, R304). -/
def settleSb (s : State) (uid : Nat) : State :=
  match teamOf s uid with
  | none => s
  | some t =>
    let done := (t.sb.filter fun e => e.waiting && !sbWaits s uid e.id).map (·.id)
    let mine := fun (e : SbEntry) => done.contains e.id &&
      !((getCore s t.core).matq.any fun m => m.team == uid && m.sb == e.id) &&
      !((getCore s t.core).ixq.any fun q => q.1 == uid && (match q.2.1 with
        | .next sb _ => sb == e.id
        | _ => false)) &&
      !(t.held.toList ++ t.removed).any (fun m => m.sb == e.id) &&
      !t.heldIx.any (fun q => match q.1 with
        | .next sb _ => sb == e.id
        | _ => false)
    modTeam s uid fun t => { t with sb := t.sb.map fun e => if mine e then { e with waiting := false } else e }

/-- An access that is given up: a store of a region and a pending scalar go, a lane's result is a free value (R49, R445). -/
def dropAcc (s : State) (uid : Nat) (a : Acc) : State :=
  match a with
  | .store _ _ _ _ .region | .qnt _ _ true => storeReplayed s uid
  | .sld sd _ => modTeam s uid fun u => { u with scalarPend := u.scalarPend.erase sd }
  | .load lane _ n _ sb =>
    let (s, es) := freeEntries' s ((n + 3) / 4)
    deliverLane s uid sb lane es
  | .atom lane _ op _ _ _ sb =>
    let (s, es) := freeEntries' s (atomEntries op 0).length
    deliverLane s uid sb lane es
  | .dqnt lane _ _ _ _ _ _ _ _ sb =>
    let (s, es) := freeEntries' s 1
    deliverLane s uid sb lane es
  | _ => s

/-- Faults that accesses of lanes have met, joined into one for each code and INFO: code, INFO, the first address, the lanes (R305). -/
def joinFaults (l : List (Nat × Nat × DWord × Mask)) : List (Nat × Nat × DWord × Mask) :=
  l.foldl (fun (acc : List (Nat × Nat × DWord × Mask)) x =>
    if acc.any fun y => y.1 == x.1 && y.2.1 == x.2.1 then
      acc.map fun y => if y.1 = x.1 ∧ y.2.1 = x.2.1 then (y.1, y.2.1, y.2.2.1, y.2.2.2 ||| x.2.2.2) else y
    else acc ++ [x]) []

/-- The faults of a waiter's lanes posted (R305). -/
def postLanes (s : State) (w : Waiter) (l : List (Nat × Nat × DWord × Mask)) : State :=
  (joinFaults l).foldl (fun s x => classS s w.team x.1 0 x.2.1 w.pc x.2.2.2 (some x.2.2.1)) s

/-- What the outcomes of a waiter's accesses leave: faults posted, poison consumed, and the accesses that wait again. -/
def afterReplay (s : State) (w : Waiter) (l : List (Acc × Rep)) : State × List (Acc × Rep) :=
  let bad := l.filterMap fun y => match y.2 with
    | .fault code info va => some (code, info, va, y.1.lanes)
    | _ => none
  let s := l.foldl (fun (s : State) y => match y.2 with
    | .fault .. => dropAcc s w.team y.1
    | _ => s) s
  let s := postLanes s w bad
  l.foldl (fun x y =>
    match y.2 with
    | .done | .fault .. => x
    | .poison g => match teamOf x.1 w.team with
      | some t => (poisonKill x.1 t 0x21 w.pc [g] (some y.1.va), x.2)
      | none => x
    | _ => (x.1, x.2 ++ [y])) (s, [])

/-- Accesses put with those of the same entry that stand last. -/
def addAgain (l : List ((Nat × Tag × Nat × Nat) × List Acc)) (k : Nat × Tag × Nat × Nat) (a : Acc) : List ((Nat × Tag × Nat × Nat) × List Acc) :=
  if l.any fun x => x.1 == k then l.map fun x => if x.1 == k then (k, x.2 ++ [a]) else x else l ++ [(k, [a])]

/-- Where a waiter stood that is being replayed: its die, its entry and the page as the team's set of pages counts it. -/
structure From where
  die : Nat
  entry : FbEntry
  page : Nat
  deriving DecidableEq, Repr

/-- Accesses of a page just replayed that wait again: they stand before the team's later ones there, in the entry that they came from; one
whose walk has failed again is pending, at its level; while a frame is being zeroed it stays as it is (R303, R304, R354). -/
def waitHere (s : State) (w : Waiter) (h : From) (level : Option Nat) (accs : List Acc) : State :=
  let s := modTeam (putFront s h.die h.entry.idx { w with kind := .pass accs }) w.team fun t => notePage t h.page
  match level, entryOf s h.die h.entry.idx with
  | some level, some e => putEntry s h.die h.entry.idx (some { e with state := 1, level })
  | _, _ => s

/-- Accesses that wait again: those of the page just replayed in its entry (from'); those of another page join the entry of that page. What
finds no room, or comes from the replay records and meets a frame that is being zeroed, is presented again as a replay record (R302 to
R304, R306, R354). -/
def waitAgain (s : State) (w : Waiter) (from' : Option From) (l : List (Acc × Rep)) : State :=
  let groups := l.foldl (fun g y => match y.2 with
    | .again die tag page level => addAgain g (die, tag, page, level) y.1
    | _ => g) []
  let late := fun (s : State) (accs : List Acc) => modTeam s w.team fun t => { t with replay := t.replay ++ [{ w with kind := .pass accs }] }
  let s := groups.foldl (fun s g =>
    let vp := match g.2 with
      | a :: _ => accPage a g.1.2.2.1
      | [] => 0
    match from'.filter fun h => h.page == vp && h.die == g.1.1 && h.entry.tag == g.1.2.1 && h.entry.page == g.1.2.2.1 with
    | some h => waitHere s w h (some g.1.2.2.2) g.2
    | none =>
      if !(((teamOf s w.team).map fun t => t.pageFits vp).getD true) then late s g.2
      else match addWaiter s g.1.1 g.1.2.1 g.1.2.2.1 g.1.2.2.2 { w with kind := .pass g.2 } with
        | some s => modTeam s w.team fun t => notePage t vp
        | none => late s g.2) s
  let zero := l.filterMap fun y => match y.2 with
    | .zeroing f g => some (y.1, f, g)
    | _ => none
  let s := zero.foldl (fun s z => startZero s z.2.1 z.2.2) s
  if zero.isEmpty then s
  else match from' with
    | some h => waitHere s w h none (zero.map (·.1))
    | none => late s (zero.map (·.1))

/-- A fragment parked on a fault entry is READY to issue its instruction again. -/
def wakeReissue (s : State) (w : Waiter) : State :=
  modTeam s w.team fun t => { t with frags := t.frags.map fun f =>
    if f.num = w.frag then match f.wait with
      | some (.fault _ _) => f.wake
      | _ => f
    else f }

/-- One waiter of a team replayed from an entry of a die (R304). -/
def replayWaiter (s : State) (die : Nat) (e : FbEntry) (w : Waiter) : State :=
  let vp := ((teamOf s w.team).map fun t => waiterPage w e.page t).getD e.page
  let s := modTeam s w.team fun t => dropPage t vp
  match w.kind with
  | .pass accs =>
    let (s, l) := replayAccs s w.team w.frag (some vp) w.pc accs
    let (s, l) := afterReplay s w l
    settleSb (waitAgain s w (some { die, entry := e, page := vp }) l) w.team
  | .reissue => wakeReissue s w
  | .matrix | .ixu | .copy _ | .launch _ | .walk _ _ | .remote .. => s

/-- The oldest replay record of a team presented (R306). -/
def presentOne (s : State) (uid : Nat) : State :=
  match teamOf s uid with
  | none => s
  | some t => match t.replay with
    | [] => s
    | w :: r =>
      let s := modTeam s uid fun t => { t with replay := r }
      match w.kind with
      | .pass accs =>
        let (s, l) := replayAccs s uid w.frag none w.pc accs
        let (s, l) := afterReplay s w l
        waitAgain s w none l
      | .reissue => wakeReissue s w
      | _ => s

/-- The replay records of a resumed team, presented again in their order before its first instruction (R306). -/
def presentReplays (s : State) (uid : Nat) : State :=
  settleSb (foldNat (fun s _ => presentOne s uid) s (((teamOf s uid).map (·.replay.length)).getD 0)) uid

end Sys2Proof.Machine
end

