-- ==== Sys2Proof/Machine/Unit.lean ====
section
/-! DEFINITION. How the matrix unit and the IXU reach memory and scratchpad, and how they stop (R212, R247, R248, R251, R252, R254, R267). -/

namespace Sys2Proof.Machine

/-- Why a unit cannot go on with a command. -/
inductive UStop
  /-- a translation fault (R251) -/
  | miss (die : Nat) (tag : Tag) (page level access : Nat) (va : DWord)
  /-- a frame that is being zeroed (R354) -/
  | zero (frame : Nat) (tag : Tag)
  /-- a scratchpad granule that is not full (R248) -/
  | empty
  /-- a class S error (R252) -/
  | bad (code info : Nat) (va : DWord)
  deriving DecidableEq, Repr

/-- The outcome of a part of a command. -/
abbrev URun (α : Type) := Except UStop α

/-- Where bytes of a command lie. -/
inductive UPlace
  | loc (l : Loc)
  | bank (core off : Nat)
  deriving DecidableEq, Repr

/-- The team of a command; one that has retired is stood in for, with the tag of its core's tenancy (R80). -/
def cmdTeam (s : State) (core uid : Nat) : Team :=
  (teamOf s uid).getD (Team.blank uid ((getCore s core).cowner.setWidth 12) ((getCore s core).tenancy.getD 0) core 0)

/-- Where an address of a command lies (R212, R247, R436). -/
def unitPlace (s : State) (t : Team) (va : DWord) (k : AccKind) : State × URun UPlace :=
  if windowOk va then
    (s, match spTarget s t (va.toNat % 2 ^ 32) with
      | some (core, off) => .ok (.bank core off)
      | none => .error (.bad 0x11 0 va))
  else if !globalOk va then (s, .error (.bad 0x11 0 va))
  else if va.getLsbD 55 then (s, .error (.bad 0x11 6 va))
  else
    match locate s t va k with
    | (s, .at l) => (s, .ok (.loc l))
    | (s, .miss die tag page level) => (s, .error (.miss die tag page level k.bits va))
    | (s, .zero f g) => (s, .error (.zero f g))
    | (s, .perm i) => (s, .error (.bad 0x11 i va))
    | (s, .tail) => (s, .error (.bad 0x12 0 va))

/-- n bytes within one line read by a unit, with their poison; `.fe` waits for full granules (R248). -/
def unitReadAt (s : State) (t : Team) (fe : Bool) (n : Nat) (p : UPlace) : State × URun (List Byte × Option Poison) :=
  match p with
  | .loc l => let (s, b, g) := readLoc s t l n; (s, .ok (b, g))
  | .bank core off =>
    if fe && !(granulesOf off n).all (isFull s core) then (s, .error .empty)
    else (s, .ok (spRead s core off n, spPoison s core off))

/-- Bytes of a command from an address on, read line by line; fuel bounds the lines. -/
def unitRead (t : Team) (fe : Bool) : Nat → State → DWord → Nat → State × URun (List Byte × Option Poison)
  | 0, s, _, _ => (s, .ok ([], none))
  | fuel + 1, s, va, n =>
    if n = 0 then (s, .ok ([], none))
    else
      let m := min n (64 - va.toNat % 64)
      match unitPlace s t va .read with
      | (s, .error e) => (s, .error e)
      | (s, .ok p) =>
        match unitReadAt s t fe m p with
        | (s, .error e) => (s, .error e)
        | (s, .ok (b, g)) =>
          match unitRead t fe fuel s (va + BitVec.ofNat 64 m) (n - m) with
          | (s, .error e) => (s, .error e)
          | (s, .ok (b', g')) => (s, .ok (b ++ b', g.or g'))

/-- One range of a command read. -/
def unitRange (s : State) (t : Team) (fe : Bool) (va : DWord) (n : Nat) : State × URun (List Byte × Option Poison) :=
  unitRead t fe (n / 64 + 2) s va n

/-- Several ranges, in order: their bytes, and the first poison met. -/
def unitRanges (t : Team) (fe : Bool) : State → List (DWord × Nat) → State × URun (List (List Byte) × Option Poison)
  | s, [] => (s, .ok ([], none))
  | s, (va, n) :: r =>
    match unitRange s t fe va n with
    | (s, .error e) => (s, .error e)
    | (s, .ok (b, g)) =>
      match unitRanges t fe s r with
      | (s, .error e) => (s, .error e)
      | (s, .ok (bs, g')) => (s, .ok (b :: bs, g.or g'))

/-- The places of the lines of a range to be written, all translated before any is written. -/
def unitPlaces (t : Team) : Nat → State → DWord → Nat → State × URun (List (UPlace × Nat))
  | 0, s, _, _ => (s, .ok [])
  | fuel + 1, s, va, n =>
    if n = 0 then (s, .ok [])
    else
      let m := min n (64 - va.toNat % 64)
      match unitPlace s t va .write with
      | (s, .error e) => (s, .error e)
      | (s, .ok p) =>
        match unitPlaces t fuel s (va + BitVec.ofNat 64 m) (n - m) with
        | (s, .error e) => (s, .error e)
        | (s, .ok l) => (s, .ok ((p, m) :: l))

/-- Bytes of a command written to their places, with poison (R254). -/
def unitPut (s : State) (t : Team) (pc : DWord) (poison : Option Poison) (l : List (UPlace × Nat)) (b : List Byte) : State :=
  (l.foldl (fun (x : State × List Byte) p =>
    let d := x.2.take p.2
    (match p.1 with
      | .loc a => writeLoc x.1 t a d poison pc
      | .bank core off => spWrite x.1 core off d poison, x.2.drop p.2)) (s, b)).1

/-- One range written by a command: nothing is written where some line of it cannot be. -/
def unitWrite (s : State) (t : Team) (pc : DWord) (poison : Option Poison) (va : DWord) (b : List Byte) : State × URun Unit :=
  match unitPlaces t (b.length / 64 + 2) s va b.length with
  | (s, .error e) => (s, .error e)
  | (s, .ok l) => (unitPut s t pc poison l b, .ok ())

/-- A class S error met in a unit (R252): the record names the command's address. One of a team that has retired freezes no bench (R406). -/
def unitFault (s : State) (t : Team) (code info : Nat) (pc va : DWord) : State :=
  match teamOf s t.uid with
  | some t =>
    let lanes := ((runFrag t).map (·.active)).getD 0
    freezeBench (postFault s t code 0 info pc lanes (some va)) t.core t.bench 1 (slotNo s t) 0
  | none => postRecord s t.launch (fatalCode code)
      { tag := t.tag, trapcode := trapWord code 0 info, pc, team := 0xFFFFFFFF, core := t.core, bench := 0, lanes := 0, rprog := 0, extra := va,
        secondary := false, time := s.gtime }

/-- A waiter for a unit's translation fault, counted in the team's set of pages; none when no entry or waiter is free or the page would
be the set's 17th, and the command then tries again (R302, R303). -/
def unitWaiter (s : State) (t : Team) (pc : DWord) (kind : WaiterKind) (die : Nat) (tag : Tag) (page level access : Nat) (va : DWord) :
    Option State :=
  let w : Waiter := { team := t.uid, frag := ((runFrag t).map (·.num)).getD 0, launch := t.launch, pc, access, kind }
  if !t.pageFits (vpage va) then none
  else (addWaiter s die tag page level w).map fun s => modTeam (noteMiss s t.uid va) t.uid fun u => notePage u (vpage va)

/-- The checks of an operand address at issue (R212, R247, R248, R436): its space, then `.fe`. -/
def checkOperand (s : State) (t : Team) (va : DWord) : Run Unit :=
  if windowOk va then need (spTarget s t (va.toNat % 2 ^ 32)).isSome (.fault 0x11 0 (some va))
  else do
    need (globalOk va) (.fault 0x11 0 (some va))
    need (!va.getLsbD 55) (.fault 0x11 6 (some va))

/-- R243: every lane of the team that has not exited is active. -/
def checkConverged (t : Team) (f : Frag) : Run Unit :=
  need (fullMask t.width &&& ~~~t.exited &&& ~~~f.active == 0) (.s 0x18 0)

/-- A descriptor of a command read at issue: global or scratchpad, the fragment parked on a translation fault;
poison met is consumed (R121, R211, R247; log entry 12). -/
def issueRead (s : State) (t : Team) (f : Frag) (va : DWord) (n : Nat) : Run (State × List Byte) :=
  if windowOk va then
    match spTarget s t (va.toNat % 2 ^ 32) with
    | some (core, off) => match spPoison s core off with
      | some p => .error (.poison false [p] id (some va))
      | none => .ok (s, spRead s core off n)
    | none => .error (.fault 0x11 0 (some va))
  else readRange s t f va n

/-- An HSE descriptor of a command read and checked at issue (R121, R122). -/
def issueHse (s : State) (t : Team) (f : Frag) (code : Nat) (va : DWord) : Run (State × List Byte × HseDesc) := do
  checkOperand s t va
  need (alignedTo va 32) (.fault 0x15 0 (some va))
  let (s, b) ← issueRead s t f va 32
  match hseDesc code b with
  | some d => .ok (s, b, d)
  | none => .error (.fault 0x15 0 (some va))

end Sys2Proof.Machine
end

