-- ==== Sys2Proof/Machine/Ixu.lean ====
section
/-! DEFINITION. The index intersection unit (R266 to R271). -/

namespace Sys2Proof.Machine

/-- A position that is absent (R266). -/
def absent : Word := 0xFFFFFFFF

/-- The next index of one input: none at its end, or the disorder that ends the stream (R267). The poison of its line is not consumed, and
no pair carries it (log entry 55). -/
def ixPeek (s : State) (t : Team) (base : DWord) (pos len : Nat) (last : Option Nat) : State × URun (Option Nat × Bool) :=
  if len ≤ pos then (s, .ok (none, false))
  else
    match unitRange s t false (base + BitVec.ofNat 64 (4 * pos)) 4 with
    | (s, .error e) => (s, .error e)
    | (s, .ok (b, _)) =>
      let v := leNat b
      (s, .ok (match last with
        | some p => if v ≤ p then (none, true) else (some v, false)
        | none => (some v, false)))

/-- A's head consumed. -/
def IxStream.takeA (x : IxStream) (v : Nat) : IxStream := { x with pa := x.pa + 1, lastA := some v }
/-- B's head consumed. -/
def IxStream.takeB (x : IxStream) (v : Nat) : IxStream := { x with pb := x.pb + 1, lastB := some v }

/-- What a mode makes of two heads (R266): the stream after it and the pair it emits, or none when the stream has ended. -/
def ixStep (x : IxStream) (a b : Option Nat) : Option (IxStream × Option (Word × Word)) :=
  let pa : Word := BitVec.ofNat 32 x.pa
  let pb : Word := BitVec.ofNat 32 x.pb
  match x.mode, a, b with
  | .and, some u, some v =>
    if u = v then some ((x.takeA u).takeB v, some (pa, pb)) else if u < v then some (x.takeA u, none) else some (x.takeB v, none)
  | .and, _, _ => none
  | .or, some u, some v =>
    if u = v then some ((x.takeA u).takeB v, some (pa, pb))
    else if u < v then some (x.takeA u, some (pa, absent)) else some (x.takeB v, some (absent, pb))
  | .or, some u, none => some (x.takeA u, some (pa, absent))
  | .or, none, some v => some (x.takeB v, some (absent, pb))
  | .or, none, none => none
  | .diff, some u, some v =>
    if u = v then some ((x.takeA u).takeB v, none) else if u < v then some (x.takeA u, some (pa, absent)) else some (x.takeB v, none)
  | .diff, some u, none => some (x.takeA u, some (pa, absent))
  | .diff, none, _ => none

/-- The next pair of a stream, or none at its end; fuel counts the indices left. -/
def ixPair (t : Team) : Nat → State → IxStream → State × URun (IxStream × Option (Word × Word))
  | 0, s, x => (s, .ok (x, none))
  | fuel + 1, s, x =>
    if x.ended then (s, .ok (x, none))
    else
      match ixPeek s t x.a x.pa x.alen x.lastA with
      | (s, .error e) => (s, .error e)
      | (s, .ok (a, badA)) =>
        match ixPeek s t x.b x.pb x.blen x.lastB with
        | (s, .error e) => (s, .error e)
        | (s, .ok (b, badB)) =>
          if badA || badB then (s, .ok ({ x with ended := true }, none))
          else
            match ixStep x a b with
            | none => (s, .ok (x, none))
            | some (x, some p) => (s, .ok (x, some p))
            | some (x, none) => ixPair t fuel s x

/-- The indices a stream has left, and one step more. -/
def IxStream.fuel (x : IxStream) : Nat := x.alen + x.blen + 1 - x.pa - x.pb

/-- Up to n pairs of a stream (R269, R270), and whether no further pair is left: a stream whose last pair is the n-th is at its end too
(log entry 54). -/
def ixTake (t : Team) : Nat → State → IxStream → State × URun (IxStream × List (Word × Word) × Bool)
  | 0, s, x =>
    match ixPair t x.fuel s x with
    | (s, .error e) => (s, .error e)
    | (s, .ok (y, none)) => (s, .ok (y, [], true))
    | (s, .ok (_, some _)) => (s, .ok (x, [], false))
  | n + 1, s, x =>
    match ixPair t x.fuel s x with
    | (s, .error e) => (s, .error e)
    | (s, .ok (y, none)) => (s, .ok (y, [], true))
    | (s, .ok (y, some p)) =>
      match ixTake t n s y with
      | (s, .error e) => (s, .error e)
      | (s, .ok (z, l, d)) => (s, .ok (z, p :: l, d))

/-- The code of a mode (R266). -/
def ixModeCode : IxMode → Nat
  | .and => 0
  | .or => 1
  | .diff => 2

/-- The stream status word (R271). -/
def ixStatusWord (delivered mode : Nat) (full order done : Bool) : DWord :=
  BitVec.ofNat 64 (delivered * 2 ^ 32 + mode * 16 + full.toNat * 8 + order.toNat * 4 + done.toNat * 2 + 1)

/-- A team after pairs of its stream have been delivered: the context is freed with the last (R267). -/
def ixAfter (t : Team) (x : IxStream) (n : Nat) (done full : Bool) : Team :=
  { t with
    ix := if done then none else some x
    ixStatus := ixStatusWord (min (fld t.ixStatus 32 32 + n) (2 ^ 32 - 1)) (ixModeCode x.mode) full x.ended done }

/-- A scalar that an engine writes: it is no longer pending (R159). -/
def putScalar (s : State) (uid sd : Nat) (v : DWord) : State :=
  modTeam s uid fun t => { setS t (BitVec.ofNat 5 sd) v with scalarPend := t.scalarPend.erase sd }

/-- The bytes of pairs as IXSP writes them (R270). -/
def pairBytes (l : List (Word × Word)) : List Byte := l.flatMap fun p => leBytes 4 p.1.toNat ++ leBytes 4 p.2.toNat

/-- The bytes from an IXSP's address to the end of the scratchpad part (R270). -/
def ixSpRoom (s : State) (t : Team) (addr : DWord) : Nat := match spTarget s t (addr.toNat % 2 ^ 32) with
  | none => 0
  | some (core, off) => partScr (getCore s core).cpart * 65536 - off

/-- What IXSP writes, with the granules it fills (R270). -/
def ixSpWrite (s : State) (t : Team) (addr : DWord) (b : List Byte) : State :=
  match spTarget s t (addr.toNat % 2 ^ 32) with
  | none => s
  | some (core, off) =>
    fillGranules (spWrite s core off b none) ((granulesOf off b.length).map fun g => (core, g))

/-- The core's IXU counter advances with a completed IXSP (R239, R270). -/
def bumpIx (s : State) (core : Nat) : State :=
  let k := getCore s core
  setCore s core { k with ixCounter := k.ixCounter + 1 }

/-- The last IXSP of a team did not stop at MAXOUT (R271). -/
def notFull (s : State) (uid : Nat) : State := modTeam s uid fun u => { u with ixStatus := u.ixStatus &&& ~~~(8 : DWord) }

/-- IXSP of a stream in the unit (R270): its pairs up to MAXOUT, and the terminator at the end. Where the scratchpad part ends first, the
pairs before its end are delivered and PERM stops the command, which does not complete (log entry 54). -/
def runIxsp (s : State) (core : Nat) (t : Team) (x : IxStream) (pc addr : DWord) : State × URun Unit :=
  let room := ixSpRoom s t addr
  let bytes := fun (l : List (Word × Word)) (d : Bool) => pairBytes (if d then l ++ [(absent, absent)] else l)
  match ixTake t (if x.maxOut = 0 then x.fuel else x.maxOut) s x with
  | (s, .error e) => (s, .error e)
  | (s, .ok (y, l, d)) =>
    if (bytes l d).length ≤ room then
      (bumpIx (ixSpWrite (modTeam s t.uid fun u => ixAfter u y l.length d (!d)) t addr (bytes l d)) core, .ok ())
    else
      match ixTake t (room / 8) s x with
      | (s, .error e) => (s, .error e)
      | (s, .ok (y, l, d)) =>
        let s := modTeam s t.uid fun u => ixAfter u y l.length d false
        (unitFault (ixSpWrite s t addr (pairBytes l)) t 0x11 0 pc (addr + BitVec.ofNat 64 room), .ok ())

/-- One IXU command of a team (R268 to R271). An IXSP of helpers alone consumes no pair, and completes (log entry 54). -/
def runIx (s : State) (core : Nat) (t : Team) (c : IxCmd) (pc : DWord) : State × URun Unit :=
  match c with
  | .set x =>
    (modTeam s t.uid fun u => { u with ix := some x, ixStatus := ixStatusWord 0 (ixModeCode x.mode) false false false }, .ok ())
  | .next sb sd =>
    let give := fun (s : State) (l : List (Word × Word)) =>
      let s := (t.primaries (List.range t.width)).foldl (fun s i =>
        let p := (l[t.vis i]?).getD (absent, absent)
        deliverLane s t.uid sb i [Entry.clean p.2, Entry.clean p.1]) s
      putScalar s t.uid sd (BitVec.ofNat 64 l.length)
    match t.ix with
    | none => (give s [], .ok ())
    | some x =>
      match ixTake t (min 32 t.nlane) s x with
      | (s, .error e) => (s, .error e)
      | (s, .ok (y, l, d)) => (give (modTeam s t.uid fun u => ixAfter u y l.length d (fld u.ixStatus 3 1 == 1)) l, .ok ())
  | .sp addr helpers =>
    if helpers then (bumpIx (notFull s t.uid) core, .ok ())
    else
      match t.ix with
      | none => (bumpIx (ixSpWrite (notFull s t.uid) t addr (pairBytes [(absent, absent)])) core, .ok ())
      | some x => runIxsp s core t x pc addr
  | .cnt sd => (putScalar s t.uid sd t.ixStatus, .ok ())

/-- The head of a core's IXU queue gone. -/
def dropIx (s : State) (core : Nat) : State :=
  let k := getCore s core
  setCore s core { k with ixq := k.ixq.drop 1 }

/-- IXU_EXECUTE (R267 to R271): the unit's next command, in acceptance order. A translation fault holds it with the team's
later ones; a frame that is being zeroed leaves it to be tried again. -/
def ixuExecute (s : State) (core : Nat) : State :=
  match (getCore s core).ixq with
  | [] => s
  | (uid, c, pc) :: r =>
    let t := cmdTeam s core uid
    match runIx s core t c pc with
    | (s, .ok ()) => settleSb (dropIx s core) uid
    | (s, .error (.miss die tag page level access va)) =>
      (match unitWaiter s t pc .ixu die tag page level access va with
        | none => s
        | some s =>
          let k := getCore s core
          let mine := (c, pc) :: (r.filter fun x => x.1 == uid).map (·.2)
          modTeam (setCore s core { k with ixq := r.filter fun x => x.1 != uid }) uid fun t => { t with heldIx := mine })
    | (s, .error (.zero f o)) => startZero s f o
    | (s, .error .empty) => s
    | (s, .error (.bad code info va)) => unitFault (settleSb (dropIx s core) uid) t code info pc va

/-- IXU_EXECUTE. -/
def execIxuExecute (core : Nat) (s : State) : Out := .next (if pulseAt s core then ixuExecute s core else s)

/-- Held IXU commands re-enter the tail of the queue (R251, R267). -/
def requeueIx (s : State) (uid : Nat) : State :=
  match teamOf s uid with
  | none => s
  | some t =>
    let k := getCore s t.core
    let s := setCore s t.core { k with ixq := k.ixq ++ t.heldIx.map fun x => (uid, x.1, x.2) }
    modTeam s uid fun t => { t with heldIx := [] }

/-- An IXU command accepted by the core's unit; the region rule comes first (R264). -/
def acceptIx (s : State) (t : Team) (region : Bool) (pc : DWord) (c : IxCmd) : Run State := do
  need (!(region && t.region.isSome)) (.s 0x16 0)
  let k := getCore s t.core
  .ok (setCore s t.core { k with ixq := k.ixq ++ [(t.uid, c, pc)] })

/-- Whether a team of a core holds a stream context, or has an IXSET accepted that will take one (R267). -/
def holdsIx (s : State) (u : Team) : Bool :=
  u.ix.isSome || ((getCore s u.core).ixq.any fun q => q.1 == u.uid && (match q.2.1 with
    | .set _ => true
    | _ => false))

/-- IXSET (R266, R268). -/
def execIxset (mode : IxMode) (sa : SReg) (s : State) : Out :=
  issue (.ixset mode sa) { scalars := [sa] } noLimits
    (fun s t f => do
      checkConverged t f
      let va := getS t sa
      need (globalOk va) (.fault 0x11 0 (some va))
      need (!va.getLsbD 55) (.fault 0x11 6 (some va))
      need (alignedTo va 32) (.fault 0x15 7 (some va))
      let (s, b) ← readRange s t f va 32
      let q := fun (o n : Nat) => leNat ((b.drop o).take n)
      let a : DWord := BitVec.ofNat 64 (q 0 8)
      let d : DWord := BitVec.ofNat 64 (q 8 8)
      let fine := fun (x : DWord) => (globalOk x || windowOk x) && alignedTo x 4
      need (fine a && fine d && q 0x1C 4 == 0) (.fault 0x15 7 (some va))
      need (!(globalOk a && a.getLsbD 55) && !(globalOk d && d.getLsbD 55)) (.fault 0x11 6 (some va))
      let others := s.teams.filter fun u => u.core == t.core && u.uid != t.uid && holdsIx s u
      need (decide (others.length < 16)) (.park .ixuContext id)
      let x : IxStream :=
        { mode, a, b := d, alen := q 0x10 4, blen := q 0x14 4, maxOut := q 0x18 4, pa := 0, pb := 0, lastA := none,
          lastB := none, ended := false }
      acceptIx s t true f.pc (.set x)) s

/-- IXNEXT (R269). -/
def execIxnext (la : BitVec 4) (sd : SReg) (s : State) : Out :=
  issue (.ixnext la sd) { pushes := 2, scalars := [sd] } noLimits
    (fun s t f => do
      checkConverged t f
      match teamOf s t.uid with
      | none => .ok s
      | some u => do
        let (u, sb) ← takeSb (u.stackOp f 0 2 fun _ _ => [Entry.zero, Entry.zero]) f 2 la true
        let u := if sd = 0 then u else { u with scalarPend := u.scalarPend ++ [sd.toNat] }
        acceptIx (setTeam s u) t true f.pc (.next sb sd.toNat)) s

/-- IXSP (R270). -/
def execIxsp (sa : SReg) (s : State) : Out :=
  issue (.ixsp sa) { scalars := [sa] } noLimits
    (fun s t f => do
      checkConverged t f
      let _ ← checkSp s t 8 (getS t sa)
      acceptIx s t true f.pc (.sp (getS t sa) (!t.acts f))) s

/-- IXCNT (R271): the scalar is pending until the team's earlier commands have completed. -/
def execIxcnt (sd : SReg) (s : State) : Out :=
  issue (.ixcnt sd) { scalars := [sd] } noLimits
    (fun s t f => do
      checkConverged t f
      let s := modTeam s t.uid fun u => if sd = 0 then u else { u with scalarPend := u.scalarPend ++ [sd.toNat] }
      acceptIx s t false f.pc (.cnt sd.toNat)) s

end Sys2Proof.Machine
end

