-- ==== Sys2Proof/Machine/Split.lean ====
section
/-! DEFINITION. Split entries: making, spilling, fusing and freeing them; lanes that exit (R76 to R86, R161, R165, R168). -/

namespace Sys2Proof.Machine

/-- A fragment's own call entries freed (R161). -/
def Team.dropCalls (t : Team) (n : Nat) : Team := { t with calls := t.calls.filter fun c => c.owner != n }

/-- The ARRIVED children of a join record. -/
def arrivedOf (t : Team) (p : Nat) : List Frag := t.frags.filter fun f => f.parent == some p && f.st == .arrived

/-- Whether the arrived children of a record are all its live ones (R168). -/
def joinDone (t : Team) (p : Frag) : Bool := decide ((arrivedOf t p.num).length = p.live)

/-- Whether they all stand at the record's depth (R168). -/
def joinDepths (t : Team) (p : Frag) : Bool := (arrivedOf t p.num).all fun c => c.depth == p.depth

/-- The arrived children of a record fused into it (R168): it runs on after the join. Pending results of the children are its own. -/
def fuse (t : Team) (p : Frag) : Team :=
  let cs := arrivedOf t p.num
  let member := cs.foldl (fun m c => m ||| c.member) (0 : Mask)
  let isChild := fun (n : Nat) => cs.any fun c => c.num == n
  let active := p.active &&& member
  let p' : Frag := { p with
    member, active, m0 := p.m0 &&& member, m1 := p.m1 &&& member, m2 := p.m2 &&& member, m3 := p.m3 &&& member,
    st := .run, pc := p.pc + 2, live := 0, spilled := false, shelf := cs.foldl (fun h c => min h c.shelf) 8 }
  let t := cs.foldl (fun t c => t.dropCalls c.num) t
  { setFrag { t with frags := t.frags.filter fun f => !isChild f.num } p' with
    cc := ccMZ t.cc (active == 0)
    sb := t.sb.map fun e => if isChild e.frag then { e with frag := p.num } else e }

/-- What comes of a record whose LIVE has fallen (R80): nothing, fused, freed (and then its own parent's LIVE falls), or a depth
mismatch. Fuel bounds the nesting. -/
def liveFell (t : Team) : Nat → Nat → Team × Bool
  | 0, _ => (t, true)
  | fuel + 1, n =>
    match fragOf t n with
    | none => (t, true)
    | some p =>
      let p := { p with live := p.live - 1 }
      let t := setFrag t p
      if p.live = 0 then
        let t := { (t.dropCalls n) with frags := t.frags.filter fun f => f.num != n }
        match p.parent with
        | some q => liveFell t fuel q
        | none => (t, true)
      else if joinDone t p then
        if joinDepths t p then (fuse t p, true) else (t, false)
      else (t, true)

/-- The records above an entry; fuel counts entries. -/
def ancestors (t : Team) : Nat → Nat → List Nat
  | 0, _ => []
  | fuel + 1, n => match (fragOf t n).bind (·.parent) with
    | some p => p :: ancestors t fuel p
    | none => []

/-- A fragment's masks without some lanes. -/
def Frag.drop (f : Frag) (x : Mask) : Frag :=
  { f with member := f.member &&& ~~~x, active := f.active &&& ~~~x, m0 := f.m0 &&& ~~~x, m1 := f.m1 &&& ~~~x,
           m2 := f.m2 &&& ~~~x, m3 := f.m3 &&& ~~~x }

/-- Lanes leave the team (R165): from the fragment's masks and slots, from the member and active masks of the records above, and
from the helper mask; what they hold is discarded. -/
def exitLanes (t : Team) (f : Frag) (x : Mask) : Team :=
  let up := ancestors t 64 f.num
  let t := { t with frags := t.frags.map fun (g : Frag) =>
    if g.num = f.num then g.drop x
    else if up.contains g.num then { g with member := g.member &&& ~~~x, active := g.active &&& ~~~x } else g }
  let t := t.mapLanes fun i l => if x.getLsbD i then { stack := [], locals := [] } else l
  { t with helpers := t.helpers &&& ~~~x, exited := t.exited ||| x }

end Sys2Proof.Machine
end

