-- ==== Sys2Proof/Machine/Copy.lean ====
section
/-! DEFINITION. The copy engines: COPY, an engine's turn, a command's completion, and CCTX (R235 to R239, R295, R296, R398, R434 to R436). -/

namespace Sys2Proof.Machine

/-- The fields of a copy descriptor (R236). -/
structure CopyDesc where
  src : DWord
  dst : DWord
  len : Nat
  rows : Nat
  sstride : DWord
  dstride : DWord
  index : DWord
  pattern : DWord
  last : DWord
  deriving DecidableEq, Repr

/-- A descriptor's 64 bytes read (R236). -/
def copyDesc (b : List Byte) : CopyDesc :=
  let q := fun (o : Nat) => BitVec.ofNat 64 (leNat ((b.drop o).take 8))
  let w := fun (o : Nat) => leNat ((b.drop o).take 4)
  { src := q 0, dst := q 8, len := w 0x10, rows := w 0x14, sstride := q 0x18, dstride := q 0x20, index := q 0x28,
    pattern := q 0x30, last := q 0x38 }

/-- Whether an address lies in a space (R212). -/
def inSpace (va : DWord) : Bool := globalOk va || windowOk va

/-- Whether a scratchpad address names a neighbour's core under another tag (R236). -/
def foreignSp (s : State) (t : Team) (va : DWord) : Bool :=
  let c := getCore s (t.core / 4 * 4 + fld va 22 2)
  windowOk va && va.getLsbD 24 && !(c.tenancy.isSome && c.cowner.setWidth 12 == t.tag)

/-- Whether a descriptor keeps R236. -/
def CopyDesc.ok (s : State) (t : Team) (k : CopyKind) (fe : Bool) (d : CopyDesc) : Bool :=
  let hasSrc := k == .oneD || k == .twoD || k == .gather
  let hasRows := k == .twoD || k == .gather
  (hasSrc || d.src == 0) && (hasRows || (d.rows == 0 && d.sstride == 0)) && (k == .twoD || d.dstride == 0) &&
    (k == .gather || d.index == 0) && (k == .fill || d.pattern == 0) && d.last == 0 && (!hasRows || d.rows != 0) &&
    (!hasSrc || inSpace d.src) && inSpace d.dst && (k != .gather || (inSpace d.index && alignedTo d.index 4)) &&
    !(fe && globalOk d.dst) && !(hasSrc && foreignSp s t d.src) && !foreignSp s t d.dst &&
    !(k == .gather && foreignSp s t d.index)

/-- The counter, queue and state of a copy context. -/
def getCtx (s : State) (die ctx : Nat) : CopyCtx := tabGet CopyCtx.reset (getDie s die).ctxs ctx

/-- The state with a copy context replaced. -/
def setCtx (s : State) (die ctx : Nat) (x : CopyCtx) : State :=
  let d := getDie s die
  setDie s die { d with ctxs := tabSet d.ctxs ctx x }

/-- The checks of a copy context operand (R235): its number, and that the launch's tag holds it. -/
def checkCtx (s : State) (t : Team) (w : DWord) : Run Nat := do
  need (decide (w.toNat ≤ 767)) (.s 0x1B 1)
  let cc : Word := tabGet 0 (getDie s (dieOf t.core)).cctx w.toNat
  need (cc.getLsbD 31 && cc.setWidth 12 == t.tag) (.s 0x1B 0)
  .ok w.toNat

/-- A command appended to a context; 32 queued park the fragment (R235). The ticket is what the counter will reach. -/
def enqueueCopy (s : State) (die ctx : Nat) (c : CopyCmd) : Run (State × DWord) := do
  let x := getCtx s die ctx
  need (decide (x.queue.length < 32)) (.park (.copyQueue ctx) id)
  .ok (setCtx s die ctx { x with queue := x.queue ++ [c] }, x.counter + BitVec.ofNat 64 (x.queue.length + 1))

/-- COPY (R235, R236). -/
def execCopy (kind : CopyKind) (fe : Bool) (sd sa sb : SReg) (s : State) : Out :=
  issue (.copy kind fe sd sa sb) { access := true, closed := true, scalars := [sd, sa, sb] } noLimits
    (fun s t f => do
      let ctx ← checkCtx s t (getS t sb)
      let die := dieOf t.core
      if !t.acts f then .ok (modTeam s t.uid fun u => setS u sd (getCtx s die ctx).counter)
      else
        let va := getS t sa
        need (alignedTo va 64) (.fault 0x15 4 (some va))
        let (s, b) ← readRange s t f va 64
        let d := copyDesc b
        need (d.ok s t kind fe) (.fault 0x15 4 (some va))
        let c : CopyCmd :=
          { kind, fe, src := d.src, dst := d.dst, len := d.len, rows := d.rows, sstride := d.sstride, dstride := d.dstride,
            index := d.index, pattern := d.pattern, tag := t.tag, team := t.uid, launch := t.launch, core := t.core, pc := f.pc,
            progress := 0, source := none, root := none }
        let (s, ticket) ← enqueueCopy s die ctx c
        .ok (modTeam s t.uid fun u => setS u sd ticket)) s

/-- The bytes that a command moves. -/
def CopyCmd.total (c : CopyCmd) : Nat :=
  match c.kind with
  | .twoD | .gather => c.rows * c.len
  | _ => c.len

/-- The address of the destination byte at a place of the command's order (R236). -/
def CopyCmd.dstAt (c : CopyCmd) (p : Nat) : DWord :=
  match c.kind with
  | .twoD => c.dst + BitVec.ofNat 64 (p / c.len) * c.dstride + BitVec.ofNat 64 (p % c.len)
  | _ => c.dst + BitVec.ofNat 64 p

/-- Where a run of bytes lies as an engine reaches it. -/
inductive CopyPlace
  | global (pa : Nat) (otag : Tag) (prot : Nat)
  | scratch (core off : Nat)
  | remote (pkg : Nat)
  deriving DecidableEq, Repr

/-- Why an engine cannot go on at a byte, with the byte's address; `away` is a wait for n bytes of another package (R437). -/
inductive CopyStop
  | miss (die : Nat) (tag : Tag) (page level : Nat) (va : DWord)
  | zero (frame : Nat) (tag : Tag)
  | bad (code info : Nat) (va : DWord)
  | away (pkg : Nat) (va : DWord) (n : Nat)
  deriving DecidableEq, Repr

/-- The outcome of an engine's translation as a place; a register block is no memory. -/
def copyTr (die : Nat) (tag : Tag) (va : DWord) (k : AccKind) : Tr → Except CopyStop CopyPlace
  | .ok pa e => if Config.hbmEnd ≤ pa then .error (.bad 0x11 4 va) else .ok (.global pa e.otag e.prot)
  | .xlate level => .error (.miss die tag (va.toNat / 2 ^ 21) level va)
  | .perm i => .error (.bad 0x11 i va)
  | .tail => .error (.bad 0x12 0 va)
  | .zero f o => .error (.zero f o)
  | .pod => .error (.bad 0x11 7 va)

/-- Where an address of a command lies for a kind of access (R212, R295, R434, R435). -/
def copyPlace (s : State) (die engine : Nat) (c : CopyCmd) (va : DWord) (k : AccKind) : State × Except CopyStop CopyPlace :=
  if windowOk va then
    (s, match spOf s c.core c.tag (va.toNat % 2 ^ 32) with
      | some (core, off) => .ok (.scratch core off)
      | none => .error (.bad 0x11 0 va))
  else if !globalOk va then (s, .error (.bad 0x11 0 va))
  else if va.getLsbD 55 then
    let pkg := fld va 47 8
    if fld s.fabric.fpod 8 8 < pkg then (s, .error (.bad 0x11 7 va))
    else if pkg ≠ fld s.fabric.fpod 0 8 then (s, .ok (.remote pkg))
    else
      match podAdmit s pkg c.tag with
      | none => (s, .error (.bad 0x11 7 va))
      | some g => (s, copyTr (homeDie s g) g (va &&& 0x00007FFFFFFFFFFF) k (translateWalk s g (va &&& 0x00007FFFFFFFFFFF) k))
  else
    let (s, tr) := translateEngine s die engine c.tag va k
    (s, copyTr die c.tag va k tr)

/-- n bytes read at a place of this package, and their poison (R237, R238). -/
def copyRead (s : State) (p : CopyPlace) (n : Nat) : State × List Byte × Option Poison :=
  match p with
  | .global pa otag prot =>
    let s := homeTouch s (pa / 64) otag prot true
    (s, Memory.read s.mem pa n, homePoison s (pa / 64))
  | .scratch core off => (s, spRead s core off n, spPoison s core off)
  | .remote _ => (s, [], none)

/-- The number of a place's first byte among all bytes of HBM and of the scratchpads. -/
def CopyPlace.key : CopyPlace → Option Nat
  | .global pa _ _ => some pa
  | .scratch core off => some (2 ^ 60 + 2 ^ 22 * core + off)
  | .remote _ => none

/-- Source bytes that the command has itself overwritten read as they were (R236). -/
def CopyCmd.before (c : CopyCmd) (p : CopyPlace) (b : List Byte) : List Byte :=
  match p.key with
  | none => b
  | some k => if c.kept.isEmpty then b else b.mapIdx fun i x => ((c.kept.find? fun e => e.1 == k + i).map (·.2)).getD x

/-- Up to n bytes read from an address on, line by line, up to the first that cannot be read (R238). What another package holds is what it
has answered, and then the next line is asked for; its poison comes with the copying context's own tag (R437). -/
def copySrc (die engine : Nat) (c : CopyCmd) : Nat → State → DWord → Nat → State × List Byte × Option Poison × Option CopyStop
  | 0, s, _, _ => (s, [], none, none)
  | fuel + 1, s, va, n =>
    if n = 0 then (s, [], none, none)
    else
      let m := min n (64 - va.toNat % 64)
      match copyPlace s die engine c va .read with
      | (s, .error e) => (s, [], none, some e)
      | (s, .ok (.remote pkg)) =>
        if c.arrived.isEmpty then (s, [], none, some (.away pkg va m))
        else
          let b := c.arrived.take m
          let (s, b', g', e) := copySrc die engine { c with arrived := [] } fuel s (va + BitVec.ofNat 64 b.length) (n - b.length)
          (s, b ++ b', if c.tainted then some (fabricPoison c.tag) else g', e)
      | (s, .ok p) =>
        let (s, b, g) := copyRead s p m
        let (s, b', g', e) := copySrc die engine c fuel s (va + BitVec.ofNat 64 m) (n - m)
        (s, c.before p b ++ b', if g.isSome then g else g', e)

/-- The lines of the store area from which an SS.LOAD has its bytes p to p + n - 1 read at their home slices, and the poison met there (R398,
R423); a page that no version has written has none (R390). -/
def storeTouch (s : State) (c : CopyCmd) (p n : Nat) : State × Option Poison :=
  let o := c.src.toNat + p
  foldNat (fun x i =>
    let at' := o / 64 * 64 + 64 * i
    match (c.pages[at' / 4096 - c.src.toNat / 4096]?).join with
    | some g =>
      let line := (granuleAddr x.1 g + at' % 4096) / 64
      let s := homeTouch x.1 line 0 0 true
      (s, x.2.or (homePoison s line))
    | none => x) (s, none) ((o % 64 + n + 63) / 64)

/-- The source bytes of n bytes at a place of the command's order, or of as many as can be read. The poison of the line that holds an index
of .gather reaches nothing and is not consumed: R238 speaks of source bytes (log entry 55). -/
def copyBytes (s : State) (die engine : Nat) (c : CopyCmd) (n : Nat) : State × List Byte × Option Poison × Option CopyStop :=
  let p := c.progress
  let from' := fun (s : State) (va : DWord) => copySrc die engine c 4 s va n
  match c.source with
  | some b =>
    let (s, g) := storeTouch s c p n
    (s, (b.drop p).take n, g, none)
  | none =>
    match c.kind with
    | .oneD => from' s (c.src + BitVec.ofNat 64 p)
    | .twoD => from' s (c.src + BitVec.ofNat 64 (p / c.len) * c.sstride + BitVec.ofNat 64 (p % c.len))
    | .gather =>
      let ix := c.index + BitVec.ofNat 64 (4 * (p / c.len))
      if globalOk ix ∧ ix.getLsbD 55 then (s, [], none, some (.bad 0x11 6 ix))
      else
        match copySrc die engine c 1 s ix 4 with
        | (s, _, _, some e) => (s, [], none, some e)
        | (s, b, _, none) => from' s (c.src + BitVec.ofNat 64 (leNat b) * c.sstride + BitVec.ofNat 64 (p % c.len))
    | .fill => (s, (List.range n).map fun i => (c.pattern >>> (8 * ((p + i) % 8))).setWidth 8, none, none)
    | .zero => (s, List.replicate n 0, none, none)

/-- Whether some whole number k with lo < k < hi has a ≤ k × d ≤ b, for d not negative. -/
def multipleIn (lo hi d a b : Int) : Bool :=
  if d = 0 then decide (lo + 1 < hi) && decide (a ≤ 0) && decide (0 ≤ b)
  else decide (max (lo + 1) (-((-a) / d)) ≤ min (hi - 1) (b / d))

/-- Whether a byte of the command that comes after the first p lies in the 16 bytes from g on: the granule has not landed. -/
def CopyCmd.later (c : CopyCmd) (p : Nat) (g : Nat) : Bool :=
  let inRun := fun (a n : Nat) => decide (a < g + 16) && decide (g < a + n)
  match c.kind with
  | .twoD =>
    let r := p / c.len
    let d := c.dstride.toInt
    let lo : Int := g - c.len + 1 - c.dst.toNat
    let hi : Int := g + 15 - c.dst.toNat
    (decide (r < c.rows) && inRun (c.dstAt p).toNat (c.len - p % c.len)) ||
      (if 0 ≤ d then multipleIn r c.rows d lo hi else multipleIn r c.rows (-d) (-hi) (-lo))
  | _ => decide (p < c.total) && inRun (c.dstAt p).toNat (c.total - p)

/-- The granules of a run of destination bytes whose last byte has landed are set full (R237). -/
def fillLanded (s : State) (c : CopyCmd) (core off : Nat) (va n p : Nat) : State :=
  fillGranules s (((granulesOf off n).filter fun g => !c.later p (va - off + g)).map fun g => (core, g))

/-- The places of n bytes from an address on, page by page: each place's first byte and length. -/
def copySegs (s : State) (die engine : Nat) (c : CopyCmd) (va : DWord) (n : Nat) : List (Nat × Nat) :=
  let at' := va.toNat % 2 ^ 21
  (List.range ((at' + n + 2 ^ 21 - 1) / 2 ^ 21)).filterMap fun i =>
    let skip := if i = 0 then 0 else 2 ^ 21 * i - at'
    match (copyPlace s die engine c (va + BitVec.ofNat 64 skip) .read).2 with
    | .ok p => p.key.map fun k => (k, min (n - skip) (if i = 0 then 2 ^ 21 - at' else 2 ^ 21))
    | .error _ => none

/-- The places of a command's source range (R236). -/
def srcSegs (s : State) (die engine : Nat) (c : CopyCmd) : List (Nat × Nat) :=
  if c.source.isSome then []
  else
    match c.kind with
    | .oneD => copySegs s die engine c c.src c.len
    | .twoD => (List.range c.rows).flatMap fun r => copySegs s die engine c (c.src + BitVec.ofNat 64 r * c.sstride) c.len
    | .gather => (List.range c.rows).flatMap fun r =>
        match copySrc die engine c 1 s (c.index + BitVec.ofNat 64 (4 * r)) 4 with
        | (_, b, _, none) => copySegs s die engine c (c.src + BitVec.ofNat 64 (leNat b) * c.sstride) c.len
        | _ => []
    | .fill | .zero => []

/-- Whether a byte lies in the source range. -/
def inSegs (segs : List (Nat × Nat)) (k : Nat) : Bool := segs.any fun x => decide (x.1 ≤ k) && decide (k < x.1 + x.2)

/-- The bytes that a destination gets (R236): those that lie in the source range too are undefined, a free value each, and
what they held is kept with the command, so that no other byte is touched by it. -/
def overlapped (s : State) (segs : List (Nat × Nat)) (c : CopyCmd) (d : CopyPlace) (b : List Byte) : State × CopyCmd × List Byte :=
  match d.key with
  | none => (s, c, b)
  | some k =>
    if (List.range b.length).any fun i => inSegs segs (k + i) then
      let old := match d with
        | .global pa _ _ => Memory.read s.mem pa b.length
        | .scratch core off => spRead s core off b.length
        | .remote _ => b
      let (s, v) := freeBytes s b.length
      let kept := (old.mapIdx fun i x => (k + i, x)).filter fun e => inSegs segs e.1 && !c.kept.any fun e' => e'.1 == e.1
      (s, { c with kept := c.kept ++ kept }, (b.zip v).mapIdx fun i x => if inSegs segs (k + i) then x.2 else x.1)
    else (s, c, b)

/-- One run of a command, within one row and one line of the destination: the command with the bytes moved, and what stopped it. -/
def copyRun (s : State) (die ctx : Nat) (segs : List (Nat × Nat)) (c : CopyCmd) (budget : Nat) : State × CopyCmd × Option CopyStop :=
  let engine := ctx / 64
  let p := c.progress
  let va := c.dstAt p
  match copyPlace s die engine c va .write with
  | (s, .error e) => (s, c, some e)
  | (s, .ok d) =>
    let line := match d with
      | .scratch _ off => 128 - off % 128
      | _ => 64 - va.toNat % 64
    let n := min (min budget line) (if c.len = 0 then 0 else c.len - p % c.len)
    let (s, b, g, e) := copyBytes s die engine c n
    if b = [] then (s, c, e)
    else
      let (s, c, b) := overlapped s segs c d b
      let s := match d with
        | .global pa otag prot => homeWrite s pa b otag prot g [] 2
        | .scratch core off =>
          let s := spWrite s core off b g
          if c.fe then fillLanded s c core off va.toNat b.length (p + b.length) else s
        | .remote pkg => podSend s c.team 0 pkg va 0 (.copyWrite (768 * die + ctx)) c.pc
      (s, { c with progress := p + b.length, arrived := [], tainted := false }, e)

/-- The runs of one turn (R295). -/
def copyMove (die ctx : Nat) (segs : List (Nat × Nat)) : Nat → Nat → State → CopyCmd → State × CopyCmd × Option CopyStop
  | 0, _, s, c => (s, c, none)
  | fuel + 1, budget, s, c =>
    if budget = 0 ∨ c.total ≤ c.progress then (s, c, none)
    else
      match copyRun s die ctx segs c budget with
      | (s, c', some e) => (s, c', some e)
      | (s, c', none) => copyMove die ctx segs fuel (budget - (c'.progress - c.progress)) s c'

/-- A copy's class S fault at an address: posted for the context that owns the copy context, with the context's number (R238). While the
team that issued the COPY is resident it is that team's fault (R186, R405, R412), and where the context runs its bench freezes (R406). -/
def postCopyFault (s : State) (c : CopyCmd) (ctx code info : Nat) (va : DWord) : State :=
  let runs := match slotOfTag s c.tag with
    | some n => (getSlot s n).st == 2
    | none => false
  let r : FaultRec :=
    { tag := c.tag, trapcode := trapWord code 0 info, pc := c.pc, team := 0xFFFFFFFF, core := c.core, bench := 0, lanes := 0, rprog := 0,
      extra := BitVec.ofNat 64 ctx, secondary := false, time := s.gtime }
  match teamOf s c.team with
  | none => postRecord s c.launch (fatalCode code) r
  | some t =>
    let s := postRecord (traceEvent (latchBsec s t code va) t 3 code) c.launch (fatalCode code) { r with team := t.number, bench := t.bench, rprog := t.rprog }
    let s := modTeam s t.uid fun u => { u with trapcode := r.trapcode }
    if runs then freezeBench s t.core t.bench 1 (slotNo s t) 0 else s

/-- A context stops at a byte (R238): on a page that the walker will replay, on an answer of another package, or with a fault posted. A
frame that is being zeroed, or a full fault buffer, leaves it to try again at its next turn. -/
def stopCopy (s : State) (die ctx : Nat) (c : CopyCmd) (e : CopyStop) : State :=
  let stall := fun (s : State) => setCtx s die ctx { getCtx s die ctx with stalled := true }
  match e with
  | .miss d tag page level va =>
    let w : Waiter := { team := c.team, frag := 0, launch := c.launch, pc := c.pc, access := 16, kind := .copy (768 * die + ctx) }
    let s := match teamOf s c.team with
      | some t => latchBsec s t 0x10 va
      | none => s
    match addWaiter s d tag page level w with
    | some s => stall s
    | none => s
  | .zero f o => startZero s f o
  | .away pkg va n => stall (podSend s c.team 0 pkg va 0 (.copyRead (768 * die + ctx) n) c.pc)
  | .bad code info va => postCopyFault (stall s) c ctx code info va

/-- Whether a context has work for its engine: a command whose bytes are not all moved, and nothing that holds it. -/
def CopyCtx.ready (x : CopyCtx) : Bool :=
  match x.queue with
  | [] => false
  | c :: _ => !x.stalled && !x.quiesced && decide (c.progress < c.total)

/-- COPY_ENGINE_TURN (R295): the next context in round-robin order moves up to 512 bytes of its oldest command. -/
def execCopyEngineTurn (die engine : Nat) (s : State) : Out :=
  let start := tabGet 0 (getDie s die).rr engine
  let order := (List.range 64).map fun i => 64 * engine + (start + i) % 64
  match order.find? fun x => (getCtx s die x).ready with
  | none => .next s
  | some ctx =>
    match (getCtx s die ctx).queue with
    | [] => .next s
    | c :: r =>
      let d := getDie s die
      let s := setDie s die { d with rr := tabSet d.rr engine ((ctx + 1) % 64) }
      let (s, c', e) := copyMove die ctx (srcSegs s die engine c) 512 512 s c
      let s := setCtx s die ctx { getCtx s die ctx with queue := c' :: r }
      .next (match e with
        | some e => stopCopy s die ctx c' e
        | none => s)

/-- COPY_COMPLETE (R237): a command whose last byte is written leaves the queue, and the counter becomes its ticket; a byte of another
package is written when that package has acknowledged it (R437). -/
def execCopyComplete (die ctx : Nat) (s : State) : Out :=
  let x := getCtx s die ctx
  let away := s.fabric.msgs.any fun m => m.req == .copyWrite (768 * die + ctx)
  .next (match x.queue with
    | c :: r =>
      if c.total ≤ c.progress ∧ !away then releaseHeld (setCtx s die ctx { x with queue := r, counter := x.counter + 1 }) else s
    | [] => s)

/-- CCTX_WRITE (R296): a change of TAG or EN is ignored while the queue is not empty. A new TAG finds the context as after reset, but for
its counter (R296, R354). -/
def writeCctx (s : State) (die ctx : Nat) (value : Word) : State :=
  let d := getDie s die
  let old : Word := tabGet 0 d.cctx ctx
  let new := value &&& 0x80000FFF
  let changes := old.setWidth 12 != (new.setWidth 12 : Tag) || (old.getLsbD 31 && !new.getLsbD 31)
  if changes && !(getCtx s die ctx).queue.isEmpty then s
  else
    let s := setDie s die { d with cctx := tabSet d.cctx ctx new }
    if old.setWidth 12 = (new.setWidth 12 : Tag) then s
    else setCtx s die ctx { CopyCtx.reset with counter := (getCtx s die ctx).counter }

/-- CCTX_WRITE. -/
def execCctxWrite (die ctx : Nat) (value : BitVec 32) (s : State) : Out :=
  .next (if die < 4 ∧ ctx < 768 then writeCctx s die ctx value else s)

end Sys2Proof.Machine
end

