-- ==== Sys2Proof/Machine/Pool.lean ====
section
/-! DEFINITION. Page pools: POOL.TAKE, POOL.GIVE, POOLCTL and POOLLIST (R386, R387). -/

namespace Sys2Proof.Machine

/-- Pages of an enabled pool (R386). -/
def Pool.count (p : Pool) : Nat := fld p.ctl 0 24

/-- Pages free (R386). -/
def Pool.free (p : Pool) : Nat := p.count + 1 - p.next + p.given.length

/-- Whether a page is free (R386). -/
def Pool.isFree (p : Pool) (n : Nat) : Bool := p.given.contains n || decide (p.next ≤ n)

/-- The page that a take returns, and the pool after it (R387). -/
def Pool.take (p : Pool) : Option (Nat × Pool) :=
  match p.given with
  | n :: r => some (n, { p with given := r })
  | [] => if p.next ≤ p.count then some (p.next, { p with next := p.next + 1 }) else none

/-- A pool, and the state with a pool replaced. -/
def getPool (s : State) (n : Nat) : Pool := tabGet Pool.reset s.hub.pools n
/-- The state with a pool replaced. -/
def setPool (s : State) (n : Nat) (p : Pool) : State := { s with hub := { s.hub with pools := tabSet s.hub.pools n p } }

/-- The checks of a pool operand (R387). -/
def checkPool (s : State) (t : Team) (w : DWord) : Run Nat := do
  need (fld w 6 58 == 0) (.s 0x15 4)
  let n := fld w 0 6
  let p := getPool s n
  need (p.ctl.getLsbD 63 && fld p.ctl 32 12 == t.tag.toNat) (.s 0x1B 3)
  .ok n

/-- POOL.TAKE (R387). -/
def execPoolTake (sd sa : SReg) (s : State) : Out :=
  actIns (.poolTake sd sa) sd [sd, sa]
    (fun s t _ => do
      let n ← checkPool s t (getS t sa)
      .ok (match (getPool s n).take with
        | none => actResult s t.uid sd none
        | some (k, p) => actResult (setPool s n p) t.uid sd (some (BitVec.ofNat 64 k)))) s

/-- POOL.GIVE (R387). -/
def execPoolGive (sa sb : SReg) (s : State) : Out :=
  actIns (.poolGive sa sb) 0 [sa, sb]
    (fun s t _ => do
      let n ← checkPool s t (getS t sa)
      let p := getPool s n
      let k := (getS t sb).toNat
      .ok (if k = 0 ∨ p.count < k ∨ p.isFree k then actResult s t.uid 0 none
        else actResult (setPool s n { p with given := k :: p.given }) t.uid 0 (some 0))) s

/-- POOLCTL written (R386): while EN is 1 only a write that clears it counts; setting EN makes the list anew; a change of TAG
zeroes the list area. -/
def writePoolctl (s : State) (n : Nat) (v : DWord) : State :=
  let p := getPool s n
  let v := v &&& 0xF0000FFF00FFFFFF
  if p.ctl.getLsbD 63 && v.getLsbD 63 then s
  else
    let base := fld p.list 6 38 * 64
    let s := if fld p.ctl 32 12 = fld v 32 12 then s
      else { s with mem := Memory.clear s.mem base (base + 64 + 4 * p.count) }
    setPool s n { p with ctl := v, given := [], next := 1 }

/-- POOLLIST written (R386): ignored while EN is 1. -/
def writePoollist (s : State) (n : Nat) (v : DWord) : State :=
  let p := getPool s n
  if p.ctl.getLsbD 63 then s else setPool s n { p with list := v &&& 0x00000FFFFFFFFFC0 }

/-- POOLCTL_WRITE. -/
def execPoolctlWrite (pool : Nat) (value : BitVec 64) (s : State) : Out := .next (if pool < 64 then writePoolctl s pool value else s)

end Sys2Proof.Machine
end

