-- ==== Sys2Proof/Machine/StateStore.lean ====
section
/-! DEFINITION. The sequence state store: records, versions, the SS instructions and SSCFG (R388 to R400). -/

namespace Sys2Proof.Machine

/-- A record slot. -/
def Store.rec' (st : Store) (j : Nat) : SsRec := tabGet SsRec.reset st.recs j

/-- How many references a granule has: version roots, held roots and map entries (R390). -/
def Store.refs (st : Store) (held : List Nat) (g : Nat) : Nat :=
  ((st.roots ++ held).filter fun x => x == g).length +
    (st.granules.map fun p => ((st.children p.1).filter fun x => x == g).length).sum

/-- A fresh granule with these contents: the lowest of the supply that is not in use (log entry 31). -/
def Store.alloc (st : Store) (x : Granule) : Store × Nat :=
  let g := ((List.range (st.granules.length + 1)).find? fun n => !st.granules.any fun y => y.1 == n).getD 0
  ({ st with granules := tabSet st.granules g x, taken := st.taken + 1, free := st.free - 1 }, g)

/-- A granule that may be written: itself where nothing else maps it, a copy where something does, a fresh one where there is
none (R390). -/
def Store.own (st : Store) (held : List Nat) (g : Option Nat) (empty : Granule) : Store × Nat :=
  match g with
  | none => st.alloc empty
  | some g => if 1 < st.refs held g then st.alloc (tabGet empty st.granules g) else (st, g)

/-- The path of a page in a record's map (R389): the indices at each level of map granules. -/
def pagePath (pages page : Nat) : List Nat :=
  if pages ≤ 1 then [] else if pages ≤ 512 then [page] else [page / 512, page % 512]

/-- The map entries of a granule. -/
def Granule.entries : Granule → Tab Nat
  | .map es => es
  | .body _ => []

/-- The bytes of a body granule. -/
def Granule.cells : Granule → List Host.Cell
  | .body c => c
  | .map _ => []

/-- The granule that an index of a map names. -/
def entryAt (es : Tab Nat) (i : Nat) : Option Nat := (es.find? fun x => x.1 == i).map (·.2)

/-- Bytes written into one page below a root, copying what is shared: the new root (R389, R390). -/
def Store.writePage (held : List Nat) (off : Nat) (b : List Byte) : List Nat → Store → Option Nat → Store × Nat
  | [], st, root =>
    let (st, g) := st.own held root (.body [])
    ({ st with granules := tabSet st.granules g (.body (Memory.splice (tabGet (.body []) st.granules g).cells off b)) }, g)
  | i :: r, st, root =>
    let (st, g) := st.own held root (.map [])
    let es := (tabGet (.map []) st.granules g).entries
    let (st, c) := Store.writePage held off b r st (entryAt es i)
    ({ st with granules := tabSet st.granules g (.map (tabSet es i c)) }, g)

/-- Bytes written into a body from an offset on, page by page; fuel bounds the pages. -/
def Store.writeBody (held : List Nat) (pages : Nat) : Nat → Store → Option Nat → Nat → List Byte → Store × Option Nat
  | 0, st, root, _, _ => (st, root)
  | fuel + 1, st, root, off, b =>
    if b = [] then (st, root)
    else
      let n := min b.length (4096 - off % 4096)
      let (st, g) := Store.writePage held (off % 4096) (b.take n) (pagePath pages (off / 4096)) st root
      Store.writeBody held pages fuel st (some g) (off + n) (b.drop n)

/-- The body granule that a page of a version maps. -/
def Store.bodyOf (st : Store) : List Nat → Option Nat → Option Nat
  | [], root => root
  | i :: r, root => match root with
    | some g => Store.bodyOf st r (entryAt (tabGet (.map []) st.granules g).entries i)
    | none => none

/-- Bytes of a version from an offset on: what no version has written reads as zero (R390). -/
def Store.readBody (st : Store) (pages : Nat) (root : Option Nat) : Nat → Nat → Nat → List Byte
  | 0, _, _ => []
  | fuel + 1, off, n =>
    if n = 0 then []
    else
      let m := min n (4096 - off % 4096)
      let b := match st.bodyOf (pagePath pages (off / 4096)) root with
        | some g => Memory.slice (tabGet (.body []) st.granules g).cells (off % 4096) m
        | none => List.replicate m 0
      b ++ Store.readBody st pages root fuel (off + m) (n - m)

/-- The granules of the pages of a version that n bytes from an offset on lie in. -/
def Store.pageGranules (st : Store) (pages : Nat) (root : Option Nat) (off n : Nat) : List (Option Nat) :=
  if n = 0 then []
  else (List.range ((off + n - 1) / 4096 - off / 4096 + 1)).map fun i => st.bodyOf (pagePath pages (off / 4096 + i)) root

/-- A granule's 64 lines written in the store area as the supply holds it, each with the poison of the line that it is a copy of (R390,
R354). -/
def granuleOut (s : State) (from' : Option Nat) (g : Nat) : State :=
  let cells := (tabGet (.body []) s.hub.store.granules g).cells
  foldNat (fun s i =>
    let p := from'.bind fun x => homePoison s (granuleAddr s x / 64 + i)
    homeWrite s (granuleAddr s g + 64 * i) (Memory.slice cells (64 * i) 64) 0 0 p [] 1) s 64

/-- Bytes of a body as they reach the store area (R389, R390): the granules that the store has taken, then what it has written. The pages'
granules before and after. -/
def storeOut (s : State) : List (Option Nat) → List (Option Nat) → Nat → List Byte → State
  | old :: olds, some g :: news, off, b =>
    let s := if old = some g then s else granuleOut s old g
    let n := min b.length (4096 - off % 4096)
    storeOut (homeWrite s (granuleAddr s g + off % 4096) (b.take n) 0 0 none [] 65) olds news (off + n) (b.drop n)
  | _, _, _, _ => s

/-- A team's CC.F and result: a status sets F and bit 63 (R395). -/
def ssResult (s : State) (uid : Nat) (sd : SReg) (r : Except Nat DWord) : State :=
  modTeam s uid fun u => match r with
    | .ok v => { setS u sd v with cc := ccF u.cc false }
    | .error c => { setS u sd (BitVec.ofNat 64 (2 ^ 63 + c)) with cc := ccF u.cc true }

/-- A record handle (R391). -/
def recHandle (r : SsRec) (j : Nat) : DWord := BitVec.ofNat 64 (r.owner.toNat * 2 ^ 20 + r.gen * 2 ^ 16 + j)

/-- The check of a handle (R391): the slot. USER 0 is none (R392). -/
def checkRec (s : State) (t : Team) (h : DWord) : Run (Nat × SsRec) := do
  let j := fld h 0 16
  let r := s.hub.store.rec' j
  need (decide (j < s.hub.store.slots) && r.st != 0 && fld h 16 4 == r.gen && fld h 20 12 == r.owner.toNat &&
    (t.tag == r.owner || (r.user != 0 && t.tag == r.user))) (.s 0x1B 4)
  .ok (j, r)

/-- A state-store instruction that helpers alone do not perform (R395). -/
def ssIns (i : Instr) (sd : SReg) (regs : List SReg) (closed : Bool) (body : State → Team → Frag → Run State) (s : State) : Out :=
  issue i { scalars := regs, closed := closed, access := true } noLimits
    (fun s t f => if t.acts f then body s t f else .ok (ssResult s t.uid sd (.error 0))) s

/-- The lowest free slot. -/
def Store.freeSlot (st : Store) : Option Nat := (List.range st.slots).find? fun j => (st.rec' j).st == 0

/-- The generation of a slot's next use: 1 to 15 (R391). -/
def SsRec.nextGen (r : SsRec) : Nat := if r.gen < 15 then r.gen + 1 else 1

/-- SS.OPEN (R397). -/
def execSsOpen (sd sa : SReg) (s : State) : Out :=
  ssIns (.ssOpen sd sa) sd [sd, sa] true
    (fun s t _ => do
      let w := getS t sa
      let nsnap := fld w 16 6
      let pages := fld w 0 15
      need (fld w 60 4 == 0 && fld w 22 26 == 0 && !w.getLsbD 15 && decide (nsnap ≤ 32) && decide (1 ≤ pages) &&
        decide (pages ≤ 16384)) (.s 0x15 9)
      let st := s.hub.store
      if !st.cfg.getLsbD 63 then .ok (ssResult s t.uid sd (.error 5))
      else
        .ok (match st.freeSlot with
          | none => ssResult s t.uid sd (.error 4)
          | some j =>
            let r : SsRec :=
              { SsRec.reset with gen := (st.rec' j).nextGen, owner := t.tag, user := BitVec.ofNat 12 (fld w 48 12), nsnap, pages, st := 1 }
            ssResult (putRec s j r) t.uid sd (.ok (recHandle r j)))) s

/-- A range word's LEN and OFFSET, checked (R397). -/
def checkRange (r : SsRec) (w : DWord) : Run (Nat × Nat) := do
  let len := fld w 32 26
  let off := fld w 0 26
  need (fld w 58 6 == 0 && fld w 26 6 == 0 && decide (len % 16 = 0) && decide (off % 16 = 0) &&
    decide (off + len ≤ 4096 * r.pages)) (.s 0x15 9)
  .ok (len, off)

/-- A token position, checked (R397). -/
def checkPos (w : DWord) : Run Nat := do
  need (fld w 48 16 == 0) (.s 0x15 9)
  .ok w.toNat

/-- SS.LOAD (R398): a copy of the live body as it stands, through a copy context of the executing die. A number above 767 in se is
COPY's fault (R235). -/
def execSsLoad (sd sa sb sc se : SReg) (s : State) : Out :=
  issue (.ssLoad sd sa sb sc se) { scalars := [sd, sa, sb, sc, se], closed := true, access := true } noLimits
    (fun s t f => do
      let die := dieOf t.core
      let fail := fun (ctx : Nat) =>
        modTeam s t.uid fun u => { setS u sd (getCtx s die ctx).counter with cc := ccF u.cc true }
      if !t.acts f then .ok (fail (fld (getS t se) 0 10))
      else
        let (_, r) ← checkRec s t (getS t sa)
        if r.st = 2 then .ok (fail (fld (getS t se) 0 10))
        else do
          let (len, off) ← checkRange r (getS t sc)
          let dst := getS t sb
          need (fld dst 32 32 == 0 && (spTarget s t dst.toNat).isSome) (.fault 0x11 0 (some dst))
          let ctx ← checkCtx s t (getS t se)
          let c : CopyCmd :=
            { kind := .oneD, fe := true, src := BitVec.ofNat 64 off, dst := dst ||| 0xFF00000000000000, len, rows := 0, sstride := 0, dstride := 0, index := 0,
              pattern := 0, tag := t.tag, team := t.uid, launch := t.launch, core := t.core, pc := f.pc, progress := 0,
              source := some (s.hub.store.readBody r.pages r.live (len / 4096 + 2) off len), root := r.live,
              pages := s.hub.store.pageGranules r.pages r.live off len }
          let (s, ticket) ← enqueueCopy s die ctx c
          .ok (modTeam s t.uid fun u => { setS u sd ticket with cc := ccF u.cc false })) s

/-- Where n bytes of the scratchpad window lie, all in one core's part (R199, R397). -/
def spRange (s : State) (t : Team) (va : DWord) (n : Nat) : Option (Nat × Nat) :=
  (spTarget s t (va.toNat % 2 ^ 32)).filter fun x => decide (x.2 + n ≤ partScr (getCore s x.1).cpart * 65536)

/-- The source of SS.STORE, global or in the scratchpad window, read (R397). -/
def ssSource (s : State) (t : Team) (f : Frag) (va : DWord) (n : Nat) : Run (State × List Byte) :=
  if windowOk va then
    match spRange s t va n with
    | some (core, off) =>
      match (List.range (if n = 0 then 0 else (off % 128 + n + 127) / 128)).findSome? fun i => spPoison s core (off + 128 * i) with
      | some g => .error (.poison false [g] id (some va))
      | none => .ok (s, spRead s core off n)
    | none => .error (.fault 0x11 0 (some va))
  else readRange s t f va n

/-- The checks of SS.STORE's source range (R212, R397, R436). -/
def checkSource (s : State) (t : Team) (va : DWord) (n : Nat) : Run Unit := do
  if windowOk va then need (spRange s t va n).isSome (.fault 0x11 0 (some va))
  else do
    need (globalOk va) (.fault 0x11 0 (some va))
    need (!va.getLsbD 55) (.fault 0x11 6 (some va))
  need (alignedTo va 16) (.fault 0x14 0 (some va))

/-- A stop after something that stands: poison consumed ends the consumer after it. -/
def Stop.after (g : State → State) : Stop → Stop
  | .poison lane ps pre addr => .poison lane ps (fun s => pre (g s)) addr
  | e => e

/-- SS.STORE (R397): its release stands even when the store fails or raises SS_ORDER. -/
def execSsStore (sa sb sc se : SReg) (s : State) : Out :=
  ssIns (.ssStore sa sb sc se) 0 [sa, sb, sc, se] true
    (fun s t f => do
      let (j, r) ← checkRec s t (getS t sa)
      if r.st = 2 then do
        releaseWait s t
        .ok (ssResult (fenceRel s t.core .pkg) t.uid 0 (.error 1))
      else do
        let (len, off) ← checkRange r (getS t sc)
        let pos ← checkPos (getS t se)
        let va := getS t sb
        checkSource s t va len
        releaseWait s t
        need (decide (r.head ≤ pos)) (.faultAfter (fun s => fenceRel s t.core .pkg) 0x1C 0)
        let (s, b) ← (ssSource (fenceRel s t.core .pkg) t f va len).mapError (Stop.after fun s => fenceRel s t.core .pkg)
        let st := s.hub.store
        let (st', live) := st.writeBody (heldRoots s) r.pages (len / 4096 + 2) r.live off b
        if st.free < st'.taken - st.taken then .ok (ssResult s t.uid 0 (.error 3))
        else
          let s := storeOut { s with hub := { s.hub with store := st' } } (st.pageGranules r.pages r.live off len)
            (st'.pageGranules r.pages live off len) off b
          .ok (ssResult (putRec s j { r with live, head := pos, stime := s.gtime }) t.uid 0 (.ok 0))) s

/-- A snapshot appended, the ring's oldest unpinned one evicted where it is full (R397); none when it cannot be. -/
def SsRec.snap (r : SsRec) (pin : Bool) : Option SsRec :=
  match r.snaps.reverse with
  | (k, p, _) :: rest =>
    if k = r.head then some { r with snaps := (rest.reverse) ++ [(k, p || pin, r.live)] } else evict
  | [] => evict
where
  /-- The snapshot appended to a ring that has room, or room made. -/
  evict : Option SsRec :=
    let x := (r.head, pin, r.live)
    if r.snaps.length < r.nsnap then some { r with snaps := r.snaps ++ [x] }
    else if r.snaps.any fun y => !y.2.1 then
      some { r with snaps := r.snaps.eraseIdx (r.snaps.findIdx fun y => !y.2.1) ++ [x] }
    else none

/-- SS.SNAP (R397). -/
def execSsSnap (sa : SReg) (s : State) : Out :=
  ssIns (.ssSnap sa) 0 [sa] true
    (fun s t _ => do
      let w := getS t sa
      let (j, r) ← checkRec s t w
      if r.st = 2 then .ok (ssResult s t.uid 0 (.error 1))
      else do
        let op := fld w 32 2
        need (fld w 34 30 == 0 && op != 3) (.s 0x15 9)
        if op = 2 then
          .ok (ssResult (putRec s j { r with snaps := r.snaps.map fun y => (y.1, false, y.2.2) }) t.uid 0 (.ok 0))
        else
          .ok (match r.snap (op == 1) with
            | none => ssResult s t.uid 0 (.error 3)
            | some r => ssResult (releaseHeld (putRec s j r)) t.uid 0 (.ok 0))) s

/-- The greatest snapshot whose key is at or below a position: its index and itself (R397). -/
def SsRec.atPos (r : SsRec) (pos : Nat) : Option (Nat × Nat × Option Nat) :=
  (((List.range r.snaps.length).zip r.snaps).reverse.find? fun x => decide (x.2.1 ≤ pos)).map fun x => (x.1, x.2.1, x.2.2.2)

/-- SS.ROLL (R397). -/
def execSsRoll (sd sa sb : SReg) (s : State) : Out :=
  ssIns (.ssRoll sd sa sb) sd [sd, sa, sb] true
    (fun s t _ => do
      let (j, r) ← checkRec s t (getS t sa)
      if r.st = 2 then .ok (ssResult s t.uid sd (.error 1))
      else do
        let pos ← checkPos (getS t sb)
        .ok (match r.atPos pos with
          | none => ssResult s t.uid sd (.error 2)
          | some (i, key, root) =>
            ssResult (releaseHeld (putRec s j { r with live := root, head := key, snaps := r.snaps.take (i + 1) })) t.uid sd
              (.ok (BitVec.ofNat 64 key)))) s

/-- SS.FORK (R397). -/
def execSsFork (sd sa sb : SReg) (s : State) : Out :=
  ssIns (.ssFork sd sa sb) sd [sd, sa, sb] true
    (fun s t _ => do
      let (_, r) ← checkRec s t (getS t sa)
      if r.st = 2 then .ok (ssResult s t.uid sd (.error 1))
      else do
        let pos ← checkPos (getS t sb)
        .ok (match r.atPos pos, s.hub.store.freeSlot with
          | none, _ => ssResult s t.uid sd (.error 2)
          | some _, none => ssResult s t.uid sd (.error 4)
          | some (_, key, root), some j =>
            let n : SsRec :=
              { r with gen := (s.hub.store.rec' j).nextGen, head := key, live := root, snaps := [(key, false, root)], stime := 0 }
            ssResult (putRec s j n) t.uid sd (.ok (recHandle n j)))) s

/-- SS.DROP (R397): a revoked record is freed too, and reports REVOKED. -/
def execSsDrop (sa : SReg) (s : State) : Out :=
  ssIns (.ssDrop sa) 0 [sa] true
    (fun s t _ => do
      let (j, r) ← checkRec s t (getS t sa)
      .ok (ssResult (releaseHeld (putRec s j { SsRec.reset with gen := r.gen })) t.uid 0
        (if r.st = 2 then .error 1 else .ok 0))) s

/-- SS.INFO (R397): the header as plain stores of the team, held by an open region as an ST's lines are. -/
def execSsInfo (sa sb : SReg) (s : State) : Out :=
  issue (.ssInfo sa sb) { scalars := [sa, sb], access := true, steps := false } noLimits
    (fun s t f => do
      let len := 2 * (encode (.ssInfo sa sb)).length
      if !t.acts f then .ok (leave (ssResult s t.uid 0 (.error 0)) t.uid f len)
      else do
        let (_, r) ← checkRec s t (getS t sa)
        let va := getS t sb
        need (globalOk va) (.fault 0x11 0 (some va))
        need (!va.getLsbD 55) (.fault 0x11 6 (some va))
        need (alignedTo va 256) (.fault 0x14 0 (some va))
        let (s, l) ← locatePieces t f .write s (pieces va 256)
        let pl ← storePlan t (l.map fun p => (false, p.va.toNat / 64))
        let (s, found) := planBefore s t f 0 pl
        let s := writePieces s t (pl == .held || pl == .reopen) f.pc l (headerBytes s.hub.store r)
        let s := ssResult s t.uid 0 (if r.st = 2 then .error 1 else .ok 0)
        let s := foundFaults s t.uid f.pc f.active found
        .ok (planAfter s t f len pl)) s

/-- SS.HEADS (R393, R397): without `.set` it is performed whatever lanes are helpers, and in an open region. -/
def execSsHeads (wr : Bool) (sd sa sb : SReg) (s : State) : Out :=
  issue (.ssHeads wr sd sa sb) { scalars := [sd, sa, sb], closed := wr, access := true } noLimits
    (fun s t f => do
      if wr && !t.acts f then .ok (ssResult s t.uid sd (.error 0))
      else do
        let (j, r) ← checkRec s t (getS t sa)
        if r.st = 2 then .ok (ssResult s t.uid sd (.error 1))
        else do
          let w := getS t sb
          need (!wr || fld w 16 48 == 0) (.s 0x15 9)
          let s := if wr then putRec s j { r with heads := w.setWidth 16 } else s
          .ok (ssResult s t.uid sd (.ok (r.heads.setWidth 64)))) s

/-- SSCFG written (R388, R389): while EN is 1 it changes only by clearing EN, when every slot is free; setting EN frees every
slot and counts the supply. -/
def writeSscfg (s : State) (v : DWord) : State :=
  let st := s.hub.store
  let v := v &&& 0x800000000001FFFF
  if st.cfg.getLsbD 63 then
    if v.getLsbD 63 || st.recs.any fun x => x.2.st != 0 then s
    else { s with hub := { s.hub with store := { st with cfg := st.cfg &&& 0x1FFFF, free := 0 } } }
  else if v.getLsbD 63 then
    let g := st.gran.toNat
    let new : Store := { st with cfg := v }
    let base := headerAddr s 0
    { s with
      mem := Memory.clear s.mem base (base + 256 * new.slots)
      hub := { s.hub with store := { new with free := g - storeReserve new.slots g } } }
  else { s with hub := { s.hub with store := { st with cfg := v } } }

/-- SSCFG_WRITE. -/
def execSscfgWrite (value : BitVec 64) (s : State) : Out := .next (writeSscfg s value)

/-- SSBASE written (R388). -/
def writeSsbase (s : State) (v : DWord) : State :=
  if s.hub.store.cfg.getLsbD 63 then s
  else { s with hub := { s.hub with store := { s.hub.store with base := v &&& 0x00000FFFFFE00000 } } }

/-- SSGRAN written (R388). -/
def writeSsgran (s : State) (v : Word) : State :=
  if s.hub.store.cfg.getLsbD 63 then s else { s with hub := { s.hub with store := { s.hub.store with gran := v } } }

end Sys2Proof.Machine
end

