-- ==== Sys2Proof/Machine/Launch.lean ====
section
/-! DEFINITION. Launches: packets and queues, LAUNCH, dispatch, the image header, placement, completion, the watchdog
(R61 to R63, R95, R342 to R348, R359, R382, R401, R402, R417). -/

namespace Sys2Proof.Machine

/-- A queue, and the state with a queue replaced. -/
def getQueue (s : State) (q : Nat) : Queue := tabGet Queue.reset s.hub.queues q
/-- The state with a queue replaced. -/
def setQueue (s : State) (q : Nat) (x : Queue) : State := { s with hub := { s.hub with queues := tabSet s.hub.queues q x } }

/-- QSTAT.LASTERR of a queue set (R343, R347). -/
def setLastErr (s : State) (q code : Nat) : State := setQueue s q { getQueue s q with lastErr := code }

/-- A packet's 128 bytes as its fields (R342). -/
def packetOf (b : List Byte) (seq : Nat) (t0 now : DWord) : Packet :=
  let n := fun (o k : Nat) => leNat ((b.drop o).take k)
  let d := fun (o : Nat) => BitVec.ofNat 64 (n o 8)
  { image := d 0, teams := n 8 4, tsize := n 0x0C 2, flags := n 0x0E 2, partition := n 0x10 4, rsv14 := n 0x14 4, args := d 0x18,
    inline := (List.range 8).map fun i => d (0x20 + 8 * i), wait := n 0x60 4, sig := n 0x64 4, waitval := d 0x68, period := n 0x70 4,
    owner := n 0x74 2, rsv76 := n 0x76 2, ltr := d 0x78, seq, t0, tappend := now, faults := 0, acc := List.replicate 6 0 }

/-- Whether a peer's packet is admitted to a queue (R345). -/
def aclAdmits (s : State) (pkg : Nat) (tag : Tag) (q : Nat) : Bool :=
  s.hub.acl.any fun e => e.2.getLsbD 63 && fld e.2 48 8 == pkg && fld e.2 0 8 == q &&
    (fld e.2 36 12 == tag.toNat || fld e.2 36 12 == 0xFFF)

/-- A write to a queue's window (R343): the packet is appended, or the write refused (true) for the first reason that applies. -/
def appendPacket (s : State) (src : PktSrc) (q offset : Nat) (b : List Byte) : State × Bool :=
  let x := getQueue s q
  let posted := match src with
    | .host p | .vf _ p => p
    | .peer .. => false
  let admitted := match src with
    | .host _ | .vf .. => true
    | .peer pkg tag => aclAdmits s pkg tag q
  if b.length ≠ 128 ∨ offset % 128 ≠ 0 ∨ posted = true then (setLastErr s q 0x31, true)
  else if !x.cfg.getLsbD 31 then (s, true)
  else if !admitted then (setLastErr s q 0x33, true)
  else if leNat ((b.drop 0x74).take 2) % 4096 ≠ fld x.cfg 0 12 then (setLastErr s q 0x33, true)
  else if 64 ≤ x.packets.length then (s, true)
  else
    let p := packetOf b s.hub.nextSeq 0 s.gtime
    let (s, t0) := if p.ltr = 0 then (s, none) else vaRead s (BitVec.ofNat 12 p.owner) p.ltr.toNat 8 4
    let p := { p with t0 := BitVec.ofNat 64 ((t0.map leNat).getD 0) }
    let s := setQueue s q { x with packets := x.packets ++ [p], accepted := x.accepted + 1 }
    ({ s with hub := { s.hub with nextSeq := s.hub.nextSeq + 1 } }, false)

/-- The queue whose window is the n-th of a source: in the BAR 0 of VF v the windows of the queues with QCFG.VF = v, ascending (R340). -/
def windowQueue (s : State) (src : PktSrc) (n : Nat) : Option Nat := match src with
  | .vf fn _ => ((List.range 256).filter fun q => fn != 0 && fld (getQueue s q).cfg 22 6 == fn)[n]?
  | _ => if n < 256 then some n else none

/-- LAUNCH_PACKET_WRITE (R340, R343). -/
def execLaunchPacketWrite (src : PktSrc) (queue offset : Nat) (data : List (BitVec 8)) (s : State) : Out :=
  .next (match windowQueue s src queue with
    | some q => (appendPacket s src q offset data).1
    | none => s)

/-- LAUNCH (R401, R402). A packet for another package is sent there, and the fragment waits for the answer. -/
def execLaunch (sa sb : SReg) (s : State) : Out :=
  issue (.launch sa sb) { scalars := [sa, sb], closed := true, access := true } noLimits
    (fun s t f => do
      let done := fun (s : State) (refused : Bool) => modTeam s t.uid fun u => { u with cc := ccF u.cc refused }
      if !t.acts f then .ok (done s true)
      else do
        let w := getS t sb
        need (fld w 24 40 == 0 && fld w 9 7 == 0) (.s 0x15 9)
        let va := getS t sa
        need (globalOk va) (.fault 0x11 0 (some va))
        need (!va.getLsbD 55) (.fault 0x11 6 (some va))
        need (alignedTo va 128) (.fault 0x14 0 (some va))
        let peer := w.getLsbD 8
        releaseWait s t
        if peer then fabricWait s t .pod else pure ()
        let (s, b) ← (readRange (fenceRel s t.core .pkg) t f va 128).mapError (Stop.after fun s => fenceRel s t.core .pkg)
        let q := fld w 0 8
        if leNat ((b.drop 0x74).take 2) ≠ t.tag.toNat then .ok (done (if peer then s else setLastErr s q 0x33) true)
        else if !peer then
          let (s, r) := appendPacket s (.host false) q 0 b
          .ok (done s r)
        else if fld w 16 8 = fld s.fabric.fpod 0 8 then
          let (s, r) := appendPacket s (.peer (fld w 16 8) t.tag) q 0 b
          .ok (done s r)
        else .ok (parkAfter (podSend s t.uid f.num (fld w 16 8) 0 f.active .packet f.pc) t.uid f.num .packet)) s

/-- The fields of an image header (R61). -/
structure Header where
  magic : Nat
  version : Nat
  flags : Nat
  features : Nat
  entry : Nat
  handler : Nat
  textsz : Nat
  dataoff : Nat
  datasz : Nat
  imagesz : Nat
  stackDecl : Nat
  rsv31 : Nat
  localsDecl : Nat
  partition : Nat
  teammin : Nat
  teammax : Nat
  rsv3C : Nat
  deriving DecidableEq, Repr

/-- A header's 64 bytes read (R61). -/
def headerOf (b : List Byte) : Header :=
  let n := fun (o k : Nat) => leNat ((b.drop o).take k)
  { magic := n 0 4, version := n 4 2, flags := n 6 2, features := n 8 16, entry := n 0x18 4, handler := n 0x1C 4, textsz := n 0x20 4,
    dataoff := n 0x24 4, datasz := n 0x28 4, imagesz := n 0x2C 4, stackDecl := n 0x30 1, rsv31 := n 0x31 1, localsDecl := n 0x32 2,
    partition := n 0x34 4, teammin := n 0x38 2, teammax := n 0x3A 2, rsv3C := n 0x3C 4 }

/-- Whether a partition word keeps R62. -/
def partitionOk (w : Nat) : Bool :=
  decide (w / 2 ^ 24 = 0) && decide (w / 2 ^ 16 % 256 ≤ 48) && decide (1 ≤ w % 256) &&
    decide (w % 256 + w / 256 % 256 + w / 2 ^ 16 % 256 ≤ 64)

/-- Whether an offset into the text is one (R63). -/
def Header.inText (h : Header) (o : Nat) : Bool := decide (o % 2 = 0) && decide (0x40 ≤ o) && decide (o < 0x40 + h.textsz)

/-- The status with which a header is refused (R63): LAUNCH_FEATURE before LAUNCH_IMAGE. -/
def Header.refusal (h : Header) : Option Nat :=
  let r64 := fun (n : Nat) => (n + 63) / 64 * 64
  if 2 ^ 16 ≤ h.features then some 0x30
  else if h.magic = 0x33464A48 ∧ h.version / 256 = 3 ∧ h.flags < 8 ∧ h.rsv31 = 0 ∧ h.rsv3C = 0 ∧ 8 ≤ h.stackDecl ∧ h.stackDecl ≤ 64 ∧
      h.localsDecl ≤ 256 ∧ partitionOk h.partition ∧ 1 ≤ h.teammin ∧ h.teammin ≤ h.teammax ∧
      h.teammax ≤ (if h.flags % 2 = 1 then 512 else 1024) ∧ h.inText h.entry ∧ (h.handler = 0 ∨ h.inText h.handler) ∧
      h.textsz % 2 = 0 ∧ h.textsz ≠ 0 ∧ h.dataoff = r64 (0x40 + h.textsz) ∧ h.imagesz = h.dataoff + h.datasz then none
  else some 0x31

/-- Whether a packet keeps R342 and R347 beside a header that has passed; with EN 0 a WAIT or SIG word names no counter (log entry 56). -/
def Packet.ok (s : State) (p : Packet) (h : Header) : Bool :=
  let tag : Tag := BitVec.ofNat 12 p.owner
  let flags := p.flags ||| h.flags
  let word := fun (w : Nat) => decide (w / 8192 % 2 ^ 18 = 0)
  decide (1 ≤ p.teams) && decide (p.teams ≤ 16777215) && decide (h.teammin ≤ p.tsize) && decide (p.tsize ≤ h.teammax) &&
    !(flags % 2 == 1 && decide (512 < p.tsize)) && decide (p.flags < 8) && p.rsv14 == 0 && p.rsv76 == 0 && decide (p.owner < 4096) &&
    (p.partition == 0 || partitionOk p.partition) && word p.wait && word p.sig &&
    (decide (p.wait < 2 ^ 31) || waitAllowed s tag (p.wait % 8192)) &&
    (decide (p.sig < 2 ^ 31) || sigAllowed s tag (p.sig % 8192)) &&
    (p.period == 0 || (decide (1000 ≤ p.period) && decide (p.period ≤ 60000000)))

/-- Bytes as parcels. -/
def parcelList : List Byte → List Parcel
  | a :: b :: r => (b.setWidth 16 <<< 8 ||| a.setWidth 16) :: parcelList r
  | _ => []

/-- Text as it stands when a launch is dispatched (R60), line by line: none for the parcels of a line that has no translation yet (log
entry 36); fuel bounds the lines. -/
def textParcels (s : State) (tag : Tag) : Nat → Nat → Nat → List (Option Parcel)
  | 0, _, _ => []
  | fuel + 1, va, n =>
    if n = 0 then []
    else
      let m := min (64 - va % 64) n
      (match translateWalk s tag (BitVec.ofNat 64 va) .probe with
        | .ok pa _ => (parcelList (Memory.slice s.mem pa m)).map some
        | _ => List.replicate (m / 2) none) ++ textParcels s tag fuel (va + m) (n - m)

/-- A candidate for dispatch: a queue's head packet, or an activity's compensation. -/
inductive Cand
  | queue (q : Nat)
  | walk (tag : Tag) (slot : Nat)
  deriving DecidableEq, Repr

/-- Whether a context may take teams: its slot is valid, and LOADED or RUNNING (R346, R350). -/
def takesTeams (s : State) (tag : Tag) : Bool := match slotOfTag s tag with
  | some n => (getSlot s n).st == 1 || (getSlot s n).st == 2
  | none => false

/-- Whether a packet's wait is over (R346); an id that refuses the launch holds nothing back. -/
def waitOver (s : State) (p : Packet) : Bool :=
  decide (p.wait < 2 ^ 31) || !waitAllowed s (BitVec.ofNat 12 p.owner) (p.wait % 8192) ||
    decide (p.waitval.toNat ≤ (counter s (p.wait % 8192)).toNat)

/-- The ready candidates: priority, place among all appends, and which (R346, R382). -/
def candidates (s : State) : List (Nat × Nat × Cand) :=
  let queues := s.hub.queues.filterMap fun x => match x.2.packets with
    | p :: _ =>
      if x.2.parked.isNone && takesTeams s (BitVec.ofNat 12 p.owner) && waitOver s p then
        some (fld x.2.cfg 28 3, p.seq, Cand.queue x.1)
      else none
    | [] => none
  let walks := s.hub.acts.filterMap fun a =>
    let launched := match a.last with
      | some e => s.hub.launches.any fun l => l.comp == some e && decide (l.placed = l.pkt.teams)
      | none => true
    if a.st = .walking ∧ a.running ∧ !launched ∧ takesTeams s a.tag then some (a.prio, a.seq, Cand.walk a.tag a.slot) else none
  queues ++ walks

/-- The candidate that is taken: highest priority, then the earliest appended (R346). -/
def bestCandidate (s : State) : Option Cand :=
  ((candidates s).foldl (fun (a : Option (Nat × Nat × Cand)) x => match a with
    | none => some x
    | some y => if y.1 < x.1 ∨ (x.1 = y.1 ∧ x.2.1 < y.2.1) then some x else some y) none).map (·.2.2)

/-- The physical lanes of each team of a launch (R97). -/
def Launch.lanes (l : Launch) : Nat := if l.flags % 2 = 1 then 2 * l.pkt.tsize else l.pkt.tsize

/-- The register-part bytes of a team (R95). -/
def demand (stackDecl localsDecl n : Nat) : Nat :=
  let r64 := fun (x : Nat) => (x + 63) / 64 * 64
  let w := (n + 31) / 32
  r64 (4 * localsDecl * n) + r64 (16 * ((stackDecl - 4 + 3) / 4) * n) + r64 (60 * (32 + 24 * w)) + 256 + r64 (3 * (128 + 24 * w))

/-- The teams of a core. -/
def teamsOn (s : State) (c : Nat) : List Team := s.teams.filter fun t => t.core == c

/-- A core's limits with one more team of n lanes (R83, R95, R348). -/
def coreHolds (s : State) (c stackDecl localsDecl n partition : Nat) : Bool :=
  let here := teamsOn s c
  decide (here.length < 64) && decide ((here.map (·.width)).sum + n ≤ 8192) &&
    decide ((here.map sharedEntries).sum + 4 * (here.length + 1) ≤ 256) &&
    decide ((here.map fun t => demand t.stackDecl t.localsDecl t.width).sum + demand stackDecl localsDecl n ≤ partition % 256 * 65536) &&
    decide (fld (getCore s c).cstate 0 2 = 0)

/-- The bench that takes a team of w mask words (R88, R348). -/
def pickBench (s : State) (c w : Nat) : Option Nat :=
  let here := teamsOn s c
  let on := fun (b : Nat) => here.filter fun t => t.bench == b
  let ok := (List.range 4).filter fun b => decide ((on b).length ≤ 15) && decide (((on b).map (·.words)).sum + w ≤ 64)
  ok.foldl (fun a b => match a with
    | none => some b
    | some x => if (on b).length < (on x).length then some b else some x) none

/-- Whether a core has no team and nothing left of the tenancy before (R80, R196). -/
def coreEmpty (s : State) (c : Nat) : Bool :=
  (teamsOn s c).isEmpty && (getCore s c).matq.isEmpty && (getCore s c).ixq.isEmpty

/-- The core and bench of a die for a team of a launch (R348). -/
def placeIn (s : State) (l : Launch) (die : Nat) : Option (Nat × Nat) :=
  let n := l.lanes
  let fit := fun (c : Nat) => if coreHolds s c l.stackDecl l.localsDecl n l.partition then pickBench s c ((n + 31) / 32) else none
  let mine := fun (c : Nat) => if (getCore s c).tenancy = some l.id then fit c else none
  let fresh := fun (c : Nat) => if coreEmpty s c ∧ (getCore s c).tenancy ≠ some l.id then fit c else none
  if (getDie s die).therm = .tripped then none
  else (List.range 13).findSome? fun q =>
    let cores := (List.range 4).filterMap fun i => physCore s die (4 * q + i)
    match cores.findSome? fun c => (mine c).map fun b => (c, b) with
    | some x => some x
    | none => cores.findSome? fun c => (fresh c).map fun b => (c, b)

/-- The dies in the order in which a team tries them: fewest resident lanes first (R348). -/
def dieOrder (s : State) : List Nat :=
  let lanes := fun (d : Nat) => ((s.teams.filter fun t => dieOf t.core == d).map (·.width)).sum
  (List.range 4).foldl (fun l d => put lanes d l) []
where
  /-- A die put behind those with as few lanes. -/
  put (lanes : Nat → Nat) (d : Nat) : List Nat → List Nat
    | [] => [d]
    | x :: r => if lanes d < lanes x then d :: x :: r else x :: put lanes d r

/-- A core begins a launch's tenancy (R196). -/
def newTenancy (s : State) (c : Nat) (l : Launch) : State :=
  let s := writeBackAll s c
  let x := getCore s c
  setCore s c { x with
    tenancy := some l.id
    cpart := BitVec.ofNat 32 l.partition
    cowner := 0x80000000 ||| l.tag.setWidth 32
    pool := [], full := [], poisonRows := [], tileStatus := [], tilePoison := [], cache := [], utlb := [], feWaiters := [],
    matq := [], ixq := [] }

/-- The first fragment of a team (R66, R68). -/
def Frag.start (n : Nat) (pc : DWord) : Frag :=
  let m := fullMask n
  { num := 0, pc, joinPc := 0, fmt := 0, mark := none, depth := 0, shelf := 0, st := .ready, trapMarker := false, spilled := false,
    handler := false, parent := none, live := 0, seq := 0, member := m, active := m, m0 := m, m1 := m, m2 := m, m3 := m, wait := none,
    paused := 0, low := 0 }

/-- A team at its start (R66, R68, R191, R382): its arguments, its lanes and its first fragment. -/
def Launch.team (l : Launch) (uid number core bench slot : Nat) : Team :=
  let n := l.lanes
  { Team.blank uid l.tag l.id core bench with
    number, slot, teams := l.pkt.teams, age := l.id * 2 ^ 24 + number, width := n, isProtected := l.flags % 2 == 1,
    stackDecl := l.stackDecl, localsDecl := l.localsDecl, base := l.base, isCoresident := l.flags / 4 % 2 == 1,
    isPersistent := l.flags / 2 % 2 == 1, isComp := l.comp.isSome,
    lanes := List.replicate n { stack := [], locals := List.replicate l.localsDecl Entry.zero },
    scalars := [0, l.pkt.args] ++ l.pkt.inline ++ List.replicate 22 0,
    uhvec := if l.handler = 0 then 0 else l.base + BitVec.ofNat 64 l.handler,
    frags := [Frag.start n (l.base + BitVec.ofNat 64 l.entry)] }

/-- The lowest free slot of a bench. -/
def freeSlotOf (s : State) (c b : Nat) : Nat :=
  ((List.range 16).find? fun n => !(s.teams.any fun t => t.core == c && t.bench == b && t.slot == n)).getD 0

/-- A context whose team is placed runs (R350). -/
def setRunning (s : State) (tag : Tag) : State :=
  match slotOfTag s tag with
  | some n => let x := getSlot s n; if x.st = 1 then setSlot s n { x with st := 2 } else s
  | none => s

/-- The next team of a launch placed on the first fit (R348): none where there is none. Its start acquires at pkg scope (R346, R382, R402). -/
def placeTeam (s : State) (l : Launch) : Option (State × Launch) :=
  let dies := match l.comp with
    | some e => [e.1]
    | none => dieOrder s
  match dies.findSome? fun d => placeIn s l d with
  | none => none
  | some (c, b) =>
    let s := if (getCore s c).tenancy = some l.id then invalidateAll s c else newTenancy s c l
    let t := l.team s.hub.nextUid l.placed c b (freeSlotOf s c b)
    let l := { l with placed := l.placed + 1 }
    let s := { s with teams := s.teams ++ [t], hub := { s.hub with nextUid := s.hub.nextUid + 1 } }
    some (traceEvent (setRunning (setLaunch s l) l.tag) t 5 0, l)

/-- Teams of a launch placed in order while they fit; fuel counts teams. -/
def placeTeams : Nat → State → Launch → State × Launch
  | 0, s, l => (s, l)
  | fuel + 1, s, l =>
    if l.pkt.teams ≤ l.placed then (s, l)
    else match placeTeam s l with
      | some (s, l) => placeTeams fuel s l
      | none => (s, l)

/-- A launch's teams are placed as they fit: one for a launch that is not coresident, every team or none for one that is (R346).
The packet leaves its queue with its last team. -/
def placeSome (s : State) (l : Launch) : State :=
  let s' := if l.flags / 4 % 2 = 1 then
      let x := placeTeams l.pkt.teams s l
      if x.2.placed = l.pkt.teams then some x else none
    else if l.placed < l.pkt.teams then placeTeam s l else none
  match s' with
  | none => s
  | some (s, l) =>
    if l.placed = l.pkt.teams ∧ l.comp.isNone then
      let q := getQueue s l.queue
      setQueue s l.queue { q with packets := q.packets.filter fun p => p.seq != l.pkt.seq }
    else s

/-- The teams of a launch that an empty core takes (R348). -/
def coreTakes (l : Launch) : Nat :=
  let n := l.lanes
  let w := (n + 31) / 32
  min (min 64 (8192 / max 1 n)) (min (4 * min 16 (64 / max 1 w)) (l.partition % 256 * 65536 / demand l.stackDecl l.localsDecl n))

/-- Whether a coresident launch fits on every enabled core, all empty (R346). -/
def fitsEmpty (s : State) (l : Launch) : Bool :=
  let on := fun (d : Nat) => ((List.range 52).filterMap fun c => physCore s d c).filter fun c => fld (getCore s c).cstate 0 2 == 0
  decide (l.pkt.teams ≤ (((List.range 4).map fun d => (on d).length).sum) * coreTakes l)

/-- The launch that a packet and a header make (R342, R346); a compensation is not persistent (R382). -/
def makeLaunch (s : State) (q prio : Nat) (p : Packet) (h : Header) (comp : Option (Nat × Nat)) : Launch :=
  let tag : Tag := BitVec.ofNat 12 p.owner
  { id := s.hub.nextLaunch, queue := q, prio, pkt := p, tag, base := p.image, entry := h.entry, handler := h.handler,
    stackDecl := h.stackDecl, localsDecl := h.localsDecl,
    flags := if comp.isSome then (p.flags ||| h.flags) &&& 0xFFFD else p.flags ||| h.flags,
    partition := if p.partition = 0 then h.partition else p.partition,
    text := textParcels s tag (h.textsz / 64 + 2) (p.image.toNat + 0x40) h.textsz,
    placed := 0, retired := 0, comp, compStatus := none, tfirst := none, acc := p.acc, faults := p.faults, awaits := false,
    elapsed := 0, fired := false, again := false }

/-- A launch in flight added. -/
def addLaunch (s : State) (l : Launch) : State :=
  { s with hub := { s.hub with launches := s.hub.launches ++ [l], nextLaunch := s.hub.nextLaunch + 1 } }

/-- A refused packet leaves its queue with a status (R347). -/
def refusePacket (s : State) (q : Nat) (p : Packet) (status : Nat) : State :=
  let x := getQueue s q
  let s := setQueue s q { x with packets := x.packets.filter fun k => k.seq != p.seq, lastErr := status }
  dropPacket s p status

/-- What reading an image's header comes to (R346). -/
inductive HeaderRead
  | got (b : List Byte)
  | refused
  | park (page level : Nat)
  | zero (frame : Nat) (tag : Tag)
  | poisoned (p : Poison)
  deriving DecidableEq, Repr

/-- The 64 bytes of a header read by the hub with a tag at the home slice (R346): an image is 64-byte aligned, and its header one line. -/
def readHeader (s : State) (tag : Tag) (image : DWord) : State × HeaderRead :=
  if image.toNat % 64 ≠ 0 ∨ 2 ^ 55 ≤ image.toNat then (s, .refused)
  else
    match translateWalk s tag image .read with
    | .ok pa e =>
      if Config.hbmEnd ≤ pa then (s, .refused)
      else
        let s := homeTouch s (pa / 64) e.otag e.prot true
        (s, match homePoison s (pa / 64) with
          | some p => .poisoned p
          | none => .got (Memory.read s.mem pa 64))
    | .xlate level => (s, .park (image.toNat / 2 ^ 21) level)
    | .zero f o => (s, .zero f o)
    | _ => (s, .refused)

/-- Poison that the hub meets in a header is consumed for the context whose header it is (R351, R352; log entry 12). -/
def headerPoison (s : State) (tag : Tag) (p : Poison) : State :=
  let kill := fun (s : State) (g : Tag) => match slotOfTag s g with
    | some n =>
      terminate s n { cause := 0x21, info := 0, source := if g = p.tag then p.source else 7, log := p.log, pc := 0, team := 0xFFFFFFFF, whereWord := 0, launchImage := 0 }
    | none => s
  let s := if p.tag = 0 then s else kill s p.tag
  let s := if p.tag = tag then s else kill s tag
  if p.tag = 0 then startReset s p.source p.log [] else s

/-- A candidate parks on its image's page (R302, R346): no team, address 0, no ACCESS bit. -/
def parkCandidate (s : State) (tag : Tag) (page level : Nat) (kind : WaiterKind) : Option State :=
  addWaiter s (homeDie s tag) tag page level { team := 0, frag := 0, launch := 0, pc := 0, access := 0, kind }

/-- The head packet of a queue is dispatched (R346). -/
def dispatchPacket (s : State) (q : Nat) (p : Packet) : State :=
  let tag : Tag := BitVec.ofNat 12 p.owner
  match readHeader s tag p.image with
  | (s, .refused) => refusePacket s q p 0x31
  | (s, .zero f o) => startZero s f o
  | (s, .poisoned g) => headerPoison s tag g
  | (s, .park page level) =>
    match parkCandidate s tag page level (.launch q) with
    | some s => setQueue s q { getQueue s q with parked := some (homeDie s tag, page) }
    | none => s
  | (s, .got b) =>
    let h := headerOf b
    match h.refusal with
    | some status => refusePacket s q p status
    | none =>
      if !p.ok s h then refusePacket s q p 0x31
      else
        let l := makeLaunch s q (fld (getQueue s q).cfg 28 3) p h none
        if l.flags / 4 % 2 = 1 ∧ !fitsEmpty s l then refusePacket s q p 0x32
        else placeSome (addLaunch s l) l

/-- The compensation of an activity's entry is dispatched (R382). -/
def dispatchWalk (s : State) (a : Activity) (e : Nat × Nat) : State :=
  match entryRead s e a.tag with
  | (s, false) => s
  | (s, true) =>
  let image := BitVec.ofNat 64 (entryField s e 0x10 8)
  match readHeader s a.tag image with
  | (s, .refused) => compDone s a 0xFFFFFFFE 1
  | (s, .zero f o) => startZero s f o
  | (s, .poisoned g) => headerPoison s a.tag g
  | (s, .park page level) =>
    match parkCandidate s a.tag page level (.walk a.tag a.slot) with
    | some s => setAct s { a with running := false }
    | none => s
  | (s, .got b) =>
    let h := headerOf b
    if h.refusal.isSome ∨ 32 < h.teammin ∨ h.teammax < 32 then compDone s a 0xFFFFFFFE 1
    else
      let d := fun (o : Nat) => BitVec.ofNat 64 (entryField s e o 8)
      let p : Packet :=
        { image, teams := 1, tsize := 32, flags := 0, partition := 0, rsv14 := 0, args := d 0x18,
          inline := [d 8, d 0, a.handle, 0, 0, 0, 0, 0], wait := 0, sig := 0, waitval := 0, period := 0, owner := a.tag.toNat, rsv76 := 0,
          ltr := 0, seq := a.seq, t0 := 0, tappend := s.gtime, faults := 0, acc := List.replicate 6 0 }
      let l := makeLaunch s 0 a.prio p h (some e)
      placeSome (addLaunch s l) l

/-- The launch in flight of a candidate, where there is one. -/
def candLaunch (s : State) : Cand → Option Launch
  | .queue q => match (getQueue s q).packets with
    | p :: _ => s.hub.launches.find? fun l => l.comp.isNone && l.queue == q && l.pkt.seq == p.seq
    | [] => none
  | .walk tag slot => match actAt s tag slot with
    | some a => s.hub.launches.find? fun l => l.comp.isSome && l.comp == a.last
    | none => none

/-- LAUNCH_DISPATCH (R346): the taken candidate's header is checked; nothing in any boot state but RUN (R360), nor while the
candidate's teams are being placed. -/
def execLaunchDispatch (s : State) : Out :=
  .next (if s.hub.bootState ≠ 4 then s
    else match bestCandidate s with
      | none => s
      | some c =>
        if (candLaunch s c).isSome then s
        else match c with
          | .queue q => match (getQueue s q).packets with
            | p :: _ => dispatchPacket s q p
            | [] => s
          | .walk tag slot => match actAt s tag slot with
            | some a => match a.last with
              | some e => dispatchWalk s a e
              | none => s
            | none => s)

/-- TEAM_PLACE (R346, R348): the next team of the candidate that is taken. -/
def execTeamPlace (launch : Nat) (s : State) : Out :=
  .next (if s.hub.bootState ≠ 4 then s
    else match (bestCandidate s).bind (candLaunch s) with
      | some l => if l.id = launch then placeSome s l else s
      | none => s)

/-- A context with no resident team and no launch in flight is LOADED again (R350). -/
def contextIdle (s : State) (tag : Tag) : State :=
  match slotOfTag s tag with
  | some n =>
    let x := getSlot s n
    if x.st = 2 ∧ (teamsOfTag s tag).isEmpty ∧ !(s.hub.launches.any fun l => l.tag == tag) then setSlot s n { x with st := 1 } else s
  | none => s

/-- Whether a launch's last team has retired, and its units have completed its commands (R80, R347). -/
def launchOver (s : State) (l : Launch) : Bool :=
  decide (l.placed = l.pkt.teams) && !(s.teams.any fun t => t.launch == l.id) &&
    !(s.hub.saved.any fun v => v.teams.any fun t => t.launch == l.id) &&
    s.cores.all fun c => c.2.tenancy != some l.id || (c.2.matq.isEmpty && c.2.ixq.isEmpty)

/-- LAUNCH_COMPLETE (R347): the cores' write-backs, the launch time record, the SIG advance. -/
def execLaunchComplete (launch : Nat) (s : State) : Out :=
  .next (match launchOf s launch with
    | some l => if l.comp.isNone ∧ launchOver s l then contextIdle (endLaunch (endTenancies s l.id) l 0) l.tag else s
    | none => s)

/-- COMPENSATION_DONE (R378, R382): a compensation's team has retired, and its status decides how the walk goes on. -/
def execCompensationDone (launch : Nat) (s : State) : Out :=
  .next (match launchOf s launch with
    | some l =>
      match l.comp, s.hub.acts.find? fun a => a.running && l.comp.isSome && a.last == l.comp with
      | some _, some a =>
        if launchOver s l ∧ !walkPaused s l.tag then
          let (c, info) := l.compStatus.getD (0xFFFFFFFF, 2)
          let s := contextIdle (endLaunch (endTenancies s l.id) l 0) l.tag
          compDone s a c info
        else s
      | _, _ => s
    | none => s)

/-- A launch's period in ns (R359). -/
def Launch.period (l : Launch) : Nat := (if l.pkt.period = 0 then 100000 else l.pkt.period) * 1000

/-- WATCHDOG_FIRE (R359): the first firing stops the context and posts the event with the launch time record's address; the next
terminates it. -/
def execWatchdogFire (launch : Nat) (s : State) : Out :=
  .next (match launchOf s launch with
    | some l =>
      match slotOfTag s l.tag with
      | some n =>
        if l.elapsed < l.period ∨ l.tfirst.isNone ∨ ((getSlot s n).st ≠ 2 ∧ (getSlot s n).st ≠ 3) ∨ (l.placed = l.pkt.teams ∧ !(s.teams.any fun t => t.launch == l.id)) then s
        else if l.fired then
          terminate s n
            { cause := 0x24, info := 0, source := 6, log := 0, pc := 0, team := 0xFFFFFFFF, whereWord := 0, launchImage := l.pkt.image }
        else
          let (s, sec) := stopSlot (setLaunch s { l with fired := true, elapsed := 0 }) l.tag false
          let r : FaultRec :=
            { tag := l.tag, trapcode := trapWord 0x24 0 0, pc := 0, team := 0, core := 0, bench := 0, lanes := 0, rprog := 0,
              extra := l.pkt.ltr, secondary := sec, time := s.gtime }
          countFault { s with hub := { s.hub with records := s.hub.records ++ [r] } } l.id true
      | none => s
    | none => s)

/-- QCFG written (R344). -/
def writeQcfg (s : State) (q : Nat) (v : Word) : State :=
  let x := getQueue s q
  let v := v &&& 0xFFC00FFF
  let guarded := fld x.cfg 0 12 != fld v 0 12 || fld x.cfg 22 6 != fld v 22 6 || (x.cfg.getLsbD 31 && !v.getLsbD 31)
  let busy := !x.packets.isEmpty || s.teams.any fun t => s.hub.launches.any fun l => l.id == t.launch && l.comp.isNone && l.queue == q
  if guarded && busy then s
  else if fld x.cfg 0 12 = fld v 0 12 then setQueue s q { x with cfg := v }
  else setQueue s q { x with cfg := v, lastErr := 0, accepted := 0 }

/-- QCFG_WRITE. -/
def execQcfgWrite (queue : Nat) (value : BitVec 32) (s : State) : Out := .next (if queue < 256 then writeQcfg s queue value else s)

end Sys2Proof.Machine
end

