-- ==== Sys2Proof/Machine/MatArith.lean ====
section
/-! DEFINITION. The arithmetic of the matrix unit: types, shapes, elements and sums (R100, R117, R244 to R247). -/

namespace Sys2Proof.Machine

/-- The arithmetic paths of R117. -/
inductive MatPath
  | f64 | f32 | half | int | hse
  deriving DecidableEq, Repr

/-- A row of R244: the path, M, N, K, the k-steps and the elements of a k-step. -/
structure MatShape where
  path : MatPath
  m : Nat
  n : Nat
  k : Nat
  steps : Nat
  kw : Nat
  deriving DecidableEq, Repr

/-- The shape that ATYPE, BTYPE and ACCT select, where they are a valid combination (R244). -/
def matShape (a b acct : Nat) : Option MatShape :=
  if a = 1 ∧ b = 1 ∧ acct = 1 then some ⟨.f64, 32, 32, 8, 8, 1⟩
  else if a = 0 ∧ b = 0 ∧ acct = 0 then some ⟨.f32, 32, 32, 16, 16, 1⟩
  else if a = b ∧ (a = 2 ∨ a = 3) ∧ acct = 0 then some ⟨.half, 64, 64, 32, 2, 16⟩
  else if (a = 4 ∨ a = 5) ∧ (b = 4 ∨ b = 5) ∧ acct = 2 then some ⟨.int, 64, 64, 64, 4, 16⟩
  else if (a = 6 ∨ a = 7) ∧ (b = 6 ∨ b = 7) ∧ acct = 2 then some ⟨.int, 64, 64, 128, 8, 16⟩
  else if a = b ∧ a = 10 ∧ acct = 0 then some ⟨.hse, 64, 64, 64, 4, 16⟩
  else if a = b ∧ a = 9 ∧ acct = 0 then some ⟨.hse, 64, 64, 128, 8, 16⟩
  else if a = b ∧ a = 8 ∧ acct = 0 then some ⟨.hse, 64, 64, 256, 16, 16⟩
  else none

/-- ATYPE, BTYPE and ACCT of FMT (R72). -/
def fmtA (f : Word) : Nat := fld f 0 4
/-- BTYPE. -/
def fmtB (f : Word) : Nat := fld f 4 4
/-- ACCT. -/
def fmtAcc (f : Word) : Nat := fld f 8 3

/-- The bits of an element by its type's code (R72). -/
def elemBits (code : Nat) : Nat :=
  if code = 0 then 32 else if code = 1 then 64 else if code = 2 ∨ code = 3 then 16 else if code = 4 ∨ code = 5 then 8 else 4

/-- A list cut into pieces of n; fuel bounds the pieces. -/
def chunks {α : Type} (n : Nat) : Nat → List α → List (List α)
  | 0, _ => []
  | fuel + 1, l => if l.isEmpty then [] else l.take n :: chunks n fuel (l.drop n)

/-- The numbers of contiguous elements of n bytes each. -/
def elemNats (n : Nat) (b : List Byte) : List Nat := (chunks n b.length b).map leNat

/-- The floating-point elements of packed bytes (R103, R247). -/
def elemFloats (code : Nat) (b : List Byte) : List FV :=
  let F := if code = 0 then f32F else if code = 1 then f64F else if code = 2 then f16F else bf16F
  (elemNats (elemBits code / 8) b).map (unpack F false)

/-- The integer elements of packed bytes, each read as its own type (R99, R100). -/
def elemInts (code : Nat) (b : List Byte) : List Int :=
  if code = 4 then b.map BitVec.toInt
  else if code = 5 then b.map fun x => (x.toNat : Int)
  else b.flatMap fun x =>
    if code = 6 then [sxt 4 (x.toNat % 16), sxt 4 (x.toNat / 16)] else [((x.toNat % 16 : Nat) : Int), ((x.toNat / 16 : Nat) : Int)]

/-- The values of one HSE group (R118, R119). -/
def groupFloats (m : Nat) (elem : List Byte) (micro e : Nat) : List FV :=
  let v := leNat elem
  (List.range 16).map fun j => hseValue m e (sxt (1 + m) (v / 2 ^ (j * (1 + m)) % 2 ^ (1 + m))) (subShift micro j)

/-- The rows of a list of rows turned into columns, n of them. -/
def columns {α : Type} (n : Nat) (rows : List (List α)) : List (List α) :=
  (rows.reverse.foldl (fun cols row => row.zipWith (fun x c => x :: c) cols) (List.replicate n []))

/-- The status bits that an element's result sets (R246): FNAN 4, FINF 2. -/
def matStatus (F : FFmt) (r : FRes) : Nat :=
  let mag := r.bits % F.signBit
  (if F.infBits < mag then 4 else 0) + (if r.fl &&& flOF ≠ 0 ∧ mag = F.infBits then 2 else 0)

/-- A chain of fused steps, k ascending (R117). -/
def fuseChain (F : FFmt) (l : List (FV × FV)) (c : Nat) : FRes :=
  l.foldl (fun (r : FRes) x =>
    let y := ffmaV F .rn false x.1 x.2 (unpack F false r.bits)
    ⟨y.bits, r.fl ||| y.fl⟩) ⟨c, 0⟩

/-- A chunk's products summed exactly and rounded once, then added (R117). -/
def chunkSum (l : List (FV × FV)) (c : Nat) : FRes :=
  let s := roundV f32F .rn false (exactSum (l.map fun x => (mulV x.1 x.2).getD (.nan false)))
  let r := faddV f32F .rn false (unpack f32F false c) (unpack f32F false s.bits)
  ⟨r.bits, r.fl ||| s.fl⟩

/-- An integer k-step: the new element, and whether IOVF is set (R117). -/
def intStep (l : List (Int × Int)) (c : Nat) : Nat × Nat :=
  let x := l.foldl (fun a y => a + y.1 * y.2) (sxt 32 c)
  ((BitVec.ofInt 32 x).toNat, if x < -(2 ^ 31) ∨ 2 ^ 31 - 1 < x then 1 else 0)

/-- A rectangle of a tile's rows, given as a list of all rows, changed element by element: rows i0 to i0 + m - 1, columns below n. -/
def mapRect {α : Type} (g : Nat → Nat → α → α) (i0 m n : Nat) (rows : List (List α)) : List (List α) :=
  mapIdxFrom (fun i row => if i0 ≤ i ∧ i < i0 + m then mapIdxFrom (fun j x => if j < n then g (i - i0) j x else x) 0 row else row) 0 rows

/-- The rows of a rectangle combined with the rows of A and the columns of B: new rows and status bits. -/
def combineRect {β : Type} (g : List (β × β) → Nat → Nat × Nat) (i0 : Nat) (a : List (List β)) (bcols : List (List β))
    (rows : List (List Nat)) : List (List Nat) × Nat :=
  let out := mapIdxFrom (fun i row =>
    if i0 ≤ i then
      match a[i - i0]? with
      | some ar =>
        let new := (row.zip bcols).map fun x => g (ar.zip x.2) x.1
        (new.map (·.1) ++ row.drop bcols.length, new.foldl (fun s x => s ||| x.2) 0)
      | none => (row, 0)
    else (row, 0)) 0 rows
  (out.map (·.1), out.foldl (fun s x => s ||| x.2) 0)

/-- A float result as an element and its status bits. -/
def floatOut (F : FFmt) (r : FRes) : Nat × Nat := (r.bits, matStatus F r)

/-- Fused steps of a sparse product, each delivered into its element (R246, R257): the last value, and the status bits that they set. -/
def fuseEach (F : FFmt) (l : List (FV × FV)) (c : Nat) : Nat × Nat :=
  l.foldl (fun (r : Nat × Nat) x =>
    let y := floatOut F (ffmaV F .rn false x.1 x.2 (unpack F false r.1))
    (y.1, r.2 ||| y.2)) (c, 0)

end Sys2Proof.Machine
end

