-- ==== Sys2Proof/Machine/Matrix.lean ====
section
/-! DEFINITION. The matrix unit: its commands at issue and in the unit (R194, R243 to R265). -/

namespace Sys2Proof.Machine

/-- The tile of a matrix command. -/
def tileOf : Instr → Nat
  | .mma _ _ _ _ _ n | .mmaz _ _ _ _ _ n | .mmaBsr _ _ _ _ _ n | .mmaCsr _ _ _ _ _ n => n.toNat
  | .accz n | .accld _ _ _ n _ | .accst _ _ _ _ n _ _ _ | .accrd _ _ n | .accwr _ n => n.toNat
  | _ => 0

/-- A tile's elements: 4096 words, or 2048 dwords (R245). -/
def tileElems (s : State) (core n : Nat) (wide : Bool) : List Nat :=
  let c := getCore s core
  elemNats (if wide then 8 else 4) (Memory.slice c.pool (tilePool c n) 16384)

/-- A tile's rows: 64 words each, or 32 dwords. -/
def tileRows (s : State) (core n : Nat) (wide : Bool) : List (List Nat) :=
  chunks (if wide then 32 else 64) 64 (tileElems s core n wide)

/-- A tile's elements written. -/
def setTileElems (s : State) (core n : Nat) (wide : Bool) (l : List Nat) : State :=
  let c := getCore s core
  setCore s core { c with pool := Memory.splice c.pool (tilePool c n) (l.flatMap (leBytes (if wide then 8 else 4))) }

/-- Bits set in a tile's status word (R246). -/
def orStatus (s : State) (core n : Nat) (v : Nat) : State :=
  let c := getCore s core
  setCore s core { c with tileStatus := tabSet c.tileStatus n ((tabGet 0 c.tileStatus n : Word) ||| (BitVec.ofNat 32 v &&& 7)) }

/-- Bits 2:0 of a tile's status word replaced (R246). -/
def setStatus (s : State) (core n : Nat) (v : Word) : State :=
  let c := getCore s core
  setCore s core { c with tileStatus := tabSet c.tileStatus n (v &&& 7) }

/-- A tile takes the poison of a line (R252). -/
def poisonTile (s : State) (core n : Nat) (g : Option Poison) : State :=
  match g with
  | none => s
  | some p =>
    let c := getCore s core
    setCore s core { c with tilePoison := tabSet c.tilePoison n p }

/-- A tile's poison. -/
def tileTag (s : State) (core n : Nat) : Option Poison := ((getCore s core).tilePoison.find? fun x => x.1 == n).map (·.2)

/-- A tile's status word as it reads (R246). -/
def statusWord (s : State) (core n : Nat) : Word :=
  (tabGet 0 (getCore s core).tileStatus n : Word) ||| (if (tileTag s core n).isSome then 8 else 0)

/-- One HSE group read in the unit (R121, R146, R247): its values and poison. -/
def unitGroup (s : State) (t : Team) (d : HseDesc) (row g : Nat) : State × URun (List FV × Option Poison) :=
  let at' := fun (base : DWord) (o : Nat) => base + BitVec.ofNat 64 o
  match unitRange s t false (at' d.bmap (row * ((d.groups + 7) / 8))) (g / 8 + 1) with
  | (s, .error e) => (s, .error e)
  | (s, .ok (bm, p0)) =>
    match unitRanges t false s [(at' d.exps (row * d.groups + bitsTo bm g), 1), (at' d.micro (row * d.groups + g), 1),
        (at' d.elem ((row * d.groups + g) * hseGroup d.m), hseGroup d.m)] with
    | (s, .error e) => (s, .error e)
    | (s, .ok (bs, p1)) =>
      (s, .ok (groupFloats d.m ((bs[2]?).getD []) (leNat ((bs[1]?).getD [])) (leNat ((bs[0]?).getD [])), p0.or p1))

/-- The same group of several rows. -/
def unitGroups (t : Team) (d : HseDesc) (g : Nat) : State → List Nat → State × URun (List (List FV) × Option Poison)
  | s, [] => (s, .ok ([], none))
  | s, row :: r =>
    match unitGroup s t d row g with
    | (s, .error e) => (s, .error e)
    | (s, .ok (v, p)) =>
      match unitGroups t d g s r with
      | (s, .error e) => (s, .error e)
      | (s, .ok (vs, q)) => (s, .ok (v :: vs, p.or q))

/-- The ranges of a dense k-step: of each row of A its elements, and the rows of B (R247). -/
def denseRanges (c : MatCmd) (sh : MatShape) (step : Nat) : List (DWord × Nat) × List (DWord × Nat) :=
  let ba := elemBits (fmtA c.fmt)
  let bb := elemBits (fmtB c.fmt)
  ((List.range sh.m).map fun i =>
      (c.a + BitVec.ofNat 64 i * c.c + BitVec.ofNat 64 (step * sh.kw * ba / 8), sh.kw * ba / 8),
    (List.range sh.kw).map fun j => (c.b + BitVec.ofNat 64 (step * sh.kw + j) * c.e, sh.n * bb / 8))

/-- Whether a command has `.fe`. -/
def hasFe : Instr → Bool
  | .mma fe .. | .mmaz fe .. | .mmaBsr fe .. | .mmaCsr fe .. | .accld fe .. | .accst fe .. => fe
  | _ => false

/-- The operands of a k-step as bytes: A's rows, B's rows, and poison. -/
def denseBytes (s : State) (t : Team) (c : MatCmd) (sh : MatShape) (step : Nat) :
    State × URun (List (List Byte) × List (List Byte) × Option Poison) :=
  let (ra, rb) := denseRanges c sh step
  match unitRanges t (hasFe c.instr) s ra with
  | (s, .error e) => (s, .error e)
  | (s, .ok (a, p)) =>
    match unitRanges t (hasFe c.instr) s rb with
    | (s, .error e) => (s, .error e)
    | (s, .ok (b, q)) => (s, .ok (a, b, p.or q))

/-- The operands of an HSE k-step: one group of 64 rows of each descriptor (R247). -/
def hseOperands (s : State) (t : Team) (c : MatCmd) (step : Nat) : State × URun (List (List FV) × List (List FV) × Option Poison) :=
  let rows := fun (w : DWord) => (List.range 64).map fun i => fld w 32 16 + i
  match hseDesc (fmtA c.fmt) c.descA, hseDesc (fmtB c.fmt) c.descB with
  | some da, some db =>
    match unitGroups t da (fld c.c 0 16 + step) s (rows c.c) with
    | (s, .error e) => (s, .error e)
    | (s, .ok (a, p)) =>
      match unitGroups t db (fld c.e 0 16 + step) s (rows c.e) with
      | (s, .error e) => (s, .error e)
      | (s, .ok (b, q)) => (s, .ok (a, b, p.or q))
  | _, _ => (s, .ok ([], [], none))

/-- What a k-step makes of a tile's rows, given as rows of A and columns of B. -/
def tileStep (s : State) (core n : Nat) (wide : Bool) (p : Option Poison) (g : List (List Nat) → List (List Nat) × Nat) : State :=
  let (rows, st) := g (tileRows s core n wide)
  poisonTile (orStatus (setTileElems s core n wide rows.flatten) core n st) core n p

/-- One k-step of MMA or MMAZ (R117, R249). -/
def denseStep (s : State) (t : Team) (core : Nat) (c : MatCmd) (sh : MatShape) (step : Nat) : State × URun Unit :=
  let n := tileOf c.instr
  if sh.path = .hse then
    match hseOperands s t c step with
    | (s, .error e) => (s, .error e)
    | (s, .ok (a, b, p)) => (tileStep s core n false p (combineRect (fun l x => floatOut f32F (chunkSum l x)) 0 a b), .ok ())
  else
    match denseBytes s t c sh step with
    | (s, .error e) => (s, .error e)
    | (s, .ok (a, b, p)) =>
      let wide := sh.path == .f64
      let F := if wide then f64F else f32F
      if sh.path = .int then
        let cols := columns sh.n (b.map (elemInts (fmtB c.fmt)))
        (tileStep s core n false p (combineRect intStep 0 (a.map (elemInts (fmtA c.fmt))) cols), .ok ())
      else
        let cols := columns sh.n (b.map (elemFloats (fmtB c.fmt)))
        let g := fun (l : List (FV × FV)) (x : Nat) =>
          floatOut F (if sh.path = .half then chunkSum l x else fuseChain F l x)
        (tileStep s core n wide p (combineRect g 0 (a.map (elemFloats (fmtA c.fmt))) cols), .ok ())

/-- How far the unit has come with a command. -/
inductive UOut
  | done
  | more
  | stop (e : UStop)
  deriving DecidableEq, Repr

/-- A command's units of progress taken in turn, fuel of them. -/
def unitLoop (work : State → Nat → State × URun Unit) : Nat → State → MatCmd → State × MatCmd × UOut
  | 0, s, c => (s, c, .done)
  | fuel + 1, s, c =>
    match work s c.count with
    | (s, .error e) => (s, c, .stop e)
    | (s, .ok ()) => unitLoop work fuel s { c with count := c.count + 1 }

/-- MMA and MMAZ in the unit (R249). -/
def runDense (s : State) (t : Team) (core : Nat) (c : MatCmd) : State × MatCmd × UOut :=
  match matShape (fmtA c.fmt) (fmtB c.fmt) (fmtAcc c.fmt) with
  | none => (s, c, .done)
  | some sh =>
    let n := tileOf c.instr
    let zero := match c.instr with
      | .mmaz .. => c.count == 0
      | _ => false
    let wide := sh.path == .f64
    let s := if zero then
        setStatus (setTileElems s core n wide (mapRect (fun _ _ _ => 0) 0 sh.m sh.n (tileRows s core n wide)).flatten) core n 0
      else s
    unitLoop (fun s k => denseStep s t core c sh k) (sh.steps - c.count) s c

/-- The fields of a sparse descriptor (R255). -/
structure SparseDesc where
  rowptr : DWord
  colidx : DWord
  values : DWord
  nrows : Nat
  ncols : Nat
  form : Nat
  zeros : Bool
  deriving DecidableEq, Repr

/-- A sparse descriptor's 64 bytes read (R255). -/
def sparseDesc (b : List Byte) : SparseDesc :=
  let q := fun (o : Nat) => BitVec.ofNat 64 (leNat ((b.drop o).take 8))
  let w := fun (o : Nat) => leNat ((b.drop o).take 4)
  { rowptr := q 0, colidx := q 8, values := q 0x10, nrows := w 0x18, ncols := w 0x1C, form := w 0x20,
    zeros := (b.drop 0x24).all (· == 0) }

/-- Whether a command is MMA.BSR. -/
def isBsr : Instr → Bool
  | .mmaBsr .. => true
  | _ => false

/-- The row and index of the entry of a strip that comes after n others, where there is one (R257), and the poison of the pointers read
(R252); rows left to look at, and the poison met so far. -/
def sparseAt (t : Team) (fe : Bool) (d : SparseDesc) (base : Nat) :
    List Nat → Nat → Option Poison → State → State × URun (Option (Nat × Nat) × Option Poison)
  | [], _, p, s => (s, .ok (none, p))
  | q :: r, n, p, s =>
    if d.nrows ≤ base + q then sparseAt t fe d base r n p s
    else
      let va := d.rowptr + BitVec.ofNat 64 (4 * (base + q))
      match unitRange s t fe va 8 with
      | (s, .error e) => (s, .error e)
      | (s, .ok (b, g)) =>
        let lo := leNat (b.take 4)
        let hi := leNat (b.drop 4)
        if hi < lo then (s, .error (.bad 0x15 6 va))
        else if n < hi - lo then (s, .ok (some (q, lo + n), p.or g))
        else sparseAt t fe d base r (n - (hi - lo)) (p.or g) s

/-- Block or nonzero b of row q of a strip (R257). -/
def sparseEntry (s : State) (t : Team) (core : Nat) (c : MatCmd) (d : SparseDesc) (q b : Nat) : State × URun Unit :=
  let bsr := isBsr c.instr
  let code := fmtA c.fmt
  let wide := code == 1
  let half := code == 2 || code == 3
  let size := elemBits code / 8
  let n := if half then 64 else 32
  let sb := if bsr then (if half then 16 else 8) else 1
  let fe := hasFe c.instr
  match unitRange s t fe (d.colidx + BitVec.ofNat 64 (4 * b)) 4 with
  | (s, .error e) => (s, .error e)
  | (s, .ok (ci, p0)) =>
    let col := leNat ci
    if d.ncols ≤ col then (s, .error (.bad 0x15 6 (d.colidx + BitVec.ofNat 64 (4 * b))))
    else
      let bytes := sb * sb * size
      let rowsB := (List.range sb).map fun k => (c.b + BitVec.ofNat 64 (col * sb + k) * c.c, n * size)
      match unitRanges t fe s ((d.values + BitVec.ofNat 64 (bytes * b), bytes) :: rowsB) with
      | (s, .error e) => (s, .error e)
      | (s, .ok (bs, p1)) =>
        let a := chunks sb sb (elemFloats code ((bs[0]?).getD []))
        let cols := columns n ((bs.drop 1).map (elemFloats code))
        let F := if wide then f64F else f32F
        let g := fun (l : List (FV × FV)) (x : Nat) => if half then floatOut F (chunkSum l x) else fuseEach F l x
        (tileStep s core (tileOf c.instr) wide (p0.or p1) (combineRect g (q * sb) a cols), .ok ())

/-- Blocks or nonzeros of one tile step (R256): fuel of them. -/
def sparseRun (t : Team) (core : Nat) (d : SparseDesc) : Nat → State → MatCmd → State × MatCmd × UOut
  | 0, s, c => (s, c, .more)
  | fuel + 1, s, c =>
    let rows := if isBsr c.instr then 4 else 32
    match sparseAt t (hasFe c.instr) d (rows * (lo32 c.e).toNat) (List.range rows) c.count none s with
    | (s, .error e) => (s, c, .stop e)
    | (s, .ok (none, p)) => (poisonTile s core (tileOf c.instr) p, c, .done)
    | (s, .ok (some (q, b), p)) =>
      match sparseEntry (poisonTile s core (tileOf c.instr) p) t core c d q b with
      | (s, .error e) => (s, c, .stop e)
      | (s, .ok ()) => sparseRun t core d fuel s { c with count := c.count + 1 }

/-- One tile step of MMA.BSR or MMA.CSR, from where it stopped; each beyond the first is charged once, as it begins (R256, R278). -/
def runSparse (s : State) (t : Team) (core : Nat) (c : MatCmd) : State × MatCmd × UOut :=
  let wide := fmtA c.fmt == 1
  let size := if isBsr c.instr then (if wide then 4 else 8) else if wide then 256 else 512
  let s := if c.paid ≤ c.count / size then charge s core (8000 * 16) else s
  let c := { c with paid := max c.paid (c.count / size + 1) }
  let r := sparseRun t core (sparseDesc c.descA) (size - c.count % size) s c
  match r with
  | (s, c, .more) =>
    let rows := if isBsr c.instr then 4 else 32
    match sparseAt t (hasFe c.instr) (sparseDesc c.descA) (rows * (lo32 c.e).toNat) (List.range rows) c.count none s with
    | (s, .ok (none, p)) => (poisonTile s core (tileOf c.instr) p, c, .done)
    | _ => r
  | _ => r

/-- A shape word: rows, columns and stride (R259). -/
def shapeRows (w : DWord) : Nat := fld w 32 8 + 1
/-- Its columns. -/
def shapeCols (w : DWord) : Nat := fld w 40 8 + 1
/-- Its stride. -/
def shapeStride (w : DWord) : DWord := (lo32 w).signExtend 64

/-- The type of the accumulator reading (R245). -/
def acctTy (acct : Nat) : CvtTy := if acct = 1 then .f64 else if acct = 2 then .i32 else .f32

/-- The bytes of a memory type (R54). -/
def tyBytes (t : CvtTy) : Nat :=
  match t with
  | .f64 | .i64 | .n64 => 8
  | .f32 | .i32 | .n32 => 4
  | .f16 | .bf16 | .i16 | .n16 => 2
  | .i8 | .n8 => 1

/-- Whether a pair of types copies bits (R260). -/
def sameBits (a b : CvtTy) : Bool := a == b || (a == .i32 && b == .n32)

/-- Row r of ACCLD (R259, R260). -/
def accldRow (s : State) (t : Team) (core : Nat) (c : MatCmd) (ty : CvtTy) (r : Nat) : State × URun Unit :=
  let acct := acctTy (fmtAcc c.fmt)
  let wide := acct == .f64
  let n := tileOf c.instr
  let cols := shapeCols c.b
  match unitRange s t (hasFe c.instr) (c.a + BitVec.ofNat 64 r * shapeStride c.b) (cols * tyBytes ty) with
  | (s, .error e) => (s, .error e)
  | (s, .ok (b, p)) =>
    let vals := (elemNats (tyBytes ty) b).map fun x =>
      if sameBits acct ty then x else ((cvtOne ty acct .rn false false x).1.toNat) % 2 ^ (if wide then 64 else 32)
    let s := if r = 0 then setStatus s core n 0 else s
    (tileStep s core n wide p fun rows => (mapRect (fun _ j _ => (vals[j]?).getD 0) r 1 cols rows, 0), .ok ())

/-- Whether a later row of a stored sub-block reaches the 16 bytes from g on. -/
def laterRow (c : MatCmd) (len r : Nat) (g : Nat) : Bool :=
  (List.range (shapeRows c.b)).any fun k =>
    let a := (c.a + BitVec.ofNat 64 k * shapeStride c.b).toNat
    decide (r < k) && decide (a < g + 16) && decide (g < a + len)

/-- The granules that a row has filled, set full where no later row reaches them (R259). -/
def fillRow (s : State) (t : Team) (c : MatCmd) (va : DWord) (len r : Nat) : State :=
  match spTarget s t (va.toNat % 2 ^ 32) with
  | none => s
  | some (core, off) =>
    fillGranules s (((granulesOf off len).filter fun g => !laterRow c len r (va.toNat - off + g)).map fun g => (core, g))

/-- Row r of the sub-block as its ACCT elements. -/
def subRow (s : State) (core : Nat) (c : MatCmd) (r : Nat) : List Nat :=
  (((tileRows s core (tileOf c.instr) (fmtAcc c.fmt == 1))[r]?).getD []).take (shapeCols c.b)

/-- Row r of ACCST to a plain memory type (R259, R260). -/
def accstRow (s : State) (t : Team) (core : Nat) (c : MatCmd) (ty : CvtTy) (r : Nat) : State × URun Unit :=
  let acct := acctTy (fmtAcc c.fmt)
  let va := c.a + BitVec.ofNat 64 r * shapeStride c.b
  let data := (subRow s core c r).flatMap fun x =>
    leBytes (tyBytes ty) (if sameBits acct ty then x
      else (cvtOne acct ty (fmtRnd c.fmt) (fmtSat c.fmt) (fmtFtz c.fmt) x).1.toNat)
  match unitWrite s t c.pc (tileTag s core (tileOf c.instr)) va data with
  | (s, .error e) => (s, .error e)
  | (s, .ok ()) => (if hasFe c.instr && windowOk va then fillRow s t c va data.length r else s, .ok ())

/-- Row r of ACCST to an HSE type (R123, R260). -/
def accstHse (s : State) (t : Team) (core : Nat) (c : MatCmd) (d : HseDesc) (r : Nat) : State × URun Unit :=
  let xs := subRow s core c r
  let q := quantise d.m d.groups (fmtFtz c.fmt)
    ((xs ++ List.replicate (16 * d.groups - xs.length) 0).map (BitVec.ofNat 32))
  let p := tileTag s core (tileOf c.instr)
  let parts := [(d.elem + BitVec.ofNat 64 (r * d.groups * hseGroup d.m), q.elem), (d.micro + BitVec.ofNat 64 (r * d.groups), q.micro),
    (d.bmap + BitVec.ofNat 64 (r * ((d.groups + 7) / 8)), q.bmap), (d.exps + BitVec.ofNat 64 (r * d.groups), q.exps)]
  parts.foldl (fun x y => match x with
    | (s, .error e) => (s, .error e)
    | (s, .ok ()) => unitWrite s t c.pc p y.1 y.2) (s, .ok ())

/-- The largest absolute value of a sub-block, as f32 rounded up (R261). -/
def amaxOf (s : State) (core : Nat) (c : MatCmd) : Nat :=
  let acct := fmtAcc c.fmt
  let F := if acct = 1 then f64F else f32F
  let vals := (List.range (shapeRows c.b)).flatMap (subRow s core c)
  let mags : List FV := vals.filterMap fun x =>
    if acct = 2 then some (.fin false (sxt 32 x).natAbs 0)
    else match unpack F false x with
      | .nan _ => none
      | .inf _ => some (.inf false)
      | .fin _ m e => some (.fin false m e)
  (roundV f32F .ru false (mags.foldl (fun a x => if a.lt x then x else a) (.fin false 0 0))).bits

/-- The amax merge (R261): as ATOM.fmax without an order qualifier. -/
def amaxMerge (s : State) (t : Team) (core : Nat) (c : MatCmd) (sc : Scope) : State × URun Unit :=
  let g := fun (m : DWord) => atomNew .fmax m (BitVec.ofNat 64 (amaxOf s core c)) 0
  let after : State × Except Poison DWord → State × URun Unit := fun r => match r with
    | (s, .ok _) => (s, .ok ())
    | (s, .error p) => (poisonKill s t 0x21 c.pc [p] (some c.c), .ok ())
  match checkAtom s t 4 sc c.c with
  | .ok (.bank co off) => after (bankRmw s co off 4 g)
  | .ok (.global va) =>
    match locate s t va .rw with
    | (s, .at l) => after (globalRmw s t l 4 g)
    | (s, .miss die tag page level) => (s, .error (.miss die tag page level AccKind.rw.bits va))
    | (s, .zero f o) => (s, .error (.zero f o))
    | (s, .perm i) => (s, .error (.bad 0x11 i va))
    | (s, .tail) => (s, .error (.bad 0x12 0 va))
  | .error _ => (s, .error (.bad 0x11 0 c.c))

/-- ACCLD and ACCST in the unit: rows in order, then the amax merge (R259 to R262). -/
def runAcc (s : State) (t : Team) (core : Nat) (c : MatCmd) : State × MatCmd × UOut :=
  let rows := shapeRows c.b
  match c.instr with
  | .accld _ _ _ _ ty =>
    match CvtTy.ofCode ty.toNat with
    | some ty => unitLoop (fun s r => accldRow s t core c ty r) (rows - c.count) s c
    | none => (s, c, .done)
  | .accst _ _ _ _ _ ty sc amax =>
    if c.allHelpers then (s, c, .done)
    else
      let row := fun (s : State) (r : Nat) =>
        if r = rows then amaxMerge s t core c sc
        else match CvtTy.ofCode ty.toNat with
          | some ty => accstRow s t core c ty r
          | none => match hseDesc (ty.toNat - 4) c.descA with
            | some d => accstHse s t core c d r
            | none => (s, .ok ())
      unitLoop row (rows + (if amax then 1 else 0) - c.count) s c
  | _ => (s, c, .done)

/-- ACCRD in the unit (R252, R263): each lane's element, status word or 0. -/
def runAccrd (s : State) (core : Nat) (c : MatCmd) (wide : Bool) : State :=
  let n := tileOf c.instr
  let elems := tileElems s core n wide
  c.lanes.foldl (fun (s : State) (x : Nat × Word × DWord) =>
    let i := x.2.1
    let (v, p) : Nat × Option Poison := if i = 0xFFFFFFFF then ((statusWord s core n).toNat, none)
      else match elems[i.toNat]? with
        | some v => (v, tileTag s core n)
        | none => (0, none)
    let d : DWord := BitVec.ofNat 64 v
    let es : List Entry := if wide then [{ bits := hi32 d, poison := p }, { bits := lo32 d, poison := p }] else [{ bits := lo32 d, poison := p }]
    deliverLane s c.team c.sb x.1 es) s

/-- ACCWR in the unit (R263): lanes in order, so the highest-numbered stands. -/
def runAccwr (s : State) (core : Nat) (c : MatCmd) (wide : Bool) : State :=
  if c.allHelpers then s
  else
    let n := tileOf c.instr
    c.lanes.foldl (fun s x =>
      if x.2.1 = 0xFFFFFFFF then setStatus s core n (lo32 x.2.2)
      else if x.2.1.toNat < (if wide then 2048 else 4096) then
        let k := getCore s core
        let b := if wide then leBytes 8 x.2.2.toNat else leBytes 4 (lo32 x.2.2).toNat
        setCore s core { k with pool := Memory.write k.pool (tilePool k n + x.2.1.toNat * b.length) b }
      else s) s

/-- ACCZ in the unit (R258). -/
def runAccz (s : State) (core n : Nat) : State :=
  let c := getCore s core
  setCore s core { c with
    pool := Memory.clear c.pool (tilePool c n) (tilePool c n + 16384)
    tileStatus := tabSet c.tileStatus n 0
    tilePoison := tabDel c.tilePoison n }

/-- A command in the unit: until it is done, or a tile step of a sparse one is, or it cannot go on. -/
def runMat (s : State) (core : Nat) (c : MatCmd) : State × MatCmd × UOut :=
  let t := cmdTeam s core c.team
  match c.instr with
  | .mma .. | .mmaz .. => runDense s t core c
  | .mmaBsr .. | .mmaCsr .. => runSparse s t core c
  | .accld .. | .accst .. => runAcc s t core c
  | .accz n => (runAccz s core n.toNat, c, .done)
  | .accrd _ wide _ => (runAccrd s core c wide, c, .done)
  | .accwr wide _ => (runAccwr s core c wide, c, .done)
  | _ => (s, c, .done)

/-- RPROG of a held command (R250). -/
def rprogOf (c : MatCmd) : Word :=
  let kind := match c.instr with
    | .mmaBsr .. => 2
    | .mmaCsr .. => 3
    | _ => 1
  BitVec.ofNat 32 (kind * 2 ^ 30 + c.count % 2 ^ 30)

/-- A command moved out of the queue as the team's held one, with the team's later ones (R251). -/
def holdMat (s : State) (core : Nat) (c : MatCmd) : State :=
  let k := getCore s core
  let later := (k.matq.drop 1).filter fun m => m.team == c.team
  let s := setCore s core { k with matq := (k.matq.drop 1).filter fun m => m.team != c.team }
  modTeam s c.team fun t => { t with held := some c, removed := later, rprog := rprogOf c }

/-- The head of a core's matrix queue replaced by commands. -/
def putHead (s : State) (core : Nat) (l : List MatCmd) : State :=
  let k := getCore s core
  setCore s core { k with matq := l ++ k.matq.drop 1 }

/-- MATRIX_EXECUTE (R194, R249 to R263): the unit's next command, in acceptance order. -/
def matrixExecute (s : State) (core : Nat) : State :=
  match (getCore s core).matq with
  | [] => s
  | c :: _ =>
    let t := cmdTeam s core c.team
    match runMat s core c with
    | (s, _, .done) =>
      let s := modTeam (putHead s core []) c.team fun t => { t with rprog := 0 }
      settleSb s c.team
    | (s, c', .more) => putHead s core [c']
    | (s, c', .stop .empty) => putHead s core [c']
    | (s, c', .stop (.zero f o)) => startZero (putHead s core [c']) f o
    | (s, c', .stop (.miss die tag page level access va)) =>
      let s := putHead s core [c']
      (match unitWaiter s t c.pc .matrix die tag page level access va with
        | some s => holdMat s core c'
        | none => s)
    | (s, c', .stop (.bad code info va)) =>
      let s := holdMat (putHead s core [c']) core c'
      unitFault s (cmdTeam s core c.team) code info c.pc va

/-- MATRIX_EXECUTE. -/
def execMatrixExecute (core : Nat) (s : State) : Out := .next (if pulseAt s core then matrixExecute s core else s)

/-- The held command and the removed ones re-enter the tail of the queue (R251), beyond the 4 entries of R194 where they are full: no wait
is given for them (log entry 13). Fragments that wait for them are READY. -/
def requeueMat (s : State) (uid : Nat) : State :=
  match teamOf s uid with
  | none => s
  | some t =>
    let k := getCore s t.core
    let s := setCore s t.core { k with matq := k.matq ++ t.held.toList ++ t.removed }
    modTeam s uid fun t => { t with held := none, removed := [] }

/-- A tile that the core's partition has (R245): a check of decoding (R51). -/
def checkTile (s : State) (t : Team) (n : BitVec 8) : Run Unit :=
  need (decide (n.toNat < 192) && decide (n.toNat < 4 * partAcc (getCore s t.core).cpart)) (.illop 4)

/-- The region rule and the queue's room, which come last (R249, R264). -/
def acceptMat (s : State) (t : Team) (region : Bool) (c : MatCmd) : Run State := do
  need (!(region && t.region.isSome)) (.s 0x16 0)
  let k := getCore s t.core
  need (decide (k.matq.length < 4)) (.park .matrixQueue id)
  .ok (setCore s t.core { k with matq := k.matq ++ [c] })

/-- A command of a team with nothing done yet. -/
def matCmd (i : Instr) (t : Team) (f : Frag) (a b c e : DWord) : MatCmd :=
  { team := t.uid, instr := i, pc := f.pc, fmt := f.fmt, a, b, c, e, count := 0, paid := 1, lanes := [], sb := 0,
    allHelpers := !t.acts f, descA := [], descB := [] }

/-- A position word of an HSE operand (R247). -/
def checkPosition (w : DWord) (k groups : Nat) : Run Unit :=
  need (w &&& 0xFFFF0000FFFF0000 == 0 && decide (fld w 0 16 + k / 16 ≤ groups)) (.s 0x15 8)

/-- MMA and MMAZ at issue (R249). -/
def mmaIns (i : Instr) (fe : Bool) (sa sb sc se : SReg) (tile : BitVec 8) (s : State) : Out :=
  issue i { scalars := [sa, sb, sc, se] } (fun t => checkTile s t tile)
    (fun s t f => do
      checkConverged t f
      match matShape (fmtA f.fmt) (fmtB f.fmt) (fmtAcc f.fmt) with
      | none => .error (.s 0x15 5)
      | some sh => do
        let (a, b, c, e) := (getS t sa, getS t sb, getS t sc, getS t se)
        checkOperand s t a
        checkOperand s t b
        let cmd := matCmd i t f a b c e
        if sh.path = .hse then do
          need (!fe) (.s 0x15 8)
          let (s, ba, da) ← issueHse s t f (fmtA f.fmt) a
          let (s, bb, db) ← issueHse s t f (fmtB f.fmt) b
          checkPosition c sh.k da.groups
          checkPosition e sh.k db.groups
          acceptMat s t true { cmd with descA := ba, descB := bb }
        else do
          need (alignedTo a 16 && alignedTo b 16 && alignedTo c 16 && alignedTo e 16) (.fault 0x14 0 (some a))
          need (!(fe && (globalOk a || globalOk b))) (.s 0x15 8)
          acceptMat s t true cmd) s

/-- MMA. -/
def execMma (fe : Bool) (sa sb sc se : SReg) (tile : BitVec 8) (s : State) : Out :=
  mmaIns (.mma fe sa sb sc se tile) fe sa sb sc se tile s
/-- MMAZ. -/
def execMmaz (fe : Bool) (sa sb sc se : SReg) (tile : BitVec 8) (s : State) : Out :=
  mmaIns (.mmaz fe sa sb sc se tile) fe sa sb sc se tile s

/-- Whether FMT selects a type of a sparse product (R255). -/
def sparseFmt (bsr : Bool) (f : Word) : Bool :=
  let a := fmtA f
  a == fmtB f && ((a == 1 && fmtAcc f == 1) || (fmtAcc f == 0 && (if bsr then a == 2 || a == 3 else a == 0)))

/-- MMA.BSR and MMA.CSR at issue (R255). With .fe a global address of B, ROWPTR, COLIDX or VALUES is refused alike: which of them the rule
means is the model's reading (log entry 37). -/
def sparseIns (i : Instr) (fe : Bool) (sa sb sc se : SReg) (tile : BitVec 8) (s : State) : Out :=
  issue i { scalars := [sa, sb, sc, se] } (fun t => checkTile s t tile)
    (fun s t f => do
      checkConverged t f
      need (sparseFmt (isBsr i) f.fmt) (.s 0x15 5)
      let (a, b, c, e) := (getS t sa, getS t sb, getS t sc, getS t se)
      need (globalOk a) (.fault 0x11 0 (some a))
      need (!a.getLsbD 55) (.fault 0x11 6 (some a))
      checkOperand s t b
      need (alignedTo b 16 && alignedTo c 16) (.fault 0x14 0 (some b))
      need (alignedTo a 64) (.fault 0x15 6 (some a))
      let (s, bytes) ← readRange s t f a 64
      let d := sparseDesc bytes
      need (alignedTo d.rowptr 4 && alignedTo d.colidx 4 && alignedTo d.values 16 && d.zeros && d.nrows != 0 && d.ncols != 0 &&
        d.form == fmtA f.fmt + (if isBsr i then 0 else 16)) (.fault 0x15 6 (some a))
      need (!(fe && (globalOk b || globalOk d.rowptr || globalOk d.colidx || globalOk d.values))) (.s 0x15 8)
      need (hi32 e == 0) (.s 0x15 8)
      acceptMat s t true { matCmd i t f a b c e with descA := bytes }) s

/-- MMA.BSR. -/
def execMmaBsr (fe : Bool) (sa sb sc se : SReg) (tile : BitVec 8) (s : State) : Out :=
  sparseIns (.mmaBsr fe sa sb sc se tile) fe sa sb sc se tile s
/-- MMA.CSR. -/
def execMmaCsr (fe : Bool) (sa sb sc se : SReg) (tile : BitVec 8) (s : State) : Out :=
  sparseIns (.mmaCsr fe sa sb sc se tile) fe sa sb sc se tile s

/-- ACCZ (R258). -/
def execAccz (tile : BitVec 8) (s : State) : Out :=
  issue (.accz tile) {} (fun t => checkTile s t tile)
    (fun s t f => do
      checkConverged t f
      acceptMat s t true (matCmd (.accz tile) t f 0 0 0 0)) s

/-- Whether ACCLD reads a memory type into an accumulator type (R260). -/
def accldPair (acct : Nat) (ty : CvtTy) : Bool :=
  match ty with
  | .f32 => acct == 0 || acct == 1
  | .f16 | .bf16 => acct == 0
  | .f64 => acct == 1
  | .i32 | .n32 | .i16 | .n16 | .i8 | .n8 => acct == 2
  | _ => false

/-- Whether ACCST writes an accumulator type to a memory type (R260); the HSE types apart. -/
def accstPair (acct : Nat) (ty : CvtTy) : Bool :=
  match ty with
  | .f32 => true
  | .f16 | .bf16 => acct == 0
  | .f64 => acct == 1
  | .i32 | .i16 | .i8 => acct == 0 || acct == 2
  | .n32 | .n16 | .n8 => acct == 2
  | _ => false

/-- The checks of a shape word (R259); a ROWS field above 63 is DESC_INVALID (log entry 51). -/
def checkShape (acct : Nat) (hse : Bool) (w : DWord) : Run Unit :=
  need (fld w 48 16 == 0 && decide (shapeRows w ≤ 64) && decide (shapeCols w ≤ (if acct = 1 then 32 else 64)) &&
    (!hse || lo32 w == 0)) (.s 0x15 8)

/-- The checks of a plain memory operand of ACCLD and ACCST (R247, R248, R259). -/
def checkAccMem (s : State) (t : Team) (fe : Bool) (a w : DWord) (size : Nat) : Run Unit := do
  checkOperand s t a
  need (alignedTo a size && decide ((lo32 w).toNat % size = 0)) (.fault 0x14 0 (some a))
  need (!(fe && globalOk a)) (.s 0x15 8)

/-- ACCLD (R259, R260). -/
def execAccld (fe : Bool) (sa sb : SReg) (tile : BitVec 8) (ty : BitVec 4) (s : State) : Out :=
  let i : Instr := .accld fe sa sb tile ty
  issue i { scalars := [sa, sb] } (fun t => do need (decide (ty.toNat < 12)) (.illop 4); checkTile s t tile)
    (fun s t f => do
      checkConverged t f
      let acct := fmtAcc f.fmt
      match CvtTy.ofCode ty.toNat with
      | none => .error (.s 0x15 5)
      | some k => do
        need (accldPair acct k) (.s 0x15 5)
        checkShape acct false (getS t sb)
        checkAccMem s t fe (getS t sa) (getS t sb) (tyBytes k)
        acceptMat s t true (matCmd i t f (getS t sa) (getS t sb) 0 0)) s

/-- The checks of an amax merge's word (R225, R261): as an atomic's, but an operand in the pod window is PERM with INFO 6 (R436). -/
def checkMerge (s : State) (t : Team) (scope : Scope) (va : DWord) : Run Unit := do
  need (!(globalOk va && va.getLsbD 55)) (.fault 0x11 6 (some va))
  let _ ← checkAtom s t 4 scope va
  .ok ()

/-- ACCST (R259 to R261). -/
def execAccst (fe : Bool) (sa sb sc : SReg) (tile : BitVec 8) (ty : BitVec 4) (scope : Scope) (amax : Bool) (s : State) : Out :=
  let i : Instr := .accst fe sa sb sc tile ty scope amax
  issue i { scalars := if amax then [sa, sb, sc] else [sa, sb] }
    (fun t => do need (decide (ty.toNat < 15)) (.illop 4); checkTile s t tile)
    (fun s t f => do
      checkConverged t f
      let acct := fmtAcc f.fmt
      let a := getS t sa
      let w := getS t sb
      let cmd := matCmd i t f a w (getS t sc) 0
      let merge : Run Unit := if amax then checkMerge s t scope (getS t sc) else .ok ()
      match CvtTy.ofCode ty.toNat with
      | some k => do
        need (accstPair acct k) (.s 0x15 5)
        checkShape acct false w
        checkAccMem s t fe a w (tyBytes k)
        merge
        acceptMat s t true cmd
      | none => do
        need (acct == 0) (.s 0x15 5)
        checkShape acct true w
        checkOperand s t a
        need (!fe) (.s 0x15 8)
        let (s, b, d) ← issueHse s t f (ty.toNat - 4) a
        need (decide ((shapeCols w + 15) / 16 ≤ d.groups)) (.s 0x15 8)
        merge
        acceptMat s t true { cmd with descA := b }) s

/-- ACCRD (R263): its result is pending until the unit has read the tile. -/
def execAccrd (la : BitVec 4) (wide : Bool) (tile : BitVec 8) (s : State) : Out :=
  let q := if wide then 2 else 1
  issue (.accrd la wide tile) { pops := 1, pushes := q } (fun t => checkTile s t tile)
    (fun s t f => do
      checkConverged t f
      match teamOf s t.uid with
      | none => .ok s
      | some u => do
        let (u, sb) ← takeSb (u.stackOp f 1 q fun _ _ => List.replicate q Entry.zero) f q la true
        let lanes := (t.accessors f).map fun l => (l, t.opd l 0, (0 : DWord))
        acceptMat (setTeam s u) t false { matCmd (.accrd la wide tile) t f 0 0 0 0 with lanes, sb }) s

/-- ACCWR (R263, R265). -/
def execAccwr (wide : Bool) (tile : BitVec 8) (s : State) : Out :=
  let p := if wide then 3 else 2
  issue (.accwr wide tile) { pops := p } (fun t => checkTile s t tile)
    (fun s t f => do
      checkConverged t f
      let val := fun l => if wide then t.opd2 l 1 else (t.opd l 1).setWidth 64
      checkPairs t (fun l => (t.opd l 0, val l)) (t.accessors f)
      let lanes := (t.accessors f).map fun l => (l, t.opd l 0, val l)
      let s := modTeam s t.uid fun u => u.stackOp f p 0 fun _ _ => []
      acceptMat s t true { matCmd (.accwr wide tile) t f 0 0 0 0 with lanes }) s

end Sys2Proof.Machine
end

