-- ==== Sys2Proof/Machine/Save.lean ====
section
/-! DEFINITION. Save areas: the image of a team, of a split entry and of a core, and reading them back (R77, R356 to R358). -/

namespace Sys2Proof.Machine

/-- A size rounded up to 64 bytes. -/
def up64 (n : Nat) : Nat := (n + 63) / 64 * 64

/-- The sizes of the areas of a team's save area, in their order (R356). -/
def tsaAreas (t : Team) : List Nat :=
  let w := t.words
  [512, 64 * (32 + 24 * w), 4 * w, 256, 160, 4 * t.stackDecl * t.width, 4 * t.localsDecl * t.width, 4096, 256].map up64

/-- TSASIZE (R356). -/
def tsaSize (t : Team) : Nat := (tsaAreas t).sum

/-- The offset of an area. -/
def tsaOff (t : Team) (k : Nat) : Nat := ((tsaAreas t).take k).sum

/-- Bytes filled up with zeros. -/
def padTo (n : Nat) (b : List Byte) : List Byte := b.take n ++ List.replicate (n - b.length) 0

/-- A mask's w words as bytes. -/
def maskBytes (w : Nat) (m : Mask) : List Byte := leBytes (4 * w) m.toNat

/-- The code of a split entry's state as it is saved: RUN as READY (R79, R80). -/
def FragState.code : FragState → Nat
  | .ready | .run => 0
  | .parked => 2
  | .arrived => 3
  | .hold => 4

/-- A split entry's bytes (R77). -/
def fragBytes (w : Nat) (f : Frag) : List Byte :=
  let mark : Nat := match f.mark with
    | some m => 2 ^ 31 + m.addr.toNat / 8 * 8
    | none => 0
  leBytes 8 f.pc.toNat ++ leBytes 8 f.joinPc.toNat ++ leBytes 2 f.fmt.toNat ++ leBytes 2 ((f.mark.map (·.gen.toNat)).getD 0) ++
    leBytes 1 f.depth ++ leBytes 1 f.shelf ++ leBytes 1 f.st.code ++
    leBytes 1 (f.trapMarker.toNat + 2 * f.spilled.toNat + 4 * f.handler.toNat) ++ leBytes 1 (f.parent.getD 0xFF) ++ leBytes 1 f.live ++
    leBytes 2 f.seq ++ leBytes 4 mark ++ maskBytes w f.member ++ maskBytes w f.active ++ maskBytes w f.m0 ++ maskBytes w f.m1 ++
    maskBytes w f.m2 ++ maskBytes w f.m3

/-- The 64 split entries in order of their numbers, free ones zero (R356). -/
def fragArea (t : Team) : List Byte :=
  let w := t.words
  (List.range 64).flatMap fun n => match fragOf t n with
    | some f => fragBytes w f
    | none => List.replicate (32 + 24 * w) 0

/-- A loop stack as four entries of 20 bytes, outermost first (R357). -/
def loopBytes (l : List LoopEntry) : List Byte :=
  padTo 80 (l.reverse.flatMap fun e => leBytes 8 e.start.toNat ++ leBytes 8 e.last.toNat ++ leBytes 4 e.count.toNat)

/-- The call stack as 16 entries, oldest first (R356). -/
def callBytes (l : List CallEntry) : List Byte :=
  padTo 256 (l.reverse.flatMap fun c => leBytes 8 c.ret.toNat ++ leBytes 8 c.owner)

/-- The barrier mark that the header gives (R357). -/
def headMark (t : Team) : Option Mark :=
  match (runFrag t).bind (·.mark) with
  | some m => some m
  | none => (List.range 64).findSome? fun n => (fragOf t n).bind (·.mark)

/-- The header of a team's save area (R357). -/
def tsaHeader (t : Team) : List Byte :=
  let m := headMark t
  let flags := t.timerV.armed.toNat + 2 * t.timerG.armed.toNat + 4 * t.trapLoops.length + 16 * t.pwrprio.toNat + 64 * m.isSome.toNat +
    128 * t.isProtected.toNat
  leBytes 4 0x53415354 ++ leBytes 2 0x0300 ++ leBytes 2 t.words ++ leBytes 4 t.nlane ++ leBytes 4 t.number ++
    (t.scalars.take 32).flatMap (fun v => leBytes 8 v.toNat) ++ leBytes 4 t.cc.toNat ++ leBytes 4 t.fpsf.toNat ++
    leBytes 8 t.uhvec.toNat ++ leBytes 8 t.tcyc.toNat ++ leBytes 8 t.timerV.deadline.toNat ++ leBytes 8 t.timerG.deadline.toNat ++
    leBytes 4 flags ++ leBytes 4 t.rprog.toNat ++ loopBytes t.loops ++ leBytes 8 ((m.map (·.addr.toNat)).getD 0) ++
    leBytes 2 ((m.map (·.gen.toNat)).getD 0) ++ leBytes 1 (((runFrag t).map (·.num)).getD 0xFF) ++ leBytes 1 (min 64 t.replay.length) ++
    leBytes 4 t.group ++ leBytes 8 t.age ++ leBytes 4 t.trapcode.toNat ++ leBytes 4 t.emuop.toNat ++ leBytes 4 t.emuf16.toNat ++
    leBytes 4 t.emui32.toNat ++ leBytes 8 t.emupc.toNat ++ List.replicate 64 0

/-- The stacks area (R356): positions 1 to D of each lane, zero above. -/
def stackArea (t : Team) : List Byte :=
  t.lanes.flatMap fun l => padTo (4 * t.stackDecl) (l.stack.reverse.flatMap fun e => leBytes 4 e.bits.toNat)

/-- The locals area. -/
def localArea (t : Team) : List Byte :=
  t.lanes.flatMap fun l => padTo (4 * t.localsDecl) (l.locals.flatMap fun e => leBytes 4 e.bits.toNat)

/-- A team's save area (R356). What the replay records and the engine state hold is the device's own: zeros stand for it. -/
def tsaImage (t : Team) : List Byte :=
  let snaps := loopBytes (t.trapLoops.reverse.headD []) ++ loopBytes ((t.trapLoops.reverse.drop 1).headD [])
  padTo 512 (tsaHeader t) ++ padTo (up64 (64 * (32 + 24 * t.words))) (fragArea t) ++ padTo (up64 (4 * t.words)) (maskBytes t.words t.helpers) ++
    callBytes t.calls ++ padTo (up64 160) snaps ++ padTo (up64 (4 * t.stackDecl * t.width)) (stackArea t) ++
    padTo (up64 (4 * t.localsDecl * t.width)) (localArea t) ++ List.replicate 4352 0

/-- n bytes of an image at an offset, as a number. -/
def imgNat (img : List Byte) (o n : Nat) : Nat := leNat ((img.drop o).take n)

/-- A code address read back, as a PC holds it (R42, R68). -/
def imgPc (img : List Byte) (o : Nat) : DWord := pcOf (BitVec.ofNat 64 (imgNat img o 8))

/-- A loop stack read back: entries whose count is 0 are free. -/
def loopsOf (b : List Byte) : List LoopEntry :=
  ((List.range 4).filterMap fun i =>
    let e : LoopEntry :=
      { start := imgPc b (20 * i), last := imgPc b (20 * i + 8), count := BitVec.ofNat 32 (imgNat b (20 * i + 16) 4) }
    if e.count = 0 then none else some e).reverse

/-- A call stack read back: entries of zeros are free. -/
def callsOf (b : List Byte) : List CallEntry :=
  ((List.range 16).filterMap fun i =>
    let ret := imgPc b (16 * i)
    let owner := imgNat b (16 * i + 8) 8 % 64
    if ret = 0 ∧ owner = 0 then none else some { ret, owner }).reverse

/-- A split entry read back; one without members is free, and a reserved FMT, which FMT never holds (R73), is not taken. What it waits for
is the device's own. Of a frozen team (live) the running entry
goes on running and the shelf holds what SHELF says; a resumed one has min(D, 8) entries on it (R94, R413). -/
def fragFrom (t : Team) (live : Bool) (w n : Nat) (b : List Byte) : Option Frag :=
  let g := fun (o k : Nat) => imgNat b o k
  let mask := fun (o : Nat) => (BitVec.ofNat 1024 (g (0x20 + o * w) (4 * w)) : Mask)
  let member := mask 0
  if member = 0 then none
  else
    let old := fragOf t n
    let code := g 0x16 1
    let runs := live && (old.map fun f => f.st == .run).getD false
    let st : FragState :=
      if code = 2 then .parked else if code = 3 then .arrived else if code = 4 then .hold else if runs then .run else .ready
    let held := min (g 0x14 1) 8
    some
      { num := n, pc := imgPc b 0, joinPc := imgPc b 8, fmt := if fmtLegal (BitVec.ofNat 32 (g 0x10 2)) then BitVec.ofNat 32 (g 0x10 2) else (old.map (·.fmt)).getD 0,
        mark := if g 0x1C 4 / 2 ^ 31 = 1 then some { addr := BitVec.ofNat 25 (g 0x1C 4), gen := BitVec.ofNat 16 (g 0x12 2) } else none,
        depth := g 0x14 1, shelf := if live then min (g 0x15 1) held else held, st,
        trapMarker := g 0x17 1 % 2 == 1, spilled := g 0x17 1 / 2 % 2 == 1,
        handler := g 0x17 1 / 4 % 2 == 1, parent := if g 0x18 1 = 0xFF then none else some (g 0x18 1), live := g 0x19 1,
        seq := g 0x1A 2, member, active := mask 4, m0 := mask 8, m1 := mask 12, m2 := mask 16, m3 := mask 20,
        wait := if st = .parked then old.bind (·.wait) else none, paused := if live then (old.map (·.paused)).getD 0 else 0, low := (old.map (·.low)).getD 0 }

/-- An entry read back: its bits, and its poison as it was. -/
def entryFrom (old : Option Entry) (bits : Nat) : Entry := { bits := BitVec.ofNat 32 bits, poison := old.bind (·.poison) }

/-- The depth at which a lane's stack stands: that of the fragment that owns it. -/
def laneDepth (frags : List Frag) (l : Lane) (i : Nat) : Nat :=
  match frags.find? fun f => f.member.getLsbD i && f.st != .hold with
  | some f => f.depth
  | none => l.stack.length

/-- A team as its image says, the device's own state as it was (R356, R358, R413). -/
def tsaLoad (t : Team) (live : Bool) (img : List Byte) : Team :=
  let w := t.words
  let g := fun (o k : Nat) => imgNat img o k
  let area := fun (k : Nat) => (img.drop (tsaOff t k)).take ((tsaAreas t)[k]?.getD 0)
  let fb := area 1
  let frags := (List.range 64).filterMap fun n => fragFrom t live w n ((fb.drop (n * (32 + 24 * w))).take (32 + 24 * w))
  let flags := g 0x138 4
  let stackB := area 5
  let locals := area 6
  let lane := fun (i : Nat) (l : Lane) =>
    if t.exited.getLsbD i then l
    else
      let d := laneDepth frags l i
      { stack := ((List.range d).map fun p => entryFrom ((l.stack.reverse)[p]?) (imgNat stackB (4 * (t.stackDecl * i + p)) 4)).reverse
        locals := (List.range t.localsDecl).map fun k => entryFrom (l.locals[k]?) (imgNat locals (4 * (t.localsDecl * i + k)) 4) }
  let snaps := area 4
  let copies := [loopsOf ((snaps.drop 80).take 80), loopsOf (snaps.take 80)]
  { t with
    scalars := (List.range 32).map fun i => BitVec.ofNat 64 (g (0x10 + 8 * i) 8)
    cc := BitVec.ofNat 32 (g 0x110 4) &&& 0x3F, fpsf := BitVec.ofNat 5 (g 0x114 4), uhvec := BitVec.ofNat 64 (g 0x118 8) &&& 0xFFFFFFFFFFFFFFFE
    tcyc := BitVec.ofNat 64 (g 0x120 8)
    timerV := { deadline := BitVec.ofNat 64 (g 0x128 8), armed := flags % 2 == 1 }
    timerG := { deadline := BitVec.ofNat 64 (g 0x130 8), armed := flags / 2 % 2 == 1 }
    pwrprio := BitVec.ofNat 2 (flags / 16), rprog := BitVec.ofNat 32 (g 0x13C 4), loops := loopsOf ((img.drop 0x140).take 80)
    age := g 0x1A0 8, trapcode := BitVec.ofNat 32 (g 0x1A8 4), emuop := BitVec.ofNat 32 (g 0x1AC 4) &&& 0xC00FFFFF, emuf16 := BitVec.ofNat 32 (g 0x1B0 4)
    emui32 := BitVec.ofNat 32 (g 0x1B4 4), emupc := BitVec.ofNat 64 (g 0x1B8 8), helpers := BitVec.ofNat 1024 (leNat ((area 2).take (4 * w)))
    calls := callsOf (area 3), trapLoops := copies.drop (2 - min 2 (flags / 4 % 4)), lanes := mapIdxFrom lane 0 t.lanes, frags }

/-- CSASIZE for a partition word (R358). -/
def csaSize (w : Word) : Nat := 64 + partScr w * 65536 + partScr w * 512 + partAcc w * 65536 + 16 * partAcc w

/-- The full/empty bitmap from a granule on: bit g for granule g, n bytes. -/
def bitmapBytes (full : List Nat) (n : Nat) : List Byte :=
  (List.range n).map fun i => BitVec.ofNat 8 ((full.filter fun g => g / 8 == i).foldl (fun a g => a + 2 ^ (g % 8)) 0)

/-- A core's save area (R358): partition word and tag, scratchpad, bitmap, tiles, tile status words. -/
def csaImage (c : Core) : List Byte :=
  let scr := partScr c.cpart
  let acc := partAcc c.cpart
  padTo 64 (leBytes 4 c.cpart.toNat ++ leBytes 4 (fld c.cowner 0 12)) ++ Memory.slice c.pool (spPool c 0) (scr * 65536) ++
    bitmapBytes c.full (scr * 512) ++ Memory.slice c.pool (tilePool c 0) (acc * 65536) ++
    (List.range (4 * acc)).flatMap fun n => leBytes 4 (tabGet 0 c.tileStatus n : Word).toNat

/-- A core's pool, bitmap and tile status as a save area says (R358). -/
def csaLoad (c : Core) (img : List Byte) : Core :=
  let scr := partScr c.cpart
  let acc := partAcc c.cpart
  let sp := img.drop 64
  let bm := sp.drop (scr * 65536)
  let tiles := bm.drop (scr * 512)
  let st := tiles.drop (acc * 65536)
  let full := ((bm.take (scr * 512)).zip (List.range (scr * 512))).flatMap fun x =>
    ((List.range 8).filter fun i => x.1.getLsbD i).map fun i => 8 * x.2 + i
  { c with
    pool := Memory.splice (Memory.splice [] (spPool c 0) (sp.take (scr * 65536))) (tilePool c 0) (tiles.take (acc * 65536))
    full
    tileStatus := ((List.range (4 * acc)).map fun n => (n, BitVec.ofNat 32 (imgNat st (4 * n) 4))).filter fun x => x.2 != 0 }

end Sys2Proof.Machine
end

