-- ==== Sys2Proof/Machine/Context.lean ====
section
/-! DEFINITION. Contexts: the slot's commands, pre-emption and resume, VF reset, warm and cold reset, boot
(R253, R277, R333, R349 to R360). -/

namespace Sys2Proof.Machine

/-- The cores of a context. -/
def coresOf (s : State) (tag : Tag) : List Nat :=
  (s.cores.filter fun p => p.2.cowner.getLsbD 31 && p.2.cowner.setWidth 12 == tag).map (·.1)

/-- A core's units go on with the commands they have accepted; fuel counts turns (R253). -/
def drainUnits : Nat → State → Nat → State
  | 0, s, _ => s
  | fuel + 1, s, c =>
    let k := getCore s c
    if k.matq.isEmpty && k.ixq.isEmpty then s else drainUnits fuel (ixuExecute (matrixExecute s c) c) c

/-- Whether a context has commands that have not completed (R253). -/
def unitsBusy (s : State) (tag : Tag) : Bool :=
  (coresOf s tag).any fun c => !(getCore s c).matq.isEmpty || !(getCore s c).ixq.isEmpty

/-- Whether a context's teams have requests to other packages that have not been answered (R437). -/
def awaitsPods (s : State) (tag : Tag) : Bool := (teamsOfTag s tag).any fun t => s.fabric.msgs.any fun m => m.isOf t.uid

/-- The core groups of a context, in order of first placement (R358). -/
def coreGroups (s : State) (tag : Tag) : List Nat :=
  (teamsOfTag s tag).foldl (fun l t => if l.contains t.core then l else l ++ [t.core]) []

/-- The place of a number in a list. -/
def placeOf (l : List Nat) (n : Nat) : Nat := (l.findIdx? (· == n)).getD 0

/-- The walks of a context that is saved pause: what waits for the image of a compensation is withdrawn (R385). -/
def pauseWalks (s : State) (tag : Tag) : State :=
  let gone := fun (w : Waiter) => match w.kind with
    | .walk g _ => g == tag
    | _ => false
  { s with dies := s.dies.map fun (d : Nat × Die) => (d.1, { d.2 with
      fb := d.2.fb.map fun e => { e with waiters := e.waiters.filter fun w => !gone w } }) }

/-- The walks of a context that is no longer saved go on: each that stands at its entry, without a key to wait for, wants the
compensation again (R385). -/
def resumeWalks (s : State) (tag : Tag) : State :=
  (s.hub.acts.filter fun a => a.tag == tag && a.st == .walking && a.keyWait.isNone && !a.running).foldl walkOn s

/-- A context's copy contexts quiesced with their progress, or released (R238, R356); bytes that another package has been asked for are
still awaited. -/
def quiesceCopies (s : State) (tag : Tag) (q : Bool) : State :=
  let mine := fun (d n : Nat) => ctxOf s d n tag
  let asked := fun (d n : Nat) => s.fabric.msgs.any fun m => match m.req with
    | .copyRead c _ => c == 768 * d + n
    | _ => false
  let drop := fun (w : Waiter) => match w.kind with
    | .copy n => mine (n / 768) (n % 768)
    | _ => false
  { s with dies := s.dies.map fun (d : Nat × Die) => (d.1, { d.2 with
      ctxs := d.2.ctxs.map fun (c : Nat × CopyCtx) => if mine d.1 c.1 then (c.1, { c.2 with quiesced := q, stalled := c.2.stalled && asked d.1 c.1 }) else c
      fb := d.2.fb.map fun e => { e with waiters := e.waiters.filter fun w => !drop w } }) }

/-- The barrier channels of a context's launches, with level and unit (R277). -/
def channelsOf (s : State) (ids : List Nat) : List (Nat × Nat × Chan) :=
  let pick := fun (level unit : Nat) => ((chansOf s level unit).filter fun c => ids.contains c.launch).map fun c => (level, unit, c)
  ((List.range 56).flatMap (pick 0)) ++ ((List.range 4).flatMap (pick 1)) ++ pick 2 0

/-- The barrier channels of launches freed at every unit. -/
def dropChannels (s : State) (l : List (Nat × Nat × Chan)) : State :=
  l.foldl (fun s x => setChans s x.1 x.2.1 ((chansOf s x.1 x.2.1).filter fun c => !(c.launch == x.2.2.launch && c.id == x.2.2.id))) s

/-- A save area written at the home slices, from a 4 KiB boundary or wherever the area before it ends. -/
def saveArea (s : State) (pa : Nat) (img : List Byte) : State :=
  if pa % 512 ≠ 0 then homeWrite s pa img 0 0 none [] (img.length / 64 + 2)
  else
    let n := img.length / 512 * 512
    homeWrite (homeBulk s pa (img.take n)) (pa + n) (img.drop n) 0 0 none [] 10

/-- Where a team's save area lies: CXSAVE + t × TSASIZE (R356). -/
def tsaAddr (s : State) (slot : Nat) (t : Team) : Nat := fld (getSlot s slot).save 12 32 * 4096 + t.number * tsaSize t

/-- Where core group k's save area lies: CXCSA + k × CSASIZE (R358). -/
def csaAddr (s : State) (slot k : Nat) (x : Core) : Nat := fld (getSlot s slot).csa 12 32 * 4096 + k * csaSize x.cpart

/-- A team's save area written (R356). -/
def saveTeam (s : State) (slot : Nat) (t : Team) : State := saveArea s (tsaAddr s slot t) (tsaImage t)

/-- A core's save area written (R358). -/
def saveCore (s : State) (slot k c : Nat) : State :=
  let x := getCore s c
  saveArea s (csaAddr s slot k x) (csaImage x)

/-- The save areas of a saved context in the order in which they were written: address and size. -/
def savedAreas (s : State) (slot : Nat) (v : SavedCtx) : List (Nat × Nat) :=
  v.teams.map (fun t => (tsaAddr s slot t, tsaSize t)) ++ mapIdxFrom (fun k g => (csaAddr s slot k g.2, csaSize g.2.cpart)) 0 v.groups

/-- What the save area at a place in that list holds, or the image saved where an area written after it lies over it: teams of one number
in two launches, groups of unequal partitions (R358; log entry 32). -/
def savedImage (s : State) (areas : List (Nat × Nat)) (i : Nat) (saved : List Byte) : List Byte :=
  match areas.drop i with
  | a :: later =>
    if later.any fun b => decide (a.1 < b.1 + b.2) && decide (b.1 < a.1 + a.2) then saved else Memory.slice s.mem a.1 a.2
  | [] => saved

/-- Pre-emption of a context (R356): while accepted commands have not completed (R253), or another package has not answered, it waits, and
its teams issue nothing; a fault found when a region closes that is fatal leaves the context STOPPED (R350). -/
def preempt (s : State) (slot : Nat) : State :=
  let x := getSlot s slot
  let tag : Tag := x.cxctl.setWidth 12
  if !(x.st = 2 || (x.st = 3 && !x.fatal)) then s
  else
    let s := (coresOf s tag).foldl (drainUnits 64) s
    let s := (teamsOfTag s tag).foldl (fun s t =>
      let (s, l) := drainTeam s t.uid
      l.foldl (fun s f => match teamOf s t.uid with
        | some u => postFault s u f.1 0 f.2.1 (((runFrag u).map (·.pc)).getD 0) 0 (some f.2.2)
        | none => s) s) s
    let x := getSlot s slot
    if x.st = 3 && x.fatal then setSlot s slot { x with leaving := false }
    else if unitsBusy s tag || awaitsPods s tag then setSlot s slot { x with leaving := true }
    else
      let groups := coreGroups s tag
      let s := (coresOf s tag).foldl writeBackAll s
      let s := (teamsOfTag s tag).foldl (fun s t => modTeam s t.uid fun u => { u with group := placeOf groups u.core }) s
      let teams := teamsOfTag s tag
      let s := teams.foldl (fun s t => saveTeam s slot t) s
      let s := groups.foldl (fun s c => saveCore s slot (placeOf groups c) c) s
      let s := pauseWalks (quiesceCopies s tag true) tag
      let chans := channelsOf s ((s.hub.launches.filter fun l => l.tag == tag).map (·.id))
      let s := dropChannels s chans
      let s := thawContext s tag
      let cores := groups.map fun c => (c, getCore s c)
      let free := coresOf s tag
      let s := teams.foldl (fun s t => dropFe s t.uid) s
      let s := { s with teams := s.teams.filter fun t => t.tag != tag, cur := none }
      let s := free.foldl (fun s c => coreEmptied (setCore s c { getCore s c with tenancy := none, cowner := 0, cache := [], utlb := [] }) c) s
      let x := getSlot s slot
      let s := setSlot s slot { x with st := 4, leaving := false }
      { s with hub := { s.hub with saved := s.hub.saved ++ [{ slot, tag, teams, groups := cores, channels := chans }] } }

/-- The empty enabled cores of a physical quad (R348, R358). -/
def emptyCores (s : State) (q : Nat) : List Nat :=
  ((List.range 4).map fun i => q / 14 * 56 + q % 14 * 4 + i).filter fun c =>
    coreEmpty s c && decide (fld (getCore s c).cstate 0 2 = 0) && (List.range 52).any fun n => physCore s (q / 14) n == some c

/-- Cores of a quad for those of an old quad: the same places where they are empty, else any. -/
def fitQuad (s : State) (old : List Nat) (q : Nat) : Option (List (Nat × Nat)) :=
  let e := emptyCores s q
  let same := old.map fun c => q / 14 * 56 + q % 14 * 4 + c % 4
  if same.all e.contains then some (old.zip same)
  else if old.length ≤ e.length then some (old.zip e)
  else none

/-- Quads of die n for the quads of old cores, each to one of its own, the fullest first. -/
def fitDie (s : State) (n : Nat) (olds : List (List Nat)) : Option (List (Nat × Nat)) :=
  if (getDie s n).therm = .tripped then none
  else
    let order := [4, 3, 2, 1].flatMap fun k => olds.filter fun o => o.length == k
    (order.foldl (fun (a : Option (List Nat × List (Nat × Nat))) o => match a with
      | none => none
      | some (used, m) =>
        let home := n * 14 + o.headD 0 % 56 / 4
        let cand := (home :: (List.range 14).map fun p => n * 14 + p).filter fun q => !used.contains q
        (cand.findSome? fun q => (fitQuad s o q).map fun x => (q, x)).map fun y => (y.1 :: used, m ++ y.2)) (some ([], []))).map (·.2)

/-- Dies for the old dies, each to one of its own, its own first; the cores that the groups of each move to. -/
def mapDies (s : State) (cores : List Nat) : List Nat → List Nat → Option (List (Nat × Nat))
  | [], _ => some []
  | d :: r, used =>
    let here := cores.filter fun c => dieOf c == d
    let quads := here.foldl (fun (l : List Nat) c => if l.contains (quadOf c) then l else l ++ [quadOf c]) []
    let olds := quads.map fun q => here.filter fun c => quadOf c == q
    ((d :: List.range 4).filter fun n => !used.contains n).findSome? fun n =>
      (fitDie s n olds).bind fun m => (mapDies s cores r (n :: used)).map fun l => m ++ l

/-- Where a context's core groups resume (R358): cores of one quad or die stay together, and apart from those of others. -/
def resumePlaces (s : State) (cores : List Nat) : Option (List (Nat × Nat)) :=
  mapDies s cores (cores.foldl (fun (l : List Nat) c => if l.contains (dieOf c) then l else l ++ [dieOf c]) []) []

/-- A core's number after a resume. -/
def moveCore (m : List (Nat × Nat)) (c : Nat) : Nat := ((m.find? fun x => x.1 == c).map (·.2)).getD c

/-- A barrier unit's number after a resume. -/
def moveUnit (m : List (Nat × Nat)) (level unit : Nat) : Nat :=
  let of := fun (c : Nat) => if level = 0 then quadOf c else dieOf c
  if level = 2 then unit else ((m.find? fun x => of x.1 == unit).map fun x => of x.2).getD unit

/-- The generation counts of a context's launches, keyed by the units as they are after a resume; those of a unit at which none of its
teams is left are dropped (R234, R277). -/
def moveGens (m : List (Nat × Nat)) (ids : List Nat) (l : List (Nat × Nat × Nat × Nat × Nat)) : List (Nat × Nat × Nat × Nat × Nat) :=
  l.filterMap fun g =>
    let of := fun (c : Nat) => if g.1 = 0 then quadOf c else dieOf c
    if !ids.contains g.2.2.1 || g.1 == 2 then some g
    else if m.any fun x => of x.1 == g.2.1 then some (g.1, moveUnit m g.1 g.2.1, g.2.2)
    else none

/-- What a fragment waits for, with the cores and units as they are after a resume. -/
def moveWait (m : List (Nat × Nat)) : Wait → Wait
  | .fullEmpty fec la pc passes since retry =>
    .fullEmpty fec la pc (passes.map fun l => l.map fun r => { r with core := moveCore m r.core }) since retry
  | .barrier c off gen quad => .barrier (moveCore m c) off gen quad
  | .nbar level unit id gen => .nbar level (moveUnit m level unit) id gen
  | .channel level unit id => .channel level (moveUnit m level unit) id
  | w => w

/-- A saved team back on its core, as its save area says (R356, R358). -/
def resumeTeam (m : List (Nat × Nat)) (t : Team) (img : List Byte) : Team :=
  let u := tsaLoad t false img
  { u with
    core := moveCore m t.core
    frags := u.frags.map fun f => { f with wait := f.wait.map (moveWait m) } }

/-- A core group back on a core (R358): the partition and what its save area holds. What another launch has left in the core's cache is
written back first (R196). -/
def resumeCore (s : State) (old : Core) (c : Nat) (img : List Byte) : State :=
  let s := writeBackAll s c
  let here := getCore s c
  setCore s c { csaLoad old img with
    cstate := here.cstate, cecnt := here.cecnt, celog := here.celog, ixCounter := here.ixCounter, benches := here.benches,
    cache := [], utlb := [], feWaiters := [], matq := [], ixq := [] }

/-- A context goes on by CXCMD 2 (R359, R418): its records await the Bureau no longer, and the period of a launch whose watchdog has fired
restarts, once. -/
def noteResume (s : State) (tag : Tag) : State :=
  { s with hub := { s.hub with launches := s.hub.launches.map fun l =>
    if l.tag = tag then { l with awaits := false, elapsed := if l.fired && !l.again then 0 else l.elapsed, again := l.again || l.fired } else l } }

/-- A saved context placed again (R350, R358); no effect where no cores fit. Its teams' entries beyond the reserves spill where the core's
split table has no room for them (R84). Its barrier channels take their places beside those that the units hold, beyond 16 where they are
full (R277; log entry 32). -/
def resumeSaved (s : State) (slot : Nat) (v : SavedCtx) : State :=
  match resumePlaces s (v.groups.map (·.1)) with
  | none => s
  | some m =>
    let ids := (s.hub.launches.filter fun l => l.tag == v.tag).map (·.id)
    let areas := savedAreas s slot v
    let teams := mapIdxFrom (fun i t => resumeTeam m t (savedImage s areas i (tsaImage t))) 0 v.teams
    let s := (v.groups.zip (List.range v.groups.length)).foldl (fun s g =>
      resumeCore s g.1.2 (moveCore m g.1.1) (savedImage s areas (v.teams.length + g.2) (csaImage g.1.2))) s
    let s := { s with
      teams := s.teams ++ teams
      dies := s.dies.map fun d => (d.1, { d.2 with ctxs := d.2.ctxs.map fun c => (c.1, { c.2 with
        queue := c.2.queue.map fun k => if k.tag = v.tag then { k with core := moveCore m k.core } else k }) })
      hub := { s.hub with
        saved := s.hub.saved.filter fun x => x.slot != slot
        gens := moveGens m ids s.hub.gens } }
    let s := teams.foldl (fun s t => spillTeam s t.uid) s
    let s := v.channels.foldl (fun s x => setChans s x.1 (moveUnit m x.1 x.2.1) (chansOf s x.1 (moveUnit m x.1 x.2.1) ++ [x.2.2])) s
    let s := quiesceCopies s v.tag false
    let s := noteResume (setSlot s slot { getSlot s slot with st := 2 }) v.tag
    let s := teams.foldl (fun s t => (t.frags.filter fun f => match f.wait with
      | some (.fullEmpty ..) => true
      | _ => false).foldl (fun s f => feAdvance s t.uid f.num) s) s
    resumeWalks s v.tag

/-- CXCMD 2 (R350, R359, R408, R418): a stopped context goes on, a saved one is placed again. -/
def resume (s : State) (slot : Nat) : State :=
  let x := getSlot s slot
  let tag : Tag := x.cxctl.setWidth 12
  if x.st = 3 ∧ !x.fatal then
    let s := noteResume (thawContext s tag) tag
    setSlot s slot { x with st := if (teamsOfTag s tag).isEmpty then 1 else 2, leaving := false }
  else if x.st = 4 then
    match s.hub.saved.find? fun v => v.slot == slot with
    | some v => resumeSaved s slot v
    | none => s
  else s

/-- CXCMD written (R349, R350): no effect in TERMINATING, nor 0. -/
def writeCxcmd (s : State) (slot cmd : Nat) : State :=
  if cmd = 1 then preempt s slot
  else if cmd = 2 then resume s slot
  else if cmd = 3 then
    terminate s slot
      { cause := 0, info := 0, source := 4, log := 0, pc := 0, team := 0xFFFFFFFF, whereWord := 0, launchImage := 0 }
  else s

/-- CXCTL written (R349, R350). -/
def writeCxctl (s : State) (slot : Nat) (v : Word) : State :=
  let x := getSlot s slot
  let v := v &&& 0xBF000FFF
  let taken := s.hub.slots.any fun p => p.1 != slot && p.2.cxctl.getLsbD 31 && (p.2.cxctl.setWidth 12 : Tag) == v.setWidth 12
  if 2 ≤ x.st ∨ (v.getLsbD 31 = true ∧ taken = true) then s
  else setSlot s slot { x with cxctl := v, st := if v.getLsbD 31 then 1 else 0 }

/-- CXCTL_WRITE. -/
def execCxctlWrite (slot : Nat) (value : BitVec 32) (s : State) : Out := .next (if slot < 256 then writeCxctl s slot value else s)
/-- CXCMD_PREEMPT. -/
def execCxcmdPreempt (slot : Nat) (s : State) : Out := .next (writeCxcmd s slot 1)
/-- CXCMD_RESUME. -/
def execCxcmdResume (slot : Nat) (s : State) : Out := .next (writeCxcmd s slot 2)
/-- CXCMD_TERMINATE. -/
def execCxcmdTerminate (slot : Nat) (s : State) : Out := .next (writeCxcmd s slot 3)

/-- VF_RESET (R354, R355): the contexts of the VF terminated, their queues disabled, their frames without an owner and in no TLB, so
that each is zeroed before any reuse. -/
def execVfReset (vf : Nat) (s : State) : Out :=
  let mine := (s.hub.slots.filter fun p => p.2.cxctl.getLsbD 31 && fld p.2.cxctl 24 6 == vf).map fun p => (p.1, (p.2.cxctl.setWidth 12 : Tag))
  .next (mine.foldl (fun s x =>
    let s := terminate s x.1
      { cause := 0, info := 0, source := 5, log := 0, pc := 0, team := 0xFFFFFFFF, whereWord := 0, launchImage := 0 }
    let s := emptyQueues s x.2 true
    let s : State := { s with dies := s.dies.map fun d => (d.1, { d.2 with owners := d.2.owners.filter fun o => o.2 != x.2 }) }
    dropTlb s fun e => (leafNeeds s e).isSome) s)

/-- The home slices at a warm reset (R353): dirty lines of implicated tags are discarded, the bytes that HBM holds stand. -/
def discardSlices (s : State) (tags : List Tag) : State :=
  s.dies.foldl (fun (s : State) (d : Nat × Die) =>
    d.2.slice.foldl (fun (s : State) (x : SLine) =>
      if tags.contains x.tag && x.dirty then
        let d' := getDie s d.1
        { setDie s d.1 { d' with slice := d'.slice.filter fun y => y.line != x.line } with mem := Memory.splice s.mem (x.line * 64) x.stale }
      else sliceEvict s x.line) s) s

/-- A die through a warm reset: what the reset of the dies leaves of it, with what HBM holds (R353, R354). -/
def Die.warm (d : Die) : Die :=
  { Die.reset with
    cctx := d.cctx, ctxs := d.ctxs.map fun c => (c.1, { c.2 with stalled := false }), owners := d.owners, hbmPoison := d.hbmPoison,
    crc := d.crc }

/-- Steps 2 to 5 of a warm reset (R353): the dies and the hub's logic are reset, the contexts implicated are terminated and those that were
pre-empted resumed. -/
def finishReset (s : State) (j : ResetJob) : State :=
  let s := discardSlices s j.tags
  let walks := s.dies.flatMap fun (d : Nat × Die) => d.2.fb.flatMap fun e => e.waiters.filterMap fun w => match w.kind with
    | .walk tag slot => some (tag, slot)
    | _ => none
  let s : State := { s with
    cores := [], quads := [], dies := s.dies.map fun d => (d.1, d.2.warm), regq := [], cur := none
    fabric := { s.fabric with msgs := [], peers := [] }
    hub := { s.hub with
      channels := [], startQuad := 0, job := none, queues := s.hub.queues.map fun (q : Nat × Queue) => (q.1, { q.2 with parked := none }) } }
  let s := walks.foldl (fun (s : State) (w : Tag × Nat) => match actAt s w.1 w.2 with
    | some a => walkOn s a
    | none => s) s
  let s := (s.hub.slots.filter fun (p : Nat × Slot) => p.2.cxctl.getLsbD 31 && j.tags.contains (p.2.cxctl.setWidth 12)).foldl
    (fun (s : State) (p : Nat × Slot) =>
      terminate s p.1 { cause := 0, info := 0, source := j.source, log := j.log, pc := 0, team := 0xFFFFFFFF, whereWord := 0, launchImage := 0, time := some j.time }) s
  j.saved.foldl resume s

/-- Whether the save of a context still has time: 20 ms from the error (R353). -/
def saveWaits (s : State) (j : ResetJob) (n : Nat) : Bool := (getSlot s n).leaving && decide (s.gtime.toNat - j.time.toNat < 20000000)

/-- Whether a warm reset under way has a step to make. -/
def resetReady (s : State) : Bool := match s.hub.job with
  | some j => match j.todo with
    | n :: _ => !saveWaits s j n
    | [] => true
  | none => false

/-- One step of a warm reset (R353): the next context is pre-empted, and implicated where its save does not complete in time; when none
that runs is left, the reset is made. -/
def resetStep (s : State) : State :=
  match s.hub.job with
  | none => s
  | some j =>
    let put := fun (s : State) (j : ResetJob) => ({ s with hub := { s.hub with job := some j } } : State)
    match j.todo with
    | n :: r =>
      if saveWaits s j n then s
      else
        let late := (getSlot s n).leaving
        let s := if late then s else preempt s n
        let x := getSlot s n
        if x.st = 4 then put s { j with todo := r, saved := j.saved ++ [n] }
        else if !late && saveWaits s j n then s
        else if x.st = 2 ∨ x.st = 3 then put s { j with todo := r, tags := j.tags ++ [slotTag s n] }
        else put s { j with todo := r }
    | [] => match liveSlots s j.tags with
      | [] => finishReset s j
      | l => put s { j with todo := l }

/-- WARM_RESET (R353): the Bureau begins one, with the contexts that it reads from the log as implicated (log entry 57). -/
def execWarmReset (implicated : List (BitVec 12)) (s : State) : Out :=
  let s := startReset s 2 s.hub.hlog implicated
  .next (if resetReady s then resetStep s else s)

/-- COLD_RESET (R354, R360): the machine as after power-on, with the ROM at work on the firmware image. -/
def execColdReset (s : State) : Out :=
  .next { State.reset with agenda := s.agenda, free := s.free, hub := { Hub.reset with bootState := 1 } }

/-- The hub's boot state set. -/
def setBoot (s : State) (n : Nat) : State := { s with hub := { s.hub with bootState := n } }

/-- The ROM at work (R360): on the firmware image of IMAGE, unless three boots have failed (log entry 58). -/
def romStep (s : State) : State :=
  if s.hub.bootState = 0 then setBoot s (if 3 ≤ s.hub.bootFails then 5 else 1) else s

/-- BOOT_FIRMWARE_VERIFIED (R360). -/
def execBootFirmwareVerified (s : State) : Out := .next (if s.hub.bootState = 1 then setBoot s 2 else s)
/-- BOOT_STAGE2_FETCHED (R360). -/
def execBootStage2Fetched (s : State) : Out := .next (if s.hub.bootState = 2 then setBoot s 3 else s)
/-- BOOT_VERIFIED (R360). -/
def execBootVerified (s : State) : Out :=
  .next (if s.hub.bootState = 3 then { s with hub := { s.hub with bootState := 4, bootFails := 0 } } else s)

/-- A failed boot (R360): back to ROM with the other image. -/
def bootFailed (s : State) (reason : Nat) : State :=
  if 1 ≤ s.hub.bootState ∧ s.hub.bootState ≤ 3 then
    { s with hub := { s.hub with
      bootState := 0
      bootFails := s.hub.bootFails + 1, bootReason := reason % 256, bootImage := 1 - s.hub.bootImage } }
  else s

/-- BOOT_FAILURE. -/
def execBootFailure (reason : Nat) (s : State) : Out := .next (bootFailed s reason)
/-- BOOT_TIMEOUT: no RUN within 60 s, REASON 4. -/
def execBootTimeout (s : State) : Out := .next (bootFailed s 4)

end Sys2Proof.Machine
end

