-- ==== Sys2Proof/Machine/Fetch.lean ====
section
/-! DEFINITION. The text a team fetches: parcels and instruction lengths (R42, R60, R61). -/

namespace Sys2Proof.Machine

/-- Where a launch's text starts in its image (R63). -/
def textOff : Nat := 0x40

/-- A parcel of the team's launch: its text as it stood when the launch was dispatched (R60); beyond the text, and of a page that has not
been translated since, what memory holds through the team's translation; what has no translation reads as 0. -/
def parcelAt (s : State) (t : Team) (pc : DWord) : Parcel :=
  let text := ((launchOf s t.launch).map (·.text)).getD []
  let off := (pc - t.base).toNat
  match (if textOff ≤ off then (text[(off - textOff) / 2]?).bind id else none) with
  | some p => p
  | none =>
    match (locate s t pc .fetch).2 with
    | .at (.mem pa _) | .at (.home pa _) => BitVec.ofNat 16 (Memory.nat s.mem pa 2)
    | .at (.reg pa) => BitVec.ofNat 16 (leNat (regBytes s pa 2))
    | _ => 0

/-- The text of a page that had no translation when the launch was dispatched, as it stands at its first fetch (R60; log entry 36); pa is
where the address lies. -/
def captureText (s : State) (t : Team) (pc : DWord) (pa : Nat) : State :=
  match launchOf s t.launch with
  | none => s
  | some l =>
    let page := pc.toNat / 2 ^ 21
    let va := fun (i : Nat) => t.base.toNat + textOff + 2 * i
    if (List.range l.text.length).any fun i => l.text[i]? == some none && va i / 2 ^ 21 == page then
      setLaunch s { l with text := mapIdxFrom (fun i (p : Option Parcel) => match p with
        | some p => some p
        | none =>
          if va i / 2 ^ 21 = page then some (BitVec.ofNat 16 (Memory.nat s.mem (pa - pc.toNat % 2 ^ 21 + va i % 2 ^ 21) 2)) else none) 0 l.text }
    else s

/-- The parcels of an instruction, from its first (R42). -/
def parcelCount (p : Parcel) : Nat := if !p.getLsbD 15 then 1 else if p.getLsbD 14 then 4 else 2

/-- The length in bytes of the instruction at an address. -/
def lengthAt (s : State) (t : Team) (pc : DWord) : Nat := 2 * parcelCount (parcelAt s t pc)

/-- What stands at an address of a team's text: an instruction and its length, or why it is none (R42, R51). -/
def fetchAt (s : State) (t : Team) (pc : DWord) : Decoded :=
  decode [parcelAt s t pc, parcelAt s t (pc + 2), parcelAt s t (pc + 4), parcelAt s t (pc + 6)]

end Sys2Proof.Machine
end

