-- ==== Sys2Proof/Machine/Control.lean ====
section
/-! DEFINITION. Team control: branches, calls, masks, SPLIT and JOIN, loops, FMT, regions, traps, timers and the rest (R59, R158 to
R187). -/

namespace Sys2Proof.Machine

/-- A branch target (R47, R68). -/
def target (f : Frag) (off : Int) : DWord := pcOf (f.pc + dw (2 * off))

/-- Whether a loop body holds an address (R162). -/
def LoopEntry.holds (e : LoopEntry) (pc : DWord) : Bool := decide (e.start.toNat ≤ pc.toNat) && decide (pc.toNat ≤ e.last.toNat)

/-- The loop stack after a taken branch to an address: innermost first, entries whose body does not hold it are popped (R162). -/
def loopsAfter (pc : DWord) : List LoopEntry → List LoopEntry
  | [] => []
  | e :: r => if e.holds pc then e :: r else loopsAfter pc r

/-- A fragment goes on at an address, and its windows end (R163). -/
def goTo (t : Team) (n : Nat) (pc : DWord) : Team := modFrag (t.endWindows n) n fun x => { x with pc }

/-- A taken BR, BRC or JMPS. -/
def jumpTo (t : Team) (n : Nat) (pc : DWord) : Team := goTo { t with loops := loopsAfter pc t.loops } n pc

/-- An instruction that may take the fragment elsewhere: no loop step when it does. -/
def branchIns (i : Instr) (regs : List SReg) (taken : Team → Option (Frag → DWord)) (s : State) : Out :=
  issue i { scalars := regs, steps := false } noLimits
    (fun s t f => match taken t with
      | some pc => .ok (modTeam s t.uid fun u => jumpTo u f.num (pc f))
      | none => .ok (leave s t.uid f (2 * (encode i).length))) s

/-- BR, W form (R160). -/
def execBrW (off : BitVec 16) (s : State) : Out := branchIns (.brW off) [] (fun _ => some fun f => target f off.toInt) s
/-- BR, L form. -/
def execBrL (off : BitVec 32) (s : State) : Out := branchIns (.brL off) [] (fun _ => some fun f => target f off.toInt) s
/-- BRC, W form (R160). -/
def execBrcW (cond : BrCond) (off : BitVec 16) (s : State) : Out :=
  branchIns (.brcW cond off) [] (fun t => if brHolds cond t.cc then some fun f => target f off.toInt else none) s
/-- BRC, L form. -/
def execBrcL (cond : BrCond) (off : BitVec 32) (s : State) : Out :=
  branchIns (.brcL cond off) [] (fun t => if brHolds cond t.cc then some fun f => target f off.toInt else none) s
/-- JMPS (R161). -/
def execJmps (sa : SReg) (s : State) : Out :=
  branchIns (.jmps sa) [sa] (fun t => some fun _ => pcOf (getS t sa)) s

/-- CALL and CALLS (R161). -/
def callIns (i : Instr) (regs : List SReg) (dest : Team → Frag → DWord) (s : State) : Out :=
  issue i { scalars := regs, steps := false } noLimits
    (fun s t f => do
      need (decide (t.calls.length < 16)) (.s 0x0E 0)
      let e : CallEntry := { ret := f.pc + BitVec.ofNat 64 (2 * (encode i).length), owner := f.num }
      .ok (modTeam s t.uid fun u => goTo { u with calls := e :: u.calls } f.num (dest t f))) s

/-- CALL, W form. -/
def execCallW (off : BitVec 16) (s : State) : Out := callIns (.callW off) [] (fun _ f => target f off.toInt) s
/-- CALL, L form. -/
def execCallL (off : BitVec 32) (s : State) : Out := callIns (.callL off) [] (fun _ f => target f off.toInt) s
/-- CALLS. -/
def execCalls (sa : SReg) (s : State) : Out := callIns (.calls sa) [sa] (fun t _ => pcOf (getS t sa)) s

/-- The newest call entry of a fragment, and the stack without it. -/
def takeCall (n : Nat) : List CallEntry → Option (DWord × List CallEntry)
  | [] => none
  | c :: r => if c.owner = n then some (c.ret, r) else (takeCall n r).map fun x => (x.1, c :: x.2)

/-- RET (R161). -/
def execRet (s : State) : Out :=
  issue .ret { steps := false } noLimits
    (fun s t f => match takeCall f.num t.calls with
      | none => .error (.s 0x0E 1)
      | some (pc, calls) => .ok (modTeam s t.uid fun u => goTo { u with calls } f.num pc)) s

/-- Mask slot k of a fragment. -/
def Frag.slot (f : Frag) (k : Nat) : Mask := if k = 0 then f.m0 else if k = 1 then f.m1 else if k = 2 then f.m2 else f.m3

/-- Mask slot k replaced. -/
def Frag.setSlot (f : Frag) (k : Nat) (m : Mask) : Frag :=
  if k = 0 then { f with m0 := m } else if k = 1 then { f with m1 := m } else if k = 2 then { f with m2 := m } else { f with m3 := m }

/-- The active lanes whose popped flag is not zero. -/
def trueLanes (t : Team) (f : Frag) : Mask := maskOf ((t.activeLanes f).filter fun l => t.opd l 0 != 0)

/-- MAND (R164). -/
def execMand (k : BitVec 8) (s : State) : Out :=
  issue (.mand k) { pops := 1 } (fun _ => need (decide (k.toNat < 4)) (.illop 4))
    (fun s t f =>
      let a := trueLanes t f
      .ok (modTeam s t.uid fun u =>
        let u := u.stackOp f 1 0 fun _ _ => []
        { modFrag u f.num fun x => { x.setSlot k.toNat f.active with active := a } with cc := ccMZ u.cc (a == 0) })) s

/-- MREST (R164). -/
def execMrest (k : BitVec 8) (s : State) : Out :=
  issue (.mrest k) {} (fun _ => need (decide (k.toNat < 4)) (.illop 4))
    (fun s t f =>
      let a := f.slot k.toNat &&& f.member
      .ok (modTeam s t.uid fun u =>
        { modFrag u f.num fun x => { x with active := a } with cc := ccMZ u.cc (a == 0) })) s

/-- EXIT (R80, R165, R168). -/
def execExit (s : State) : Out :=
  issue .exit {} noLimits
    (fun s t f => do
      need (!f.handler) (.s 0x0F 0)
      if f.active = 0 then .ok s
      else
        let last := fullMask t.width &&& ~~~(t.exited ||| f.active) == 0
        let waiting := match t.region with
          | some r => r.pendingStores != 0
          | none => false
        need (!(last && waiting)) (.park .regionReplays id)
        let close := fun (s : State) =>
          let (s, found) := if last then closeRegion s t.uid f.pc else (s, [])
          foundFaults s t.uid f.pc f.active found
        let s := close s
        match (if last then retireWaits s t.uid else none : Option Wait) with
        | some w => .error (.park w close)
        | none =>
        match teamOf s t.uid with
        | none => .ok s
        | some u =>
          let u := exitLanes u f f.active
          if last then
            let s := setTeam s u
            .ok (retireTeam s u)
          else if f.member &&& ~~~f.active ≠ 0 then .ok (setTeam s { u with cc := ccMZ u.cc true })
          else
            let u := { (u.dropCalls f.num) with frags := u.frags.filter fun g => g.num != f.num }
            match f.parent with
            | none => .ok (setTeam s u)
            | some p =>
              let (u, ok) := liveFell u 64 p
              let s := setTeam s u
              .ok (if ok then s else classS s u.uid 0x0A 0 0 f.pc f.active none)) s

/-- DEMOTE (R166). -/
def execDemote (s : State) : Out :=
  issue .demote {} noLimits (onTeam fun u f => { u with helpers := u.helpers ||| f.active }) s

/-- A side of SPLIT. -/
def makeSide (t : Team) (g : Frag) (pc join : DWord) (member active : Mask) : Team × Nat :=
  let (t, seq) := t.newSeq
  let n := t.freeNum
  let c : Frag := { g with
    num := n, pc, joinPc := join, mark := none, st := .ready, trapMarker := false, spilled := false, parent := some g.num,
    live := 0, seq, member, active, wait := none, paused := 0, low := 0 }
  ({ t with frags := t.frags ++ [c] }, n)

/-- SPLIT (R85, R167). -/
def execSplit (els : BitVec 16) (join : BitVec 32) (s : State) : Out :=
  issue (.split els join) { pops := 1, steps := false, closes := true } noLimits
    (fun s t f => do
      let yes := trueLanes t f
      let no := f.active &&& ~~~yes
      let cont := yes ||| (f.member &&& ~~~f.active)
      let sides := (if no = 0 then 0 else 1) + (if cont = 0 then 0 else 1)
      need (decide (t.frags.length + sides ≤ 64)) (.s 0x0B 0)
      let (s, found) := closeRegion s t.uid f.pc
      let s := modTeam s t.uid fun u =>
        let u := (u.stackOp f 1 0 fun _ _ => []).endWindows f.num
        let jpc := target f join.toInt
        let g := (fragOf u f.num).getD f
        let (u, a) := if no = 0 then (u, g.num) else makeSide u g (target f els.toInt) jpc no no
        let (u, b) := if cont = 0 then (u, a) else makeSide u g (f.pc + 8) jpc cont yes
        let u := modFrag u f.num fun x => { x with pc := jpc, st := .hold, live := sides, paused := 0 }
        let u := modFrag u b fun x => { x with st := .run }
        { u with cc := ccMZ u.cc ((if cont = 0 then no else yes) == 0) }
      .ok (foundFaults (spillTeam s t.uid) t.uid f.pc f.active found)) s

/-- JOIN (R80, R168). In a handler fragment, whose parent is its trap marker, INFO is 1 whatever JOINPC and the records above the marker
are: the model's choice (log entry 18). -/
def execJoin (s : State) : Out :=
  issue .join { steps := false, closes := true } noLimits
    (fun s t f => do
      match (f.parent.bind (fragOf t)) with
      | none => .error (.s 0x0A 1)
      | some p => do
        need (!p.trapMarker) (.s 0x0A 1)
        need (decide (f.joinPc = f.pc)) (.s 0x0A 2)
        let (s, found) := closeRegion s t.uid f.pc
        match teamOf s t.uid with
        | none => .ok s
        | some u => do
          let u := (u.dropCalls f.num).endWindows f.num
          let u := modFrag u f.num fun x => { x with pc := f.pc, st := .arrived }
          if joinDone u p then do
            need (joinDepths u p) (.s 0x0A 0)
            .ok (foundFaults (spillTeam (setTeam s (fuse u p)) t.uid) t.uid f.pc f.active found)
          else .ok (foundFaults (setTeam s u) t.uid f.pc f.active found)) s

/-- LOOP and LOOPS (R170). -/
def loopIns (i : Instr) (regs : List SReg) (count : Team → Word) (last : BitVec 32) (s : State) : Out :=
  issue i { scalars := regs } (fun _ => need (decide (4 ≤ last.toInt)) (.illop 4))
    (fun s t f => do
      need (!t.othersLive f) (.s 0x0D 0)
      let e := target f last.toInt
      let n := count t
      if n = 0 then .ok (modTeam s t.uid fun u => modFrag u f.num fun x => { x with pc := pcOf (e + BitVec.ofNat 64 (lengthAt s t e)) })
      else do
        need (decide (t.loops.length < 4)) (.s 0x0C 0)
        .ok (modTeam s t.uid fun u => { u with loops := { start := f.pc + 8, last := e, count := n } :: u.loops })) s

/-- LOOP. -/
def execLoop (count : BitVec 16) (last : BitVec 32) (s : State) : Out :=
  loopIns (.loop count last) [] (fun _ => count.setWidth 32) last s
/-- LOOPS. -/
def execLoops (sa : SReg) (last : BitVec 32) (s : State) : Out := loopIns (.loops sa last) [sa] (fun t => lo32 (getS t sa)) last s

/-- LEAVE (R172): it makes no step of an outer loop that ends at the same place (log entry 51). -/
def execLeave (s : State) : Out :=
  issue .leave { steps := false } noLimits
    (fun s t f => match t.loops with
      | [] => .error (.s 0x0C 1)
      | e :: r => do
        need (!t.othersLive f) (.s 0x0D 0)
        let pc := pcOf (e.last + BitVec.ofNat 64 (lengthAt s t e.last))
        .ok (modTeam s t.uid fun u => modFrag { u with loops := r } f.num fun x => { x with pc })) s

/-- A fragment's FMT replaced (R174). -/
def setFmt (v : Word) : Team → Frag → Team := fun u f => modFrag u f.num fun x => { x with fmt := v }

/-- FMT, immediate form (R73, R174). -/
def execFmtImm (imm : BitVec 32) (s : State) : Out :=
  issue (.fmtImm imm) {} (fun _ => need (fmtLegal imm) (.illop 4)) (onTeam (setFmt imm)) s
/-- FMT, scalar form. -/
def execFmtReg (sa : SReg) (s : State) : Out :=
  issue (.fmtReg sa) { scalars := [sa] } noLimits
    (fun s t f => do
      need (fmtLegal (lo32 (getS t sa))) (.illop 4)
      onTeam (setFmt (lo32 (getS t sa))) s t f) s

/-- REGION (R175). -/
def execRegion (s : State) : Out :=
  issue .region { closes := true } noLimits
    (fun s t f =>
      let (s, found) := closeRegion s t.uid f.pc
      let s := modTeam s t.uid fun u => { u with region := some (openRegion t f (f.pc + 2) []) }
      .ok (foundFaults s t.uid f.pc f.active found)) s
/-- RCLOSE (R175). -/
def execRclose (s : State) : Out :=
  issue .rclose { closes := true } noLimits
    (fun s t f =>
      let (s, found) := closeRegion s t.uid f.pc
      .ok (foundFaults s t.uid f.pc f.active found)) s

/-- BRKZ (R59): a class S trap with the PC left at it. -/
def execBrkz (s : State) : Out := issue .brkz {} (fun _ => .error (.s 0x06 0)) (fun s _ _ => .ok s) s
/-- NOP (R185). -/
def execNop (s : State) : Out := issue .nop {} noLimits (fun s _ _ => .ok s) s

/-- TRAP and BKPT (R182). -/
def softTrap (i : Instr) (code arg : Nat) (s : State) : Out :=
  issue i { steps := false } noLimits
    (fun s t f => if f.active = 0 then .ok (leave s t.uid f 2) else do
        need (!t.trapWaits) (.park .regionReplays id)
        let next := f.pc + BitVec.ofNat 64 2
        .ok (takeTrap s t.uid code arg 0 f.pc next next)) s

/-- TRAP. -/
def execTrap (imm : BitVec 8) (s : State) : Out := softTrap (.trap imm) 3 imm.toNat s
/-- BKPT. -/
def execBkpt (s : State) : Out := softTrap .bkpt 4 0 s

/-- The return from a trap (R181): h is the handler fragment, m its marker. That the handler's windows end, though R48 does not name TRET, is
the model's choice (log entry 18). -/
def returnTrap (t : Team) (h m : Frag) : Team :=
  let t := t.mapLanes fun i l =>
    if m.member.getLsbD i ∧ !h.member.getLsbD i then
      { l with stack := List.replicate (h.depth - m.low) Entry.zero ++ l.stack.drop (m.depth - m.low) }
    else l
  let t := (t.dropCalls h.num).endWindows h.num
  let t := modFrag t m.num fun x => { x with depth := h.depth, shelf := h.shelf, trapMarker := false, st := .run, spilled := false, low := 0 }
  { t with
    frags := t.frags.filter fun g => g.num != h.num
    sb := t.sb.map fun e => if e.frag = h.num then { e with frag := m.num } else e
    loops := t.trapLoops.headD []
    trapLoops := t.trapLoops.drop 1
    gHeld := if t.gHeld = t.trapLoops.length then 0 else t.gHeld }

/-- TRET (R181). -/
def execTret (s : State) : Out :=
  issue .tret { steps := false } noLimits
    (fun s t f => match t.marker with
      | none => .error (.s 0x0F 0)
      | some m => do
        need (f.handler && f.parent == some m.num) (.s 0x0F 0)
        need (!t.frags.any fun g => g.num != f.num && Team.under t m.num 64 g.num) (.s 0x0F 0)
        .ok (spillTeam (modTeam s t.uid fun u =>
          returnTrap u ((fragOf u f.num).getD f) ((fragOf u m.num).getD m)) t.uid)) s

/-- A timer armed by a deadline, or disarmed by 0 (R184). -/
def armTimer (v : DWord) : Timer := { deadline := v, armed := v != 0 }

/-- TIMER.V. -/
def execTimerV (sa : SReg) (s : State) : Out :=
  issue (.timerV sa) { scalars := [sa] } noLimits (fun s t _ => .ok (modTeam s t.uid fun u => { u with timerV := armTimer (getS t sa) })) s
/-- TIMER.G. -/
def execTimerG (sa : SReg) (s : State) : Out :=
  issue (.timerG sa) { scalars := [sa] } noLimits (fun s t _ => .ok (modTeam s t.uid fun u => { u with timerG := armTimer (getS t sa), gHeld := 0 })) s

/-- HBEAT (R185, R359): a persistent launch's period starts anew. -/
def execHbeat (s : State) : Out :=
  issue .hbeat {} noLimits
    (fun s t _ => .ok (match launchOf s t.launch with
      | some l => if t.isPersistent then setLaunch s { l with elapsed := 0 } else s
      | none => s)) s
/-- PAUSE (R80, R81, R185): what has paused before stands behind what has not, and before this fragment. -/
def execPause (s : State) : Out :=
  issue .pause {} noLimits
    (onTeam fun u f => { u with frags := u.frags.map fun x => if x.num = f.num then { x with st := .ready, paused := 2 } else { x with paused := min x.paused 1 } }) s

end Sys2Proof.Machine
end

