-- ==== Sys2Proof/Machine/CrossLane.lean ====
section
/-! DEFINITION. Cross-lane instructions (R98, R115, R116, R147 to R153). -/

namespace Sys2Proof.Machine

/-- The source lanes of a fragment on a side: its active lanes; in a protected team its primaries (0) or shadows (1). -/
def Team.sources (t : Team) (f : Frag) (side : Nat) : List Nat :=
  if t.isProtected then (t.activeLanes f).filter fun i => i % 2 = side else t.activeLanes f

/-- A shuffle (R147): x is the index operand, tgt gives the place in the word from the lane's place and x. -/
def shflIns (i : Instr) (p : Nat) (ok : Bool) (tgt : Nat → Word → Int) (s : State) : Out :=
  issue i { pops := p, pushes := 1 } (fun _ => need ok (.illop 4))
    (onTeam (laneOp p 1 fun t f l ws =>
      let x := (ws.head?).getD 0
      let v := t.vis l
      let n := tgt (v % 32) x
      let src := t.sameSide l (v / 32 * 32 + n.toNat)
      let hit := decide (0 ≤ n) && decide (n < 32) && decide (src < t.width) && f.active.getLsbD src
      ([t.opd (if hit then src else l) (p - 1)], 0))) s

/-- SHFL.IDX. -/
def execShflIdx (s : State) : Out := shflIns .shflIdx 2 true (fun _ x => (x.toNat % 32 : Nat)) s
/-- SHFL.XOR. -/
def execShflXor (k : BitVec 8) (s : State) : Out :=
  shflIns (.shflXor k) 1 (decide (k.toNat < 32)) (fun i _ => ((BitVec.ofNat 8 i ^^^ k).toNat : Nat)) s
/-- SHFL.UP. -/
def execShflUp (k : BitVec 8) (s : State) : Out :=
  shflIns (.shflUp k) 1 (decide (k.toNat < 32)) (fun i _ => (i : Int) - k.toNat) s
/-- SHFL.DN. -/
def execShflDn (k : BitVec 8) (s : State) : Out :=
  shflIns (.shflDn k) 1 (decide (k.toNat < 32)) (fun i _ => (i : Int) + k.toNat) s

/-- The mask of the places j of a lane's word whose lane is a source and meets a condition on its number. -/
def sourceBits (t : Team) (f : Frag) (l : Nat) (c : Nat → Nat → Bool) : Word :=
  (List.range 32).foldl (fun m j =>
    let src := t.sameSide l (t.vis l / 32 * 32 + j)
    if src < t.width ∧ f.active.getLsbD src ∧ c j src then m ||| ((1 : Word) <<< j) else m) 0

/-- BALLOT (R148). -/
def execBallot (s : State) : Out :=
  laneIns .ballot 1 1 (fun t f l _ => ([sourceBits t f l fun _ src => t.opd src 0 != 0], 0)) s
/-- CONFLICT (R148). -/
def execConflict (s : State) : Out :=
  laneIns .conflict 1 1 (fun t f l _ =>
    ([sourceBits t f l fun j src => decide (j < t.vis l % 32) && t.opd src 0 == t.opd l 0], 0)) s

/-- The two sides of a protected team agree on a team-wide result, or SDC_DETECT is raised (R98). -/
def agree {α : Type} [DecidableEq α] (t : Team) (g : Nat → α) : Run α :=
  if t.isProtected ∧ g 0 ≠ g 1 then .error (.s 0x20 0) else .ok (g 0)

/-- VOTE.any and VOTE.all (R149): the vote of the popped flags becomes CC.Z; N, C and V clear. -/
def voteIns (i : Instr) (g : List Word → Bool) (s : State) : Out :=
  issue i { pops := 1 } noLimits
    (fun s t f => do
      let z ← agree t fun side => g ((t.sources f side).map fun l => t.opd l 0)
      .ok (modTeam s t.uid fun u => { u.stackOp f 1 0 (fun _ _ => []) with cc := ccWith u.cc z false false false })) s

/-- VOTE.any. -/
def execVoteAny (s : State) : Out := voteIns .voteAny (fun l => l.any fun x => x != 0) s
/-- VOTE.all. -/
def execVoteAll (s : State) : Out := voteIns .voteAll (fun l => l.all fun x => x != 0) s

/-- An operation of REDUCE and SCAN on two values, the lower lane's on the left (R115, R150). -/
def redOp (op : RedOp) (fmt : Word) (a b : Word) : Word × Flags :=
  match op with
  | .add => (a + b, 0)
  | .min => (if a.toInt ≤ b.toInt then a else b, 0)
  | .max => (if a.toInt ≤ b.toInt then b else a, 0)
  | .minu => (if a.toNat ≤ b.toNat then a else b, 0)
  | .maxu => (if a.toNat ≤ b.toNat then b else a, 0)
  | .and => (a &&& b, 0)
  | .or => (a ||| b, 0)
  | .xor => (a ^^^ b, 0)
  | .fadd => fl (addF f32F false (fmtRnd fmt) (fmtFtz fmt) a.toNat b.toNat)
  | .fmin => fl (fminmax f32F false (fmtFtz fmt) a.toNat b.toNat)
  | .fmax => fl (fminmax f32F true (fmtFtz fmt) a.toNat b.toNat)
where
  /-- A rounded result as a word and its flags. -/
  fl (r : FRes) : Word × Flags := (BitVec.ofNat 32 r.bits, r.fl)

/-- The identity of an operation (R116). -/
def redId (op : RedOp) : Word :=
  match op with
  | .add | .or | .xor | .maxu | .fadd => 0
  | .and | .minu => 0xFFFFFFFF
  | .min => 0x7FFFFFFF
  | .max => 0x80000000
  | .fmin | .fmax => 0x7FC00000

/-- Two values that may be absent, combined (R115): one that stands alone is handed on as it is, a NaN too (log entry 59). -/
def redJoin (op : RedOp) (fmt : Word) (a b : Option (Word × Flags)) : Option (Word × Flags) :=
  match a, b with
  | some (x, p), some (y, q) => let (z, r) := redOp op fmt x y; some (z, p ||| q ||| r)
  | none, y => y
  | x, none => x

/-- One step of the tree: neighbours combined. -/
def redStep (op : RedOp) (fmt : Word) : List (Option (Word × Flags)) → List (Option (Word × Flags))
  | x :: y :: r => redJoin op fmt x y :: redStep op fmt r
  | l => l

/-- The tree over the 32 places of a word (R115). -/
def redWord (op : RedOp) (fmt : Word) (l : List (Option (Word × Flags))) : Option (Word × Flags) :=
  match foldNat (fun l _ => redStep op fmt l) l 5 with
  | x :: _ => x
  | [] => none

/-- The reduction over visible lanes, words ascending: none stands for an absent lane (R115, R116). -/
def reduceTeam (op : RedOp) (fmt : Word) (words : Nat) (v : Nat → Option Word) : Word × Flags :=
  ((List.range words).foldl (fun acc k =>
    redJoin op fmt acc (redWord op fmt ((List.range 32).map fun j => (v (32 * k + j)).map fun x => (x, (0 : Flags)))))
    none).getD (redId op, 0)

/-- The values of the source lanes of a side, by visible lane, below a bound. -/
def sourceVals (t : Team) (f : Frag) (side bound : Nat) (v : Nat) : Option Word :=
  let l := t.sameSide side v
  if v < bound ∧ l < t.width ∧ f.active.getLsbD l then some (t.opd l 0) else none

/-- The reduction of a side's source lanes. -/
def reduceSide (t : Team) (f : Frag) (op : RedOp) (side bound : Nat) : Word × Flags :=
  reduceTeam op f.fmt ((t.nlane + 31) / 32) (sourceVals t f side bound)

/-- REDUCE (R98, R150): the scalar, in which the sides of a protected team must agree, and with .b the pushed entry, which is pending
until it is written. -/
def execReduce (la : BitVec 4) (op : RedOp) (bc : Bool) (sd : SReg) (s : State) : Out :=
  issue (.reduce la op bc sd)
    { pops := 1, pushes := if bc then 1 else 0, scalars := [sd] } noLimits
    (fun s t f => do
      let v ← agree t fun side => (reduceSide t f op side 1024).1
      let fl := (reduceSide t f op 0 1024).2
      match teamOf s t.uid with
      | none => .ok s
      | some u =>
        let u := u.stackOp f 1 (if bc then 1 else 0) fun _ _ => if bc then [Entry.clean v] else []
        let u := (setS u sd (v.setWidth 64)).orFlags fl
        let (u, _) ← if bc then takeSb u f 1 la false else .ok (u, 0)
        .ok (setTeam s u)) s

/-- SCAN (R115, R151). -/
def execScan (la : BitVec 4) (op : RedOp) (excl : Bool) (s : State) : Out :=
  issue (.scan la op excl) { pops := 1, pushes := 1 } noLimits
    (laneLL la 1 1 fun t f l _ =>
      let (v, fl) := reduceSide t f op (if t.isProtected then l % 2 else 0) (if excl then t.vis l else t.vis l + 1)
      ([v], fl)) s

/-- READL (R152). -/
def execReadl (sd : SReg) (s : State) : Out :=
  issue (.readl sd) { pops := 1, scalars := [sd] } noLimits
    (fun s t f => do
      let v ← agree t fun side => match t.sources f side with
        | l :: _ => t.opd l 0
        | [] => 0
      .ok (modTeam s t.uid fun u => setS (u.stackOp f 1 0 fun _ _ => []) sd (v.setWidth 64))) s

end Sys2Proof.Machine
end

