-- ==== Sys2Proof/Machine/Scalar.lean ====
section
/-! DEFINITION. Scalar instructions and the special registers (R56, R69 to R74, R154 to R157). -/

namespace Sys2Proof.Machine

/-- A scalar instruction: the scalars it names, and what it makes of the team. -/
def scalarIns (i : Instr) (regs : List SReg) (limits : Team → Run Unit) (g : State → Team → Frag → Team → Team) (s : State) : Out :=
  issue i { scalars := regs } limits (fun s t f => .ok (modTeam s t.uid fun u => g s t f u)) s

/-- sd = g(sa, sb), with CC from a function of the old CC, the operands and the result (R154, R156). -/
def sBin (i : Instr) (sd sa sb : SReg) (g : DWord → DWord → DWord) (cc : Word → DWord → DWord → Word) (s : State) : Out :=
  scalarIns i [sd, sa, sb] noLimits (fun _ t _ u =>
    { setS u sd (g (getS t sa) (getS t sb)) with cc := cc u.cc (getS t sa) (getS t sb) }) s

/-- SMOV. -/
def execSmov (sd sa : SReg) (s : State) : Out :=
  scalarIns (.smov sd sa) [sd, sa] noLimits (fun _ t _ u => setS u sd (getS t sa)) s
/-- SADD. -/
def execSadd (sd sa sb : SReg) (s : State) : Out := sBin (.sadd sd sa sb) sd sa sb (fun a b => a + b) ccAdd s
/-- SSUB. -/
def execSsub (sd sa sb : SReg) (s : State) : Out := sBin (.ssub sd sa sb) sd sa sb (fun a b => a - b) ccSub s
/-- SMUL. -/
def execSmul (sd sa sb : SReg) (s : State) : Out := sBin (.smul sd sa sb) sd sa sb (fun a b => a * b) ccMul s
/-- SAND. -/
def execSand (sd sa sb : SReg) (s : State) : Out :=
  sBin (.sand sd sa sb) sd sa sb (fun a b => a &&& b) (fun cc a b => ccLogic cc (a &&& b)) s
/-- SOR. -/
def execSor (sd sa sb : SReg) (s : State) : Out :=
  sBin (.sor sd sa sb) sd sa sb (fun a b => a ||| b) (fun cc a b => ccLogic cc (a ||| b)) s
/-- SXOR. -/
def execSxor (sd sa sb : SReg) (s : State) : Out :=
  sBin (.sxor sd sa sb) sd sa sb (fun a b => a ^^^ b) (fun cc a b => ccLogic cc (a ^^^ b)) s
/-- SSHL: the count is taken modulo 64. -/
def execSshl (sd sa sb : SReg) (s : State) : Out :=
  sBin (.sshl sd sa sb) sd sa sb (fun a b => a <<< (b.toNat % 64)) (fun cc a b => ccLogic cc (a <<< (b.toNat % 64))) s
/-- SSHR. -/
def execSshr (sd sa sb : SReg) (s : State) : Out :=
  sBin (.sshr sd sa sb) sd sa sb (fun a b => a >>> (b.toNat % 64)) (fun cc a b => ccLogic cc (a >>> (b.toNat % 64))) s
/-- SSAR. -/
def execSsar (sd sa sb : SReg) (s : State) : Out :=
  sBin (.ssar sd sa sb) sd sa sb (fun a b => a.sshiftRight (b.toNat % 64))
    (fun cc a b => ccLogic cc (a.sshiftRight (b.toNat % 64))) s
/-- SCMP. -/
def execScmp (sa sb : SReg) (s : State) : Out :=
  scalarIns (.scmp sa sb) [sa, sb] noLimits (fun _ t _ u => { u with cc := ccSub u.cc (getS t sa) (getS t sb) }) s

/-- SLI (R155). -/
def execSli (sd : SReg) (imm : BitVec 32) (s : State) : Out :=
  scalarIns (.sli sd imm) [sd] noLimits (fun _ _ _ u => setS u sd (imm.signExtend 64)) s
/-- SLIW (R155): bits 31:0 stay. -/
def execSliw (sd : SReg) (imm : BitVec 32) (s : State) : Out :=
  scalarIns (.sliw sd imm) [sd] noLimits (fun _ t _ u => setS u sd (pair (lo32 (getS t sd)) imm)) s
/-- SADDI (R155). -/
def execSaddi (sd sa : SReg) (imm : BitVec 32) (s : State) : Out :=
  scalarIns (.saddi sd sa imm) [sd, sa] noLimits (fun _ t _ u =>
    { setS u sd (getS t sa + imm.signExtend 64) with cc := ccAdd u.cc (getS t sa) (imm.signExtend 64) }) s
/-- SCMPI (R155). -/
def execScmpi (sa : SReg) (imm : BitVec 32) (s : State) : Out :=
  scalarIns (.scmpi sa imm) [sa] noLimits (fun _ t _ u => { u with cc := ccSub u.cc (getS t sa) (imm.signExtend 64) }) s

/-- SREAD (R157): LANE reads as the lowest-numbered active lane, 0 with none. -/
def execSread (sd : SReg) (x : SpecReg) (s : State) : Out :=
  scalarIns (.sread sd x) [sd] noLimits (fun s t f u => setS u sd (specValue s t f x ((t.activeLanes f).headD 0))) s

/-- A special register written (R70, R71, R74): CC and FPSF keep their reserved bits, UHVEC loses bit 0. -/
def writeSpec (t : Team) (x : SpecReg) (v : DWord) : Team :=
  match x with
  | .cc => { t with cc := (t.cc &&& 0xFFFFFFC0) ||| (lo32 v &&& 0x3F) }
  | .fpsf => { t with fpsf := v.setWidth 5 }
  | .uhvec => { t with uhvec := v &&& 0xFFFFFFFFFFFFFFFE }
  | _ => t

/-- SWRITE (R157). -/
def execSwrite (x : SpecReg) (sa : SReg) (s : State) : Out :=
  scalarIns (.swrite x sa) [sa] (fun _ => need x.writable (.illop 4)) (fun _ t _ u => writeSpec u x (getS t sa)) s

end Sys2Proof.Machine
end

