-- ==== Sys2Proof/Machine/Power.lean ====
section
/-! DEFINITION. The power market: PWRPRIO, PWRREAD, the interval, the issue floor and the budget (R278 to R289). -/

namespace Sys2Proof.Machine

/-- PWRPRIO (R287). -/
def execPwrprio (p : BitVec 2) (s : State) : Out :=
  issue (.pwrprio p) {} noLimits (onTeam fun u _ => { u with pwrprio := p }) s

/-- PWRREAD (R288): the word as it stands in the cycle of issue. -/
def execPwrread (sd : SReg) (s : State) : Out :=
  issue (.pwrread sd) { scalars := [sd] } noLimits
    (fun s t _ => .ok (modTeam s t.uid fun u => setS u sd (pwrStatus s (quadOf t.core) t.pwrprio))) s

/-- P(k) of R285. -/
def pulsePattern (k : Nat) : BitVec 16 :=
  (List.range 16).foldl (fun w i => if i * k / 16 < (i + 1) * k / 16 then w ||| ((1 : BitVec 16) <<< i) else w) 0

/-- The ones of a quad's pattern from its grant and its die's thermal state (R285, R286). -/
def pulses (grant : Nat) (th : Therm) : Nat :=
  let k := max 2 (min ((16 * grant + 39) / 40) 16)
  match th with
  | .normal => k
  | .throttled => min k 8
  | .tripped => 2

/-- The 52 logical quads of the package in order, as physical quads (R281, R314). -/
def logicalQuads (s : State) : List Nat :=
  (List.range 4).flatMap fun d => (List.range 13).filterMap fun q => (physCore s d (4 * q)).map quadOf

/-- A quad's bid at the end of an interval: RQ and WT (R280). -/
def quadBid (s : State) (q : Nat) : Nat × Nat :=
  let here := s.teams.filter fun t => quadOf t.core == q
  if here.isEmpty then (8, 0)
  else (max 8 (min ((5 * (getQuad s q).spent + 39999999) / 40000000) 1024), (here.map fun t => t.pwrprio.toNat + 1).sum)

/-- A bid put into the order of R281: a higher WT / (RQ - 8) first, an equal one behind those already there. -/
def insertBid (x : Nat × Nat × Nat) : List (Nat × Nat × Nat) → List (Nat × Nat × Nat)
  | [] => [x]
  | y :: r => if y.2.2 * (x.2.1 - 8) < x.2.2 * (y.2.1 - 8) then x :: y :: r else y :: insertBid x r

/-- The grants above the floor, in order, while budget is left: (quad, tokens) (R281). -/
def share : Nat → List (Nat × Nat × Nat) → List (Nat × Nat)
  | _, [] => []
  | left, x :: r =>
    let add := min (x.2.1 - 8) left
    (x.1, add) :: share (left - add) r

/-- The grants of an interval, by the quad's place in the list of 52 (R281): bids are (RQ, WT). -/
def clearBids (budget start : Nat) (bids : List (Nat × Nat)) : List (Nat × Nat) :=
  let order := (List.range 52).map fun i => (start + i) % 52
  let above := (order.map fun i => (i, (bids[i]?).getD (8, 0))).filter fun x => decide (8 < x.2.1)
  share (budget - 8 * 52) (above.foldl (fun l x => insertBid x l) [])

/-- A quad's pattern from its grant and its die, from slot 0 of the next frame on (R285). -/
def setPattern (s : State) (q : Nat) : State :=
  let x := getQuad s q
  setQuad s q { x with nextPattern := pulsePattern (pulses x.grant (getDie s (q / 14)).therm) }

/-- The number of the power interval that GTIME stands in (R280). -/
def intervalNow (s : State) : Nat := s.gtime.toNat / 10000

/-- The bids of the interval that ends are cleared together and the grants of the next loaded (R280, R281). A deficit is carried; the next
interval has no charge yet. -/
def clearInterval (s : State) : State :=
  let quads := logicalQuads s
  let grants := clearBids (fld s.hub.pbudget 0 12) s.hub.startQuad (quads.map (quadBid s))
  let s := (quads.zip (List.range 52)).foldl (fun s x =>
    let g := 8 + ((grants.find? fun y => y.1 == x.2).map (·.2)).getD 0
    let k := getQuad s x.1
    setPattern (setQuad s x.1 { k with
      grant := g, allow := BitVec.ofInt 64 (g * 10000000 + min k.allow.toInt 0), charged := 0, lastSpent := k.spent, spent := 0 }) x.1) s
  { s with hub := { s.hub with startQuad := (s.hub.startQuad + 1) % 52, interval := intervalNow s } }

/-- The start of an interval of 10 µs, once for each (R280). -/
def powerInterval (s : State) : State := if intervalNow s = s.hub.interval then s else clearInterval s

/-- POWER_INTERVAL. -/
def execPowerInterval (s : State) : Out := .next (powerInterval s)

/-- The rank of a team whose next instruction is of a class (R283). -/
def rank (t : Team) (c : Nat) : Nat := 5 * (3 - t.pwrprio.toNat) + c

/-- Whether the quad's scheduler withholds a team's issue of an instruction (R283, R284). The charges of one cycle are subtracted together,
so it is A as it stood before them that decides (R279). -/
def withheldNow (s : State) (t : Team) (f : Frag) (i : Instr) : Bool :=
  let q := getQuad s (quadOf t.core)
  !t.exempt && decide (q.allow.toInt + q.charged < (issueCost i (passes t f) + rank t (costClass i).num * 256000 : Nat))

/-- Whether a team's context runs: RUNNING, and not about to be saved (R253, R350). -/
def contextRuns (s : State) (t : Team) : Bool := match slotOfTag s t.tag with
  | some n => (getSlot s n).st == 2 && !(getSlot s n).leaving
  | none => false

/-- Whether a team's bench is frozen (R406). -/
def benchFrozen (s : State) (t : Team) : Bool := (getBench s t.core t.bench).bctl.getLsbD 0

/-- Whether a team may issue at all: its context runs, its bench is not frozen, its replay records have been presented, and this cycle's
pulse passes (R186, R285, R306, R406). -/
def mayIssue (s : State) (t : Team) : Bool := contextRuns s t && !benchFrozen s t && t.replay.isEmpty && pulseAt s t.core

/-- A team withheld for 64 passed pulses on end is exempt until it issues (R284). -/
def floorExempt (s : State) (team : Nat) : State := modTeam s team fun t => if 64 ≤ t.withheld then { t with exempt := true } else t

/-- ISSUE_FLOOR_EXEMPT. -/
def execIssueFloorExempt (team : Nat) (s : State) : Out := .next (floorExempt s team)

/-- PBUDGET_WRITE (R282): TOKENS held within 416 to 3200; the reserved bits are ignored. -/
def execPbudgetWrite (value : BitVec 32) (s : State) : Out :=
  .next { s with hub := { s.hub with pbudget := BitVec.ofNat 32 (max 416 (min (value.toNat % 4096) 3200)) } }

end Sys2Proof.Machine
end

