-- ==== Sys2Proof/Machine/Serve.lean ====
section
/-! DEFINITION. Serving the fault buffer: the Bureau's answers, replay in list order, and the retries of accesses that found
no room (R200, R302 to R306, R315, R316). -/

namespace Sys2Proof.Machine

/-- A waiter of a unit in some fault buffer: the team's matrix command, or its IXU command. -/
def unitWaits (s : State) (uid : Nat) (k : WaiterKind) : Bool :=
  (List.range 4).any fun d => (getDie s d).fb.any fun e => e.waiters.any fun w => w.team == uid && w.kind == k

/-- Held commands that wait for no page re-enter their queues (R251, R253). -/
def requeueHeld (s : State) (uid : Nat) : State :=
  match teamOf s uid with
  | none => s
  | some t =>
    let s := if t.held.isSome && !unitWaits s uid .matrix then requeueMat s uid else s
    if !t.heldIx.isEmpty && !unitWaits s uid .ixu then requeueIx s uid else s

/-- A team's replay records presented, and its held commands given back to the units (R253, R306). -/
def presentAll (s : State) (uid : Nat) : State := requeueHeld (presentReplays s uid) uid

/-- The kind of access that a host, a peer or an RDMA engine makes. -/
def extKind : ExtOp → AccKind
  | .read _ => .read
  | .write _ => .write
  | .atomic .. => .rw

/-- An access of a host or a peer performed at the home slices for a context, as far as its addresses translate (R318, R437, R438,
R442). -/
def extPerform (s : State) (tag : Tag) (va : Nat) (op : ExtOp) : State :=
  match op with
  | .read n => (vaRead s tag va n (n / 64 + 2)).1
  | .write b => (vaWrite s tag va b (b.length / 64 + 2)).1
  | .atomic o v cmp =>
    if va % atomBytes o ≠ 0 then s
    else match walkZeroed s tag va .rw with
      | (s, .ok pa e) =>
        if Config.hbmEnd ≤ pa then s
        else
          let s := homeTouch s (pa / 64) e.otag e.prot true
          if (homePoison s (pa / 64)).isSome then s
          else homeWrite s pa (leBytes (atomBytes o) (atomNew o (BitVec.ofNat 64 (Memory.nat s.mem pa (atomBytes o))) v cmp).toNat)
            e.otag e.prot none [] 1
      | (s, _) => s

/-- One waiter's access goes on: its page has been mapped (R251, R304, R346, R382). -/
def serveWaiter (s : State) (die : Nat) (e : FbEntry) (w : Waiter) : State :=
  match w.kind with
  | .pass _ | .reissue => replayWaiter s die e w
  | .matrix => requeueMat (replayWaiter s die e w) w.team
  | .ixu => requeueIx (replayWaiter s die e w) w.team
  | .copy n => setCtx s (n / 768) (n % 768) { getCtx s (n / 768) (n % 768) with stalled := false }
  | .launch q => setQueue s q { getQueue s q with parked := none }
  | .walk tag slot => match actAt s tag slot with
    | some a => walkOn s a
    | none => s
  | .remote pkg stag va op => match podAdmit s pkg stag with
    | some g => extPerform s g (va.toNat % 2 ^ 47) op
    | none => s

/-- A fragment that waits to issue an instruction again meets a fault instead. -/
def failReissue (s : State) (w : Waiter) (info page : Nat) : State :=
  let lanes := (((teamOf s w.team).bind (fragOf · w.frag)).map (·.active)).getD 0
  let s := classS s w.team 0x11 0 info w.pc lanes (some (BitVec.ofNat 64 (page * 2 ^ 21)))
  wakeReissue s w

/-- One waiter's access is turned into PERM (R304, R305, R238, R252, R346, R382). -/
def failWaiter (s : State) (page info : Nat) (w : Waiter) : State :=
  let gone := fun (s : State) => modTeam s w.team fun t => dropPage t (waiterPage w page t)
  let va := BitVec.ofNat 64 (page * 2 ^ 21)
  match w.kind with
  | .pass accs =>
    let s := accs.foldl (fun s a => dropAcc s w.team a) (gone s)
    settleSb (postLanes s w (accs.map fun a => (0x11, info, (match a with
      | .dqnt .. | .qnt .. => va
      | a => a.va), a.lanes))) w.team
  | .reissue => failReissue (gone s) w info page
  | .matrix => match teamOf s w.team with
    | some t => unitFault (gone s) t 0x11 info w.pc va
    | none => s
  | .ixu => match teamOf s w.team with
    | some t => unitFault (modTeam (gone s) w.team fun u => { u with heldIx := u.heldIx.drop 1 }) t 0x11 info w.pc va
    | none => s
  | .copy n => match (getCtx s (n / 768) (n % 768)).queue with
    | c :: _ => postCopyFault s c (n % 768) 0x11 info va
    | [] => s
  | .launch q => match (getQueue s q).packets with
    | p :: _ => refusePacket (setQueue s q { getQueue s q with parked := none }) q p 0x31
    | [] => s
  | .walk tag slot => match actAt s tag slot with
    | some a => compDone s a 0xFFFFFFFE 1
    | none => s
  | .remote .. => s

/-- Every waiter of an entry turned into PERM, and the entry freed (R304). -/
def failEntry (s : State) (die : Nat) (e : FbEntry) (info : Nat) : State :=
  e.waiters.foldl (fun s w => failWaiter s e.page info w) (putEntry s die e.idx none)

/-- What a second walk of a page comes to: a leaf, its level again, or PERM with its INFO (R299, R304). -/
def rewalk (s : State) (e : FbEntry) : Walk :=
  match walk s e.tag (e.page % 2 ^ 35 * 2 ^ 21) with
  | .leaf x => if x.sys && e.tag != 0 then .perm 4 none else if x.otag != e.tag && !x.shr then .perm 3 none else .leaf x
  | w => w

/-- FBRES written (R304, R315). -/
def writeFbres (s : State) (die : Nat) (outcome idx : Nat) : State :=
  match entryOf s die idx with
  | none => s
  | some e =>
    if e.state ≠ 1 then s
    else if outcome = 1 then failEntry s die e 1
    else if outcome = 0 then
      match rewalk s e with
      | .leaf _ => putEntry s die idx (if e.waiters.isEmpty then none else some { e with state := 3 })
      | .xlate level => putEntry s die idx (some { e with level })
      | .perm info _ => failEntry s die e info
      | .pod => s
    else s

/-- FBRES_REWALK. -/
def execFbresRewalk (die entry : Nat) (s : State) : Out := .next (writeFbres s die 0 entry)
/-- FBRES_FAIL. -/
def execFbresFail (die entry : Nat) (s : State) : Out := .next (writeFbres s die 1 entry)

/-- Whether the quad of a waiter's team acts in this cycle (R3); a waiter that is not a team's has none. -/
def waiterPulse (s : State) (w : Waiter) : Bool := match w.kind with
  | .pass _ | .reissue | .matrix | .ixu => ((teamOf s w.team).map fun t => pulseAt s t.core).getD true
  | _ => true

/-- WAITER_REPLAY (R304): the first waiter of an entry that is replaying; the entry is freed with its last. -/
def execWaiterReplay (die entry : Nat) (s : State) : Out :=
  .next (match entryOf s die entry with
    | none => s
    | some e =>
      if e.state ≠ 3 then s
      else match e.waiters with
        | [] => putEntry s die entry none
        | w :: r =>
          if !waiterPulse s w then s
          else
          let s := putEntry s die entry (some { e with waiters := r })
          let s := serveWaiter s die e w
          match entryOf s die entry with
          | some e' => if e'.waiters.isEmpty then putEntry s die entry none else s
          | none => s)

/-- A fragment parked on a full fault buffer, or on a full waiter table, is READY to present its access again. -/
def representFrag (s : State) (uid frag : Nat) : State :=
  modTeam s uid fun t => { t with frags := t.frags.map fun f =>
    if f.num = frag then match f.wait with
      | some (.faultFull _) => f.wake
      | _ => f
    else f }

/-- FAULT_REPRESENT (R302): an access that found no entry or waiter is presented again. -/
def execFaultRepresent (team frag : Nat) (s : State) : Out :=
  .next (if (teamOf s team).any fun t => pulseAt s t.core then representFrag s team frag else s)

/-- WAITER_TABLE_RETRY (R200): a fragment that found the waiter table full tries again once its pulses have passed. -/
def execWaiterTableRetry (team frag : Nat) (s : State) : Out :=
  let listed := s.cores.any fun c => c.2.feWaiters.any fun w => w.team == team && w.frag == frag
  let due := (teamOf s team).any fun t => pulseAt s t.core && (match (fragOf t frag).bind (·.wait) with
    | some (.fullEmpty _ _ _ _ _ n) => n == 0
    | _ => false)
  .next (if listed || !due then s else feAdvance s team frag)

end Sys2Proof.Machine
end

