-- ==== Sys2Proof/Machine/Debug.lean ====
section
/-! DEFINITION. Benches: their registers, freezing, claims, comparators, samples; DBG.RD and DBG.WR; the dump format (R403 to R416,
R419). -/

namespace Sys2Proof.Machine

/-- A bench halted by a comparator or a HALT write: it freezes, and its context enters STOPPED, resumable (R406). -/
def haltBench (s : State) (c b cause slot comp : Nat) : State :=
  if (getBench s c b).bctl.getLsbD 0 then s
  else
    let s := freezeBench s c b cause slot comp
    let w := (getCore s c).cowner
    if w.getLsbD 31 then (stopSlot s (w.setWidth 12) false).1 else s

/-- BCTL written (R404, R405): the issuing team becomes the claimant where none is held, and only a tag-0 team can be one. -/
def writeBctl (s : State) (c b : Nat) (v : Word) (team : Option Nat) : State :=
  let x := getBench s c b
  let who := (team.bind (teamOf s)).filter fun t => t.tag == 0
  let claim := if v.getLsbD 3 && x.claimant.isNone then who.map (·.uid) else x.claimant
  let s := setBench s c b { x with bctl := (x.bctl &&& 1) ||| (v &&& 4), claimant := claim }
  if v.getLsbD 0 then haltBench s c b 3 0 0 else s

/-- Whether a comparator word is refused (R409). -/
def badComp (v : DWord) : Bool :=
  v.getLsbD 31 && (fld v 27 3 == 7 || fld v 25 2 == 3 || (fld v 25 2 == 2 && decide (31 < fld v 17 8)))

/-- A bench register written (R403, R404, R409, R411). -/
def writeBenchReg (s : State) (c b off : Nat) (v : DWord) (team : Option Nat) : State :=
  let x := getBench s c b
  if off = 0x00 then writeBctl s c b (lo32 v) team
  else if off = 0x18 then
    let p := fld v 0 32
    setBench s c b { x with bsample := BitVec.ofNat 64 (if p = 0 then 0 else max 256 p) }
  else if off = 0x20 then setBench s c b { x with btrace := v &&& 0x9F000FFFFFFFFFC0 }
  else if 0x40 ≤ off ∧ off < 0x80 then
    if badComp v then s else setBench s c b { x with bpctl := listSet x.bpctl ((off - 0x40) / 8) (v &&& 0xFFFFFFFFFFFFF000) }
  else s

/-- BENCH_HALT. -/
def execBenchHalt (core bench : Nat) (s : State) : Out :=
  .next (if core < 224 ∧ bench < 4 then haltBench s core bench 3 0 0 else s)

/-- BENCH_CLAIM. -/
def execBenchClaim (core bench team : Nat) (s : State) : Out :=
  .next (if core < 224 ∧ bench < 4 then writeBctl s core bench (8 ||| (getBench s core bench).bctl &&& 4) (some team) else s)

/-- HALT_BROADCAST (R407): the broadcast that a freeze has sent arrives at a bench, where the bench still holds teams of the context. -/
def execHaltBroadcast (core bench : Nat) (s : State) : Out :=
  let x := getBench s core bench
  .next (match x.called with
    | none => s
    | some tag =>
      let s := setBench s core bench { x with called := none }
      if s.teams.any fun t => t.core == core && t.bench == bench && t.tag == tag then freezeBench s core bench 4 0 0 else s)

/-- The comparison of BPCTL.OP (R409). -/
def compHolds (op : Nat) {w : Nat} (x imm : BitVec w) : Bool :=
  match op with
  | 0 => x == imm
  | 1 => x != imm
  | 2 => decide (x.toInt < imm.toInt)
  | 3 => decide (imm.toInt ≤ x.toInt)
  | 4 => decide (x.toNat < imm.toNat)
  | 5 => decide (imm.toNat ≤ x.toNat)
  | _ => x &&& imm != 0

/-- Whether a comparator hits a fragment of a team before its next instruction (R410). A scalar that is pending never matches. -/
def compHit (t : Team) (f : Frag) (v : DWord) : Bool :=
  let lanes := t.activeLanes f
  let op := fld v 27 3
  let imm : Word := hi32 v
  let idx := fld v 17 8
  let lanesDo := fun (g : Nat → Bool) => if v.getLsbD 30 then lanes.all g else lanes.any g
  v.getLsbD 31 && !lanes.isEmpty && (!v.getLsbD 16 || t.slot == fld v 12 4) &&
    (match fld v 25 2 with
      | 0 => lanesDo fun i => !(t.sb.any fun e => e.holdsLoc (laneBit i) idx) &&
          (match (t.lane i).locals[idx]? with
            | some e => compHolds op e.bits imm
            | none => false)
      | 1 => decide (0 < f.depth) && lanesDo fun i =>
          !(t.sb.any fun e => e.holdsPos (laneBit i) f.depth f.depth) && compHolds op (t.opd i 0) imm
      | _ => !t.scalarPend.contains idx && compHolds op (getS t (BitVec.ofNat 5 idx)) (imm.signExtend 64))

/-- The fragment whose instruction a team would issue next: its running one, or the READY one that runs next. -/
def nextFrag (t : Team) : Option Frag := match runFrag t with
  | some f => some f
  | none => t.nextReady

/-- The lowest comparator of a team's bench that hits its next fragment. -/
def hitOf (s : State) (t : Team) : Option Nat :=
  match nextFrag t with
  | none => none
  | some f => (List.range 8).find? fun k => compHit t f (((getBench s t.core t.bench).bpctl[k]?).getD 0)

/-- COMPARATOR_HIT (R406, R410): at an issue of the team; BFREEZE names the lowest comparator that hits. -/
def execComparatorHit (team comp : Nat) (s : State) : Out :=
  .next (match teamOf s team with
    | none => s
    | some t => match hitOf s t with
      | some k => if k = comp ∧ mayIssue s t then haltBench s t.core t.bench 2 t.slot k else s
      | none => s)

/-- What a sample says of a team (R412). -/
def sampleInfo (s : State) (t : Team) : Nat :=
  match nextFrag t with
  | some f => match fetchAt s t f.pc with
    | .ok i _ => if withheldNow s t f i then 3 else 0
    | _ => 0
  | none =>
    let parked := fun (p : Wait → Bool) => t.frags.any fun f => match f.wait with
      | some w => p w
      | none => false
    let onFault := fun (w : Wait) => match w with
      | .fault _ _ | .faultFull _ | .pageSet _ | .zeroing _ | .replays | .regionReplays | .held => true
      | _ => false
    let onResult := fun (w : Wait) => match w with
      | .pending _ | .scalar _ | .sbFull => true
      | _ => false
    if parked onFault then 5 else if parked onResult then 1 else 4

/-- The first of a bench's teams in the order of R191: those exempt first (R284), then PWRPRIO, then age. -/
def firstTeam (s : State) (c b : Nat) : Option Team :=
  let key := fun (t : Team) => (if t.exempt then 4 else t.pwrprio.toNat)
  (s.teams.filter fun t => t.core == c && t.bench == b).foldl (fun (a : Option Team) t => match a with
    | none => some t
    | some u => if key u < key t ∨ (key u = key t ∧ t.age < u.age) then some t else some u) none

/-- BSAMPLE.PERIOD. -/
def Bench.period (b : Bench) : Nat := fld b.bsample 0 32

/-- Whether a bench's sample period has passed (R411). -/
def Bench.sampleDue (b : Bench) : Bool := b.period != 0 && decide (b.period ≤ b.pulses)

/-- A sample of a bench whose period has passed (R411, R412). -/
def benchSample (s : State) (core bench : Nat) : State :=
  let x := getBench s core bench
  if !x.sampleDue then s
  else
    let s := setBench s core bench { x with pulses := x.pulses - x.period }
    match firstTeam s core bench with
    | none => traceWrite s core bench 1 0xFF 0 0 none 0
    | some t =>
      let f := nextFrag t
      traceWrite s core bench 1 t.slot (sampleInfo s t) t.tag f ((f.map fun f => summary t f.active).getD 0)

/-- BENCH_SAMPLE. -/
def execBenchSample (core bench : Nat) (s : State) : Out := .next (benchSample s core bench)

/-- The 8 bytes of a freeze record (R414). -/
def freezeWord (b : Bench) (slot off : Nat) : DWord := ((b.freeze.find? fun x => x.1 == slot * 64 + off / 8).map (·.2)).getD 0

/-- The frozen team in a bench slot. -/
def frozenTeam (s : State) (c b slot : Nat) : Option Team :=
  if (getBench s c b).bctl.getLsbD 0 then s.teams.find? fun t => t.core == c && t.bench == b && t.slot == slot else none

/-- The 256 bytes of a quad's barrier channels (R413). -/
def channelBytes (s : State) (q : Nat) : List Byte :=
  padTo 256 ((getQuad s q).channels.flatMap fun c =>
    leBytes 4 c.id ++ leBytes 4 (genOf s 0 q c.launch c.id) ++ leBytes 4 c.arrived ++ leBytes 4 c.expect)

/-- Debug state as 8 bytes (R413, R414): none where the address names none. -/
def debugRead (s : State) (space c b slot off : Nat) : Option DWord :=
  let k := getCore s c
  let word := fun (l : List Byte) => BitVec.ofNat 64 (leNat l)
  match space with
  | 0 => if off < 0x80 then some (benchReg (getBench s c b) off) else none
  | 1 => (frozenTeam s c b slot).bind fun t => if off < tsaSize t then some (word (((tsaImage t).drop off).take 8)) else none
  | 2 => (frozenTeam s c b slot).bind fun _ => if off < 264 then some (freezeWord (getBench s c b) slot off) else none
  | 3 => if off < partScr k.cpart * 65536 then some (word (spRead s c off 8)) else none
  | 4 => if off < partScr k.cpart * 512 then
      some (word ((List.range 8).map fun i => BitVec.ofNat 8 ((k.full.filter fun g => g / 8 == off + i).foldl (fun a g => a + 2 ^ (g % 8)) 0)))
    else none
  | 5 => if off < partAcc k.cpart * 65536 then some (word (Memory.read k.pool (tilePool k 0 + off) 8)) else none
  | 6 => if off < 256 then some (word (((channelBytes s (quadOf c)).drop off).take 8)) else none
  | _ => none

/-- 8 bytes put into an image. -/
def putImage (img : List Byte) (off : Nat) (v : DWord) : List Byte := img.take off ++ leBytes 8 v.toNat ++ img.drop (off + 8)

/-- Debug state written (R413, R415): none where the address or the space refuses it. -/
def debugWrite (s : State) (team space c b slot off : Nat) (v : DWord) : Option State :=
  let k := getCore s c
  match space with
  | 0 => if off < 0x80 then some (writeBenchReg s c b off v (some team)) else none
  | 1 => (frozenTeam s c b slot).bind fun t =>
    if off < tsaOff t 7 then some (setTeam s (tsaLoad t true (putImage (tsaImage t) off v))) else none
  | 3 => if off < partScr k.cpart * 65536 then some (spWrite s c off (leBytes 8 v.toNat) none) else none
  | 4 => if off < partScr k.cpart * 512 then
      let at' := fun (i : Nat) => (c, (off * 8 + i) * 16)
      let s := (List.range 64).foldl (fun s i => if v.getLsbD i then s else setFull s c (at' i).2 false) s
      some (fillGranules s (((List.range 64).filter fun i => v.getLsbD i && !isFull s c (at' i).2).map at'))
    else none
  | 5 => if off < partAcc k.cpart * 65536 then
      some (setCore s c { k with pool := Memory.write k.pool (tilePool k 0 + off) (leBytes 8 v.toNat) })
    else none
  | _ => none

/-- The core of a debug address, where CORE names one (R413). -/
def debugCore (s : State) (a : DWord) : Option Nat := physCore s (fld a 58 2) (fld a 52 6)

/-- DBG.RD and DBG.WR are for tag 0 alone: a check made with those of decoding (R415). -/
def privileged (t : Team) : Run Unit := need (t.tag == 0) (.s 0x1A 0)

/-- DBG.RD (R415). -/
def execDbgRd (sd sa : SReg) (s : State) : Out :=
  issue (.dbgRd sd sa) { scalars := [sd, sa] } privileged
    (fun s t _ => do
      let a := getS t sa
      need (fld a 0 3 == 0) (.fault 0x14 0 (some a))
      match (debugCore s a).bind fun c => debugRead s (fld a 60 4) c (fld a 50 2) (fld a 46 4) (fld a 0 46) with
      | some v => .ok (modTeam s t.uid fun u => setS u sd v)
      | none => .error (.s 0x15 10)) s

/-- DBG.WR (R415). -/
def execDbgWr (sa sb : SReg) (s : State) : Out :=
  issue (.dbgWr sa sb) { scalars := [sa, sb], closed := nowActs s } privileged
    (fun s t f => do
      if !t.acts f then .ok s
      else do
        let a := getS t sa
        need (fld a 0 3 == 0) (.fault 0x14 0 (some a))
        match (debugCore s a).bind fun c => debugWrite s t.uid (fld a 60 4) c (fld a 50 2) (fld a 46 4) (fld a 0 46) (getS t sb) with
        | some s => .ok s
        | none => .error (.s 0x15 10)) s

/-- A section of a dump: its header and its body, padded to 64 bytes (R416, R419). -/
def dumpSection (type slot : Nat) (body : List Byte) : List Byte :=
  padTo ((16 + body.length + 63) / 64 * 64) (leBytes 4 type ++ leBytes 4 (16 + body.length) ++ leBytes 8 slot ++ body)

/-- The freeze record of a bench slot as its 264 bytes (R414). -/
def freezeBytes (b : Bench) (slot : Nat) : List Byte := (List.range 33).flatMap fun i => leBytes 8 (freezeWord b slot (8 * i)).toNat

/-- The debug bytes of a space from offset 0 on, n of them, 8 at a time (R413). -/
def spaceBytes (s : State) (space c b n : Nat) : List Byte :=
  (List.range (n / 8)).flatMap fun i => leBytes 8 ((debugRead s space c b 0 (8 * i)).getD 0).toNat

/-- The dump of a frozen bench in the format of R416: the header, a section for each frozen team, the scratchpad with its bitmap, the
barrier state, and the accumulators where the partition has any (R419). -/
def dumpBytes (s : State) (c b : Nat) : List Byte :=
  let k := getCore s c
  let x := getBench s c b
  let teams := (List.range 16).filterMap fun i => (frozenTeam s c b i).map fun t => (i, t)
  let cause := frozenTeam s c b (fld x.bfreeze 52 4)
  let tag : Tag := ((teams.head?).map (·.2.tag)).getD 0
  let pc := (cause.bind fun t => (s.hub.records.find? fun r =>
    r.team == t.number && r.tag == t.tag && r.core == c && r.bench == b && r.time.toNat % 2 ^ 48 == fld x.bfreeze 0 48).map (·.pc)).getD 0
  let image := fun (t : Team) => tsaImage t
  let sections := teams.map (fun p => dumpSection 1 p.1 (image p.2 ++ freezeBytes x p.1)) ++
    [dumpSection 2 0 (spaceBytes s 3 c b (partScr k.cpart * 65536) ++ spaceBytes s 4 c b (partScr k.cpart * 512)),
     dumpSection 3 0 (channelBytes s (quadOf c) ++ teams.flatMap fun p => padTo 16 (((image p.2).drop 0x190).take 10))] ++
    (if partAcc k.cpart = 0 then [] else [dumpSection 4 0 (spaceBytes s 5 c b (partAcc k.cpart * 65536))])
  padTo 128 (leBytes 4 0x504D5544 ++ leBytes 2 0x0300 ++ leBytes 2 sections.length ++
    leBytes 4 (dieOf c * 2 ^ 24 + logCore s c * 2 ^ 16 + b * 2 ^ 8) ++ leBytes 2 tag.toNat ++ leBytes 2 0 ++ leBytes 8 x.bfreeze.toNat ++
    leBytes 8 ((cause.map (·.trapcode.toNat)).getD 0) ++ leBytes 8 pc.toNat ++ leBytes 8 x.bsec.toNat ++ leBytes 2 teams.length) ++
  sections.flatten

end Sys2Proof.Machine
end

