-- ==== Sys2Proof/Machine/DieEvents.lean ====
section
/-! DEFINITION. What a die and its cores do of themselves, and their registers: thermal states, scrubbers, frames zeroed, XINV,
DQMAP, CSTATE, error injection (R209 to R211, R286, R301, R310 to R315, R354, R422, R423). -/

namespace Sys2Proof.Machine

/-- The state a die is in after a sample: the temperature in quarter degrees, and whether 2 ms have passed in its state (R286). -/
def Therm.next (th : Therm) (q : Int) (dwell : Bool) : Therm :=
  match th with
  | .normal => if 420 ≤ q then .tripped else if 380 ≤ q ∧ dwell then .throttled else .normal
  | .throttled => if 420 ≤ q then .tripped else if q ≤ 368 ∧ dwell then .normal else .throttled
  | .tripped => if q ≤ 368 ∧ dwell then .throttled else .tripped

/-- The slots of the contexts with a team on a die. -/
def slotsOnDie (s : State) (die : Nat) : List Nat :=
  (s.teams.filter fun t => dieOf t.core == die).foldl (fun l t => match slotOfTag s t.tag with
    | some n => if l.contains n then l else l ++ [n]
    | none => l) []

/-- THERMAL_SAMPLE (R285, R286): entering TRIPPED pre-empts the running contexts with teams on the die (R350). -/
def execThermalSample (die : Nat) (quarterDegrees : Int) (s : State) : Out :=
  let d := getDie s die
  let th := d.therm.next quarterDegrees (decide (2000000 ≤ s.gtime.toNat - d.thermSince.toNat))
  .next (if 4 ≤ die ∨ th = d.therm then s
    else
      let s := setDie s die { d with therm := th, thermSince := s.gtime }
      let s := (List.range 14).foldl (fun s q => setPattern s (die * 14 + q)) s
      if th = .tripped then ((slotsOnDie s die).filter fun n => (getSlot s n).st == 2).foldl preempt s else s)

/-- A 32-bit counter that saturates. -/
def satInc (w : Word) : Word := if w = 0xFFFFFFFF then w else w + 1

/-- CELOG after an uncorrectable error (R210). -/
def coreLog (old : DWord) (tag : Tag) (struct index bench : Nat) : DWord :=
  if old.getLsbD 0 then old ||| 2
  else (tag.setWidth 64 <<< 52) ||| BitVec.ofNat 64 (struct * 2 ^ 48 + bench % 4 * 2 ^ 46 + index % 65536 * 2 ^ 30 + 1)

/-- An entry that failed and can hold no poison: its tag's context is terminated; tag 0 calls for a warm reset, the contexts on the unit
implicated (R351, R353). -/
def endTag (s : State) (tag : Tag) (source : Nat) (log : DWord) (implicated : List Tag) (whereWord : Nat) : State :=
  if tag = 0 then startReset s source log implicated
  else match slotOfTag s tag with
    | some n =>
      terminate s n { cause := 0x21, info := 0, source, log, pc := 0, team := 0xFFFFFFFF, whereWord, launchImage := 0 }
    | none => s

/-- A place of a core: die, core within the die and bench, as a termination record gives it (R352). -/
def placeWord (s : State) (core bench : Nat) : Nat := dieOf core * 2 ^ 24 + logCore s core * 2 ^ 16 + bench * 2 ^ 8

/-- An entry with poison. -/
def Entry.poisoned (e : Entry) (p : Poison) : Entry := { e with poison := some p }

/-- An uncorrectable error in a row of the register part (R84, R211): the locals or drawer entries of 32 lanes that stand there, or a
spilled split entry, whose context is terminated. Where a team's area lies is not stated: a free value names the team and the row within
its area. -/
def poisonRegs (s : State) (core : Nat) (p : Poison) : State :=
  let here := s.teams.filter fun t => t.core == core
  let (v, s) := takeFree s
  match here[v.toNat % max 1 here.length]? with
  | none => s
  | some t =>
    let w := t.words
    let rows := (t.localsDecl + t.stackDecl) * w
    let j := v.toNat / max 1 here.length % max 1 rows
    let k := j / max 1 w
    let inWord := fun (i : Nat) => i / 32 == j % max 1 w
    let inDrawer := fun (i p : Nat) => match t.frags.find? fun f => f.member.getLsbD i && f.st != .hold with
      | some f => decide (p + f.shelf ≤ f.depth)
      | none => true
    let spilled := (t.frags.filter (·.spilled)).length
    if (v.toNat / max 1 here.length) % max 1 (rows + spilled) < spilled then
      endTag s t.tag 0 p.log (tagsOn s fun c => c == core) (placeWord s core t.bench)
    else modTeam s t.uid fun t => t.mapLanes fun i l =>
      if !inWord i then l
      else if k < t.localsDecl then { l with locals := mapIdxFrom (fun n e => if n = k then e.poisoned p else e) 0 l.locals }
      else
        let q := k - t.localsDecl + 1
        if inDrawer i q then
          { l with stack := mapIdxFrom (fun n e => if l.stack.length - n = q then e.poisoned p else e) 0 l.stack }
        else l

/-- SRAM_SCRUB (R197, R210, R211): pool row bank × 1024 + row, its structure by the core's partition. -/
def execSramScrub (core row : Nat) (err : ErrKind) (s : State) : Out :=
  let c := getCore s core
  .next (match err with
    | .clean => s
    | .corrected => setCore s core { c with cecnt := satInc c.cecnt }
    | .uncorrectable =>
      let off := row % 1024 * 4096 + row / 1024 * 128
      let u := off / 65536
      let tag : Tag := c.cowner.setWidth 12
      let made := fun (struct : Nat) => coreLog c.celog tag struct row 0
      let mark := fun (struct : Nat) => ({ tag, source := 0, log := loggedAs c.celog (made struct) } : Poison)
      if u < partReg c.cpart then poisonRegs (setCore s core { c with celog := made 1 }) core (mark 1)
      else if u < partReg c.cpart + partScr c.cpart then
        let r := (off - partReg c.cpart * 65536) / 128
        setCore s core { c with
          celog := made 2, poisonRows := (r, mark 2) :: c.poisonRows.filter fun x => x.1 != r }
      else if u < partReg c.cpart + partScr c.cpart + partAcc c.cpart then
        let n := (off - (partReg c.cpart + partScr c.cpart) * 65536) / 16384
        setCore s core { c with celog := made 3, tilePoison := tabSet c.tilePoison n (mark 3) }
      else s)

/-- PATROL_SCRUB (R310, R311): a line of HBM read by the scrubber. The mode of a frame that the slice holds no line of is a
free value. -/
def execPatrolScrub (line : Nat) (err : ErrKind) (s : State) : Out :=
  let dn := dieOfPa (line * 64)
  let d := getDie s dn
  .next (if Config.hbmEnd ≤ line * 64 then s
    else match err with
      | .clean => s
      | .corrected => setDie s dn { d with decnt := satInc d.decnt }
      | .uncorrectable =>
        let frame := line * 64 / Config.frameBytes
        let tag := ((d.owners.find? fun x => x.1 == frame).map (·.2)).getD 0
        let known := (d.slice.find? fun x => x.line * 64 / Config.frameBytes == frame).map (·.prot)
        let (v, s) := match known with
          | some p => ((BitVec.ofNat 64 p : BitVec 64), s)
          | none => takeFree s
        let prot := v.toNat % 3
        let d := getDie s dn
        let delog := logError d.delog tag (2 + prot) line
        markHbm (setDie s dn { d with delog }) line prot { tag, source := 1, log := loggedAs d.delog delog })

/-- A team's fragments that wait for a frame are READY. -/
def wakeZeroed (s : State) (frame : Nat) : State :=
  let wake := fun (f : Frag) => if f.wait == some (.zeroing frame) then f.wake else f
  { s with teams := s.teams.map fun t => { t with frags := t.frags.map wake } }

/-- FRAME_ZERO_DONE (R354). -/
def execFrameZeroDone (die frame : Nat) (s : State) : Out :=
  let d := getDie s die
  .next (match d.zeroing.find? fun x => x.1 == frame with
    | none => s
    | some (_, tag) =>
      wakeZeroed (zeroFrame (setDie s die { d with zeroing := d.zeroing.filter fun x => x.1 != frame }) frame tag) frame)

/-- Whether an invalidation names a TLB entry (R301, R315). -/
def xinvHits (v : DWord) (e : TlbEntry) : Bool :=
  e.t == v.setWidth 12 && (v.getLsbD 62 || e.page == (if e.big then fld v 30 26 else fld v 21 35))

/-- XINV written (R301, R315). -/
def writeXinv (s : State) (die : Nat) (v : DWord) : State :=
  let d := getDie s die
  if !d.xinv.getLsbD 63 then s
  else
    let v := v &&& 0x40FFFFFFFFE00FFF
    let gone := ((s.cores.flatMap fun p => p.2.utlb) ++ (s.quads.flatMap fun p => p.2.tlb) ++
      (s.dies.flatMap fun p => p.2.etlb.flatMap (·.2))).filter (xinvHits v)
    let s := setDie s die { d with xinv := v, removed := (gone.map fun e => (e.pa, if e.big then 2 ^ 30 else 2 ^ 21)).eraseDups }
    dropTlb s (xinvHits v)

/-- XINV_WRITE. -/
def execXinvWrite (die : Nat) (value : BitVec 64) (s : State) : Out := .next (if die < 4 then writeXinv s die value else s)

/-- The dirty lines of a core's cache within address ranges written back. -/
def writeBackIn (l : List (Nat × Nat)) (s : State) (core : Nat) : State :=
  ((getCore s core).cache.filter fun x => l.any fun r => decide (r.1 ≤ x.line * 64) && decide (x.line * 64 < r.1 + r.2)).foldl
    (fun s x => writeBackLine s core x.line) s

/-- XINV_DONE (R301): what was stored by way of a removed entry has reached its home slice. -/
def execXinvDone (die : Nat) (s : State) : Out :=
  .next (if 4 ≤ die ∨ (getDie s die).xinv.getLsbD 63 then s
    else
      let s := (s.cores.map (·.1)).foldl (writeBackIn (getDie s die).removed) s
      let d := getDie s die
      setDie s die { d with xinv := d.xinv ||| 0x8000000000000000, removed := [] })

/-- DQMAP written (R314): only where the cores of every quad whose field changes are retired. -/
def writeDqmap (s : State) (die : Nat) (v : DWord) : State :=
  let d := getDie s die
  let v := v &&& 0x00FFFFFFFFFFFFFF
  let changed := (List.range 14).filter fun p => fld v (4 * p) 4 != fld d.dqmap (4 * p) 4
  let retired := fun (p : Nat) => (List.range 4).all fun i => fld (getCore s (die * 56 + 4 * p + i)).cstate 0 2 == 2
  if changed.all retired then
    setDie s die { d with dqmap := v }
  else s

/-- DQMAP_WRITE. -/
def execDqmapWrite (die : Nat) (value : BitVec 64) (s : State) : Out := .next (if die < 4 then writeDqmap s die value else s)

/-- CSTATE written (R209): 1 drains, and a core without a team is retired at once; 0 returns a retired core to service. -/
def writeCstate (s : State) (core : Nat) (v : Word) : State :=
  let c := getCore s core
  if fld v 0 2 = 1 then coreEmptied (setCore s core { c with cstate := 1 }) core
  else if fld v 0 2 = 0 ∧ fld c.cstate 0 2 = 2 then setCore s core { c with cstate := 0 }
  else s

/-- CSTATE_WRITE. -/
def execCstateWrite (core : Nat) (value : BitVec 32) (s : State) : Out := .next (if core < 224 then writeCstate s core value else s)

/-- DEINJ written (R422). -/
def writeDeinj (s : State) (die : Nat) (v : DWord) : State :=
  let line := fld v 6 38
  if dieOfPa (line * 64) = die ∧ line * 64 < Config.hbmEnd then
    setDie s die { getDie s die with deinj := v &&& 0x80000FFFFFFFFFC0 }
  else s

/-- DEINJ_WRITE. -/
def execDeinjWrite (die : Nat) (value : BitVec 64) (s : State) : Out := .next (if die < 4 then writeDeinj s die value else s)

end Sys2Proof.Machine
end

