-- ==== Sys2Proof/Machine/Events.lean ====
section
/-! DEFINITION. Events of a team: an illegal pattern, regions published, results written, shelf transfers, waits that end, timers
(R49, R57, R90, R176, R184, R230, R241, R445). -/

namespace Sys2Proof.Machine

/-- A fetched pattern that is no instruction (R57): entry to the handler waits for the open region's stores that await replay (R445). -/
def execIllop (form cause : Nat) (first arg : BitVec 16) (f32 : BitVec 32) (parcels : Nat) (s : State) : Out :=
  match s.cur.bind (teamOf s) with
  | none => .fault .noTeam
  | some t =>
    match runFrag t with
    | none => .fault .noFragment
    | some f =>
      .next (if t.trapWaits then modTeam s t.uid fun t => modFrag t f.num fun x => { x with st := .parked, wait := some .regionReplays }
        else takeIllop s t.uid form cause first arg f32 parcels)

/-- A region closes for the fragment that the team has chosen (R176, R445), which runs next. -/
def closeFor (s : State) (uid n : Nat) : State :=
  let pc := (((teamOf s uid).bind (fragOf · n)).map (·.pc)).getD 0
  let act := (((teamOf s uid).bind (fragOf · n)).map (·.active)).getD 0
  let s := modTeam s uid fun t => { t with frags := t.frags.map fun f =>
    if f.num = n then (if f.st = .ready then { f with st := .run, spilled := false } else f)
    else if f.st = .run then { f with st := .ready } else f }
  let (s, found) := closeRegion s uid pc
  foundFaults s uid pc act found

/-- REGION_PUBLISH (R445): with no store of the region left to replay, what waits to close it goes on: its fragment's instruction, or the
fragment that the team has chosen. -/
def execRegionPublish (team : Nat) (s : State) : Out :=
  .next (match teamOf s team with
    | none => s
    | some t =>
      if !pulseAt s t.core then s
      else
      let done := match t.region with
        | some r => r.pendingStores == 0
        | none => true
      let s := if done then modTeam s team fun t =>
          { t with frags := t.frags.map fun f => if f.wait = some .regionReplays then f.wake else f } else s
      match t.region with
      | some r => match r.closing with
        | some n => if r.pendingStores = 0 then closeFor s team n else s
        | none => s
      | none => s)

/-- Fragments that wait for a scoreboard entry, READY once it is free. -/
def wakePending (t : Team) (sb : Nat) : Team :=
  { t with frags := t.frags.map fun f => if f.wait = some (.pending sb) then f.wake else f }

/-- RESULT_WRITE (R49): a result that waits for no replay or engine is written, its entry freed. -/
def execResultWrite (team sb : Nat) (s : State) : Out :=
  .next (modTeam s team fun t =>
    if pulseAt s t.core && t.sb.any fun e => e.id == sb && !e.waiting then wakePending { t with sb := t.sb.filter fun e => e.id != sb } sb else t)

/-- DRAWER_TRANSFER (R90): a fill of a fragment whose shelf has fallen below 2. -/
def execDrawerTransfer (team frag : Nat) (s : State) : Out :=
  .next (modTeam s team fun t =>
    if pulseAt s t.core then modFrag t frag fun f => { f with shelf := shelfAfter f.depth f.shelf 0 0 } else t)

/-- The fragment of a team changed, where its wait is over and the quad's pulse passes (R3). -/
def endWait (s : State) (team frag : Nat) (over' : Wait → Bool) : State :=
  modTeam s team fun t => if pulseAt s t.core then modFrag t frag fun f => match f.wait with
    | some w => if over' w then f.wake else f
    | none => f
  else t

/-- WAITV_WAKE (R230): another agent has written the line. -/
def execWaitvWake (team frag : Nat) (s : State) : Out :=
  let written := fun (w : Wait) => match w with
    | .watch _ _ b => b
    | _ => false
  .next (endWait s team frag written)

/-- WAITV_TIMEOUT (R230): 4096 pulses have passed (R3). -/
def execWaitvTimeout (team frag : Nat) (s : State) : Out :=
  let late := fun (w : Wait) => match w with
    | .watch _ n _ => n == 0
    | _ => false
  .next (endWait s team frag late)

/-- TLWAIT_WAKE (R241): the counter has reached the value; the wait ends with FENCE.acq at pkg scope. -/
def execTlwaitWake (team frag : Nat) (s : State) : Out :=
  .next (match teamOf s team with
    | none => s
    | some t =>
      match (fragOf t frag).bind (·.wait) with
      | some (.timeline id v) =>
        if v.toNat ≤ (counter s id).toNat ∧ pulseAt s t.core then
          let s := fenceAcq s t.core .pkg
          modTeam s team fun t => modFrag t frag Frag.wake
        else s
      | _ => s)

/-- The timer that fires before a fragment's next instruction (R184): ARG and INFO of its trap. TIMER.V comes first; TIMER.G then waits
for the TRET of its handler. -/
def dueTimer (s : State) (t : Team) (f : Frag) : Option (Nat × Nat) :=
  if f.active = 0 then none
  else if t.timerV.armed && decide (t.timerV.deadline.toNat ≤ t.tcyc.toNat) then some (0, 0)
  else if t.timerG.armed && decide (t.timerG.deadline.toNat ≤ s.gtime.toNat) && (t.gHeld == 0 || decide (t.trapLoops.length < t.gHeld)) then
    some (1, min 65535 ((s.gtime.toNat - t.timerG.deadline.toNat) / 1000))
  else none

/-- A due timer fires at the issue of a team's running fragment: it disarms and traps (R183, R184). -/
def fireTimer (s : State) (uid : Nat) : State :=
  match teamOf s uid with
  | none => s
  | some t =>
    match runFrag t with
    | none => s
    | some f =>
      match dueTimer s t f with
      | none => s
      | some (arg, info) =>
        if t.trapWaits then modTeam s uid fun t => modFrag t f.num fun x => { x with st := .parked, wait := some .regionReplays }
        else
          let bothDue := arg == 0 && t.timerG.armed && decide (t.timerG.deadline.toNat ≤ s.gtime.toNat)
          let t := if arg = 0 then
              { t with timerV := { t.timerV with armed := false }, gHeld := if bothDue then t.trapLoops.length + 1 else t.gHeld }
            else { t with timerG := { t.timerG with armed := false }, gHeld := 0 }
          takeTrap (setTeam s t) uid 5 arg info f.pc f.pc f.pc

/-- TIMER_FIRE: at an issue of the team (R184). -/
def execTimerFire (team : Nat) (s : State) : Out := .next (if (teamOf s team).any (mayIssue s) then fireTimer s team else s)

end Sys2Proof.Machine
end

