-- ==== Sys2Proof/Machine/Fabric.lean ====
section
/-! DEFINITION. The fabric and the host: links, peers' accesses, the pod barrier, BAR 2 and RDMA completions (R431 to R443). -/

namespace Sys2Proof.Machine

/-- PBCFG written (R439, R441): ignored while EN is 1 unless it clears EN, and where an id is no timeline of TAG's. Setting EN records
the bases. -/
def writePbcfg (s : State) (c : Nat) (v : DWord) : State :=
  let p := tabGet PodChan.reset s.fabric.pod c
  let v := v &&& 0x8FFF1FFF1FFF00FF
  let tag : Tag := BitVec.ofNat 12 (fld v 48 12)
  let mine := fun (id : Nat) => decide (4096 ≤ id) && counterOwner s id == some tag
  let arrive := fld v 16 13
  let release := fld v 32 13
  if (p.cfg.getLsbD 63 && v.getLsbD 63) || !mine arrive || !mine release then s
  else
    let p : PodChan := if v.getLsbD 63 then { cfg := v, a0 := counter s arrive, b0 := counter s release, gen := 0 } else { p with cfg := v }
    { s with fabric := { s.fabric with pod := tabSet s.fabric.pod c p } }

/-- PBCFG_WRITE. -/
def execPbcfgWrite (chan : Nat) (value : BitVec 64) (s : State) : Out := .next (if chan < 16 then writePbcfg s chan value else s)

/-- POD_BARRIER_RELEASE (R439): a generation completes once this package's own ARRIVE has reached it; that the other members' have is
what the event says. -/
def execPodBarrierRelease (chan : Nat) (s : State) : Out :=
  let p := tabGet PodChan.reset s.fabric.pod chan
  .next (if 16 ≤ chan ∨ !p.cfg.getLsbD 63 then s
    else if (counter s (fld p.cfg 16 13)).toNat < p.a0.toNat + p.gen + 1 then s
    else
      let s := raiseTimeline s (fld p.cfg 32 13) (p.b0 + BitVec.ofNat 64 (p.gen + 1))
      { s with fabric := { s.fabric with pod := tabSet s.fabric.pod chan { p with gen := p.gen + 1 } } })

/-- Whether a peer's request must stay behind an earlier one of its context to the same page (R435). -/
def heldBehind (d : Die) (g : Tag) (page pkg : Nat) (stag : Tag) : Bool :=
  d.fb.any fun e => e.tag == g && e.page == page && e.waiters.any fun w => match w.kind with
    | .remote p t _ _ => p == pkg && t == stag
    | _ => false

/-- A peer's request admitted, translated for TTAG and performed, or held in the fault buffer (R434, R435); false where its frame is being
zeroed or the buffer has no room: it waits to be presented again (R302, R354). -/
def servePeer (s : State) (r : PeerReq) : State × Bool :=
  let v := r.va.toNat % 2 ^ 47
  match podAdmit s r.pkg r.stag with
  | none => (s, true)
  | some g =>
    let die := homeDie s g
    let page := v / 2 ^ 21
    let bits := match r.op with
      | .read _ => 1
      | .write _ => 2
      | .atomic .. => 8
    let w : Waiter := { team := 0, frag := 0, launch := 0, pc := 0, access := bits, kind := .remote r.pkg r.stag r.va r.op }
    let hold := fun (level : Nat) => match addWaiter s die g page level w with
      | some s => (s, true)
      | none => (s, false)
    if heldBehind (getDie s die) g page r.pkg r.stag then hold 1
    else match translateWalk s g (BitVec.ofNat 64 v) (extKind r.op) with
      | .ok _ _ => (extPerform s g v r.op, true)
      | .xlate level => hold level
      | .zero f o => (startZero s f o, false)
      | _ => (s, true)

/-- A peer's request presented, behind those of its context that wait to be presented again. -/
def presentPeer (s : State) (r : PeerReq) : State :=
  let wait := fun (s : State) => ({ s with fabric := { s.fabric with peers := s.fabric.peers ++ [r] } } : State)
  if s.fabric.peers.any fun x => x.pkg == r.pkg && x.stag == r.stag then wait s
  else match servePeer s r with
    | (s, true) => s
    | (s, false) => wait s

/-- The peers' requests that wait presented again, in order. -/
def presentPeers (s : State) : State :=
  s.fabric.peers.foldl presentPeer { s with fabric := { s.fabric with peers := [] } }

/-- POD_ACCESS (R434, R435). -/
def execPodAccess (pkg : Nat) (stag : BitVec 12) (va : BitVec 64) (op : ExtOp) (s : State) : Out :=
  .next (presentPeer s { pkg, stag, va, op })

/-- A link's register, and the state with it replaced (R441). -/
def setLink (s : State) (l : Nat) (v : DWord) : State :=
  if l < 18 then { s with fabric := { s.fabric with tlink := tabSet s.fabric.tlink l v } } else s

/-- LANE_SWAP (R433). -/
def execLaneSwap (link : Nat) (s : State) : Out :=
  .next (setLink s link (tabGet 0 s.fabric.tlink link ||| 0x4000000000000000))

/-- LINK_LEVEL_RETRY: RETRIES counts flits resent, saturating (R441). -/
def execLinkLevelRetry (link : Nat) (s : State) : Out :=
  let v : DWord := tabGet 0 s.fabric.tlink link
  .next (if fld v 32 16 = 0xFFFF then s else setLink s link (v + 0x100000000))

/-- LINK_TRAINED: UP and PEER (R441). -/
def execLinkTrained (link : Nat) (up : Bool) (peer : Nat) (s : State) : Out :=
  let v : DWord := tabGet 0 s.fabric.tlink link
  .next (setLink s link ((v &&& 0x4000FFFF00000000) ||| BitVec.ofNat 64 ((if up then 2 ^ 63 else 0) + peer % 256 * 2 ^ 48)))

/-- The context through which a function's BAR 2 aperture translates, where it is open (R441, R442). -/
def bar2Tag (s : State) (fn : Nat) : Option Tag :=
  let w : Word := tabGet 0 s.fabric.hbar2 fn
  if fn < 64 ∧ w.getLsbD 31 then some (w.setWidth 12) else none

/-- The bytes that an access of a host or a peer spans. -/
def extLen : ExtOp → Nat
  | .read n => n
  | .write b => b.length
  | .atomic o _ _ => atomBytes o

/-- HOST_ACCESS (R442): within the aperture of 1 TiB; what does not translate is dropped. -/
def execHostAccess (fn offset : Nat) (op : ExtOp) (s : State) : Out :=
  .next (match bar2Tag s fn with
    | some g => if offset + extLen op ≤ 2 ^ 40 then extPerform s g offset op else s
    | none => s)

/-- RDMA_COMPLETION (R443): a timeline owned by the memory's tag advances as by TLSIG. -/
def execRdmaCompletion (fn timeline : Nat) (value : BitVec 64) (s : State) : Out :=
  .next (match bar2Tag s fn with
    | some g => if 4096 ≤ timeline ∧ timeline < 8192 ∧ counterOwner s timeline = some g then raiseTimeline s timeline value else s
    | none => s)

end Sys2Proof.Machine
end

