-- ==== Sys2Proof/Machine/Pod.lean ====
section
/-! DEFINITION. Requests to other packages: what they answer, and the time-out (R401, R402, R432, R435, R437). -/

namespace Sys2Proof.Machine

/-- Requests of one team, or of one copy context, to one page of one package: they are performed there in order (R432, R435). -/
def PodMsg.before (a b : PodMsg) : Bool :=
  a.pkg == b.pkg && a.va.toNat / 2 ^ 21 == b.va.toNat / 2 ^ 21 && a.ctx == b.ctx && (a.ctx.isSome || a.team == b.team)

/-- A request no longer in flight. -/
def dropMsg (s : State) (n : Nat) : State := { s with fabric := { s.fabric with msgs := s.fabric.msgs.eraseIdx n } }

/-- A request of a team that ends in a fault (R435): a helper lane's load returns zeros; any other raises a class S fault, and a result
that never comes is a free value. -/
def podFault (s : State) (m : PodMsg) (code info : Nat) : State :=
  match teamOf s m.team with
  | none => s
  | some t =>
    match m.req with
    | .acc a _ =>
      if t.isHelper a.lane && m.lanes == laneBit a.lane then
        match a with
        | .load lane _ n _ sb => settleSb (deliverLane s m.team sb lane (List.replicate ((n + 3) / 4) Entry.zero)) m.team
        | _ => settleSb (dropAcc s m.team a) m.team
      else classS (settleSb (dropAcc s m.team a) m.team) m.team code 0 info m.pc m.lanes (some m.va)
    | _ => classS s m.team code 0 info m.pc m.lanes (some m.va)

/-- What another package has read for a lane reaches it, under the bytes that the region's buffer held (R177, R437): poison arrives with the context's own tag; a scalar load, or an atomic,
that meets it consumes it. -/
def podData (s : State) (m : PodMsg) (a : Acc) (held : List (Option Byte)) (b : List Byte) (poisoned : Bool) : State :=
  match teamOf s m.team with
  | none => s
  | some t =>
    let poisoned := poisoned && !(held != [] && held.all (·.isSome))
    let b := mapIdxFrom (fun i x => (((held[i]?).bind id).getD x : Byte)) 0 b
    let p := if poisoned then some (fabricPoison t.tag) else none
    let kill := fun (s : State) => poisonKill s t 0x21 m.pc [fabricPoison t.tag] (some m.va)
    let put := fun (sb lane : Nat) (l : List Entry) => settleSb (deliverLane s m.team sb lane l) m.team
    match a with
    | .load lane _ _ signed sb => put sb lane (loadEntries signed b p)
    | .sld sd _ =>
      if poisoned then kill s
      else modTeam s m.team fun u =>
        { setS u (BitVec.ofNat 5 sd) (BitVec.ofNat 64 (leNat b)) with scalarPend := u.scalarPend.erase sd }
    | .atom lane _ op _ _ _ sb => if poisoned then kill s else put sb lane (atomEntries op (BitVec.ofNat 64 (leNat b)))
    | _ => s

/-- A copy context's oldest command, with what another package has answered or refused. -/
def podCopy (s : State) (ctx : Nat) (g : State → CopyCtx → CopyCmd → List CopyCmd → State) : State :=
  let x := getCtx s (ctx / 768) (ctx % 768)
  match x.queue with
  | c :: r => g s x c r
  | [] => s

/-- A copy command that another package has refused stands still, with its fault posted (R238, R435). -/
def podCopyFault (s : State) (m : PodMsg) (ctx code info : Nat) : State :=
  podCopy s ctx fun s x c _ =>
    postCopyFault (setCtx s (ctx / 768) (ctx % 768) { x with stalled := true }) c (ctx % 768) code info m.va

/-- Another package answers the request that stands n-th (R402, R435, R437): one of those it must perform earlier keeps it back, and an
answer that does not fit the request is none. -/
def podAnswer (s : State) (n : Nat) (a : PodAns) : State :=
  match s.fabric.msgs[n]? with
  | none => s
  | some m =>
    if (s.fabric.msgs.take n).any fun x => x.before m then s
    else
      let s' := dropMsg s n
      match m.req, a with
      | .store, .done _ => s'
      | .acc x held, .data b poisoned => if b.length = x.bytes then podData s' m x held b poisoned else s
      | .copyRead ctx k, .data b poisoned =>
        if b = [] ∨ k < b.length then s
        else podCopy s' ctx fun s x c r =>
          setCtx s (ctx / 768) (ctx % 768) { x with stalled := false, queue := { c with arrived := b, tainted := poisoned } :: r }
      | .copyWrite _, .done _ => s'
      | .packet, .done refused =>
        modTeam s' m.team fun t =>
          { t with
            cc := ccF t.cc refused
            frags := t.frags.map fun f => if f.num = m.frag ∧ f.wait = some .packet then f.wake else f }
      | .copyRead ctx _, .perm i | .copyWrite ctx, .perm i => podCopyFault s' m ctx 0x11 i
      | .copyRead ctx _, .tail | .copyWrite ctx, .tail => podCopyFault s' m ctx 0x12 0
      | .store, .perm i | .acc _ _, .perm i => podFault s' m 0x11 i
      | .store, .tail | .acc _ _, .tail => podFault s' m 0x12 0
      | _, _ => s

/-- Whether a request has gone 10 ms without an answer (R432). -/
def PodMsg.late (m : PodMsg) (now : DWord) : Bool := decide (10000000 ≤ now.toNat - m.time.toNat)

/-- The context for which a request is made. -/
def msgTag (s : State) (m : PodMsg) : Option Tag := match m.ctx with
  | some c => ((getCtx s (c / 768) (c % 768)).queue.head?).map (·.tag)
  | none => (teamOf s m.team).map (·.tag)

/-- A request not acknowledged within 10 ms raises PERM, INFO 8, for its context, whose termination record will carry SOURCE 3 (R432). -/
def podTimeout (s : State) (n : Nat) : State :=
  match s.fabric.msgs[n]? with
  | none => s
  | some m =>
    let s := match (msgTag s m).bind (slotOfTag s) with
      | some k => setSlot s k { getSlot s k with fabric := true }
      | none => s
    let s := dropMsg s n
    match m.ctx with
    | some ctx => podCopyFault s m ctx 0x11 8
    | none =>
      let s := podFault s m 0x11 8
      if m.req = .packet then modTeam s m.team fun t =>
        { t with frags := t.frags.map fun f => if f.num = m.frag ∧ f.wait = some .packet then f.wake else f }
      else s

/-- The oldest late request made for a team times out. -/
def podLate (s : State) (team : Nat) : State := match s.fabric.msgs.findIdx? fun m => m.team == team && m.late s.gtime with
  | some n => podTimeout s n
  | none => s

/-- FABRIC_ACK_TIMEOUT. -/
def execFabricAckTimeout (team : Nat) (s : State) : Out := .next (podLate s team)

end Sys2Proof.Machine
end

