-- ==== Sys2Proof/Machine/Registers.lean ====
section
/-! DEFINITION. Writing the register blocks (R208, R289, R313, R340, R341, R343, R349, R370, R386, R388, R403, R422, R440). -/

namespace Sys2Proof.Machine

/-- The bytes of its dword that a write covers. -/
def RegWrite.mask (w : RegWrite) : DWord := BitVec.ofNat 64 ((2 ^ (8 * w.bytes) - 1) * 2 ^ (8 * (w.pa % 8)))

/-- The dword with the bytes written and zeros beside them. -/
def RegWrite.raw (w : RegWrite) : DWord := (w.value <<< (8 * (w.pa % 8))) &&& w.mask

/-- The dword with the bytes written over an old value. -/
def RegWrite.over (w : RegWrite) (old : DWord) : DWord := (old &&& ~~~w.mask) ||| w.raw

/-- Whether a write covers some byte of the low, or high, half of its dword. -/
def RegWrite.low (w : RegWrite) : Bool := lo32 w.mask != 0
/-- The high half. -/
def RegWrite.high (w : RegWrite) : Bool := hi32 w.mask != 0

/-- A register of core c written (R208, R403). A write that leaves BCTL's low byte alone leaves BCAST as it is (R404). -/
def writeCoreReg (s : State) (c off : Nat) (w : RegWrite) (v : DWord) : State :=
  if off = 8 then
    let s := if w.low then writeCstate s c (lo32 v) else s
    if w.high then setCore s c { getCore s c with cecnt := hi32 v } else s
  else if off = 0x10 then setCore s c { getCore s c with celog := (getCore s c).celog &&& ~~~w.raw }
  else if 0x100 ≤ off ∧ off < 0x300 then
    let o := (off - 0x100) % 0x80
    writeBenchReg s c ((off - 0x100) / 0x80) o (if o ≠ 0 then v
      else if w.mask.getLsbD 0 then w.raw else (getBench s c ((off - 0x100) / 0x80)).bctl.setWidth 64 &&& 4) w.team
  else s

/-- A register of die d written (R313, R422). -/
def writeDieReg (s : State) (d off : Nat) (w : RegWrite) (v : DWord) : State :=
  if off = 0x00 then writeDqmap s d v
  else if off = 0x08 then writeXinv s d v
  else if off = 0x10 then setDie s d { getDie s d with decnt := lo32 v }
  else if off = 0x18 then setDie s d { getDie s d with delog := (getDie s d).delog &&& ~~~w.raw }
  else if off = 0x28 then writeFbres s d (fld w.raw 62 2) (fld w.raw 0 9)
  else if off = 0x30 then writeDeinj s d v
  else if 0x8000 ≤ off ∧ off < 0x9800 then writeCctx s d ((off - 0x8000) / 8) (lo32 v)
  else s

/-- A register of a context slot written (R349). -/
def writeSlotReg (s : State) (n off : Nat) (w : RegWrite) (v : DWord) : State :=
  let x := getSlot s n
  if off = 0 then writeCxctl s n (lo32 v)
  else if off = 8 then setSlot s n { x with root := v &&& 0x00000FFFFFF80000 }
  else if off = 16 then setSlot s n { x with save := v &&& 0x00000FFFFFFFF000 }
  else if off = 24 then setSlot s n { x with csa := v &&& 0x00000FFFFFFFF000 }
  else if off = 32 then setSlot s n { x with term := v &&& 0x00000FFFFFFFFFC0 }
  else if off = 40 then writeCxcmd s n (fld w.raw 0 2)
  else s

/-- A register of the hub written (R341, R370, R388, R440). -/
def writeHubReg (s : State) (off : Nat) (w : RegWrite) (v : DWord) : State :=
  let take := fun (o : Out) => match o with
    | .next s => s
    | _ => s
  if off = 0x18 then take (execPbudgetWrite (lo32 v) s)
  else if off = 0x20 then { s with hub := { s.hub with hlog := s.hub.hlog &&& ~~~w.raw } }
  else if off = 0x30 then take (execActcfgWrite (lo32 v) s)
  else if 0x40 ≤ off ∧ off < 0x80 then (if off % 16 = 0 then writeActseg s ((off - 0x40) / 16) v else s)
  else if off = 0x80 then writeSscfg s v
  else if off = 0x88 then writeSsbase s v
  else if off = 0x90 then writeSsgran s (lo32 v)
  else if 0x1000 ≤ off ∧ off < 0x2000 then (if off % 16 = 0 then writeQcfg s ((off - 0x1000) / 16) (lo32 v) else s)
  else if 0x2000 ≤ off ∧ off < 0x2800 then
    let p := (off - 0x2000) / 32
    if off % 32 = 0 then writePoolctl s p v else if off % 32 = 8 then writePoollist s p v else s
  else if 0x4000 ≤ off ∧ off < 0x8000 then writeSlotReg s ((off - 0x4000) / 64) (off % 64) w v
  else if 0x8000 ≤ off ∧ off < 0xA000 then
    { s with hub := { s.hub with acl := tabSet s.hub.acl ((off - 0x8000) / 8) (v &&& 0x80FFFFF0000000FF) } }
  else if off = 0xA000 then { s with fabric := { s.fabric with fpod := v &&& 0x800000000000FFFF } }
  else if 0xA100 ≤ off ∧ off < 0xA200 then (if off % 16 = 0 then writePbcfg s ((off - 0xA100) / 16) v else s)
  else if 0xA400 ≤ off ∧ off < 0xA600 then
    { s with fabric := { s.fabric with hbar2 := tabSet s.fabric.hbar2 ((off - 0xA400) / 8) (lo32 v &&& 0x80000FFF) } }
  else if 0xB000 ≤ off ∧ off < 0xB800 then
    { s with fabric := { s.fabric with podacl := tabSet s.fabric.podacl ((off - 0xB000) / 8) (v &&& 0x80FFFFFFFF000000) } }
  else if 0xC000 ≤ off ∧ off < 0x10000 then
    let j := (off - 0xC000) / 4
    let t := if w.low then tabSet s.hub.tlown j (lo32 v &&& 0x80000FFF) else s.hub.tlown
    let t := if w.high then tabSet t (j + 1) (hi32 v &&& 0x80000FFF) else t
    { s with hub := { s.hub with tlown := t } }
  else s

/-- A write that reaches its block (R340). A queue's window takes whole packets only (R343). -/
def writeReg (s : State) (w : RegWrite) : State :=
  let pa := w.pa / 8 * 8
  let v := w.over (regDword s pa)
  if windowBase ≤ pa then (if pa < windowBase + 0x100000 then setLastErr s ((pa - windowBase) / 0x1000) 0x31 else s)
  else if regBase ≤ pa ∧ pa < regBase + 0xE0000 then writeCoreReg s ((pa - regBase) / 0x1000) (pa % 0x1000) w v
  else if dieBase ≤ pa ∧ pa < dieBase + 0x400000 then writeDieReg s ((pa - dieBase) / 0x100000) (pa % 0x100000) w v
  else if hubBase ≤ pa ∧ pa < hubBase + 0x10000 then writeHubReg s (pa - hubBase) w v
  else s

/-- Whether a register of 32 bits shares its dword with another: CSTATE, CECNT and TLOWN (R208, R240). -/
def narrowReg (pa : Nat) : Bool :=
  (decide (regBase ≤ pa) && decide (pa < regBase + 0xE0000) && decide (pa % 0x1000 < 0x10)) ||
    (decide (hubBase + 0xC000 ≤ pa) && decide (pa < hubBase + 0x10000))

/-- REGISTER_WRITE: one register, by an agent that is no team. -/
def execRegisterWrite (pa : Nat) (value : BitVec 64) (s : State) : Out :=
  .next (if pa % 4 = 0 then writeReg s { pa, bytes := if narrowReg pa ∨ pa % 8 = 4 then 4 else 8, value, team := none } else s)

/-- The register writes on their way, made in order. -/
def drainRegs (s : State) : State := s.regq.foldl writeReg { s with regq := [] }

end Sys2Proof.Machine
end

