-- ==== Sys2Proof/Machine/Stack.lean ====
section
/-! DEFINITION. Stack, immediate and local instructions (R66, R67, R93, R128 to R132). -/

namespace Sys2Proof.Machine

/-- An instruction that only moves entries: in each active lane the popped entries (TOS first) give those pushed (R93). -/
def moveIns (i : Instr) (p q : Nat) (g : List Entry → List Entry) (s : State) : Out :=
  issue i { pops := p, pushes := q, moves := true } noLimits
    (onTeam fun t f => t.stackOp f p q fun _ es => g es) s

/-- A push of n words, the same computation for each lane; TOS first. -/
def pushIns (i : Instr) (q : Nat) (scal : List SReg) (g : State → Team → Frag → Nat → List Word) (s : State) : Out :=
  issue i { pushes := q, scalars := scal } noLimits
    (fun s t f => .ok (modTeam s t.uid fun u => u.stackOp f 0 q fun l _ => (g s u f l).map Entry.clean)) s

/-- The check of a local's index (R67). -/
def localOk (k n : Nat) (t : Team) : Run Unit := need (decide (k + n ≤ t.localsDecl)) (.illop 4)

/-- Local k of a lane. -/
def Lane.local (l : Lane) (k : Nat) : Entry := (l.locals[k]?).getD Entry.zero

/-- PUSHL and PUSHL2 (R128, R130): n locals from k on, the last as TOS. -/
def pushLocals (i : Instr) (k n : Nat) (s : State) : Out :=
  issue i { pushes := n, moves := true, locals := (List.range n).map (k + ·) } (localOk k n)
    (onTeam fun t f => t.stackOp f 0 n fun l _ => (List.range n).map fun j => (t.lane l).local (k + n - 1 - j)) s

/-- A pending position's target moves to a local in the active lanes; a member that is not active loses it, and what
was pending for that local there is superseded (R50, R130). -/
def retarget (t : Team) (f : Frag) (pos k : Nat) : Team :=
  { t with sb := t.sb.map fun e => { e with targets := e.targets.flatMap fun x =>
      match x.2.2 with
      | .loc j => [(x.1, if j = k then x.2.1 &&& ~~~f.active else x.2.1, Target.loc j)]
      | .pos n =>
        if n = pos then [(x.1, x.2.1 &&& f.active, Target.loc k), (x.1, x.2.1 &&& ~~~f.member, Target.pos n)]
        else [x] } }

/-- POPL and POPL2 (R128, R130): the top n entries to the locals from k on, TOS to the last. -/
def popLocals (i : Instr) (k n : Nat) (s : State) : Out :=
  issue i { pops := n, moves := true, retarget := true } (localOk k n)
    (onTeam fun t f =>
      let t := foldNat (fun t j => retarget t f (f.depth - j) (k + n - 1 - j)) t n
      let t := t.mapLanes fun i l =>
        if f.active.getLsbD i then
          foldNat (fun l j => { l with locals := listSet l.locals (k + n - 1 - j) (l.at j) }) l n
        else l
      t.stackOp f n 0 fun _ _ => []) s

/-- PUSHI, 8-bit form (R128). -/
def execPushi8 (imm : BitVec 8) (s : State) : Out := pushIns (.pushi8 imm) 1 [] (fun _ _ _ _ => [imm.signExtend 32]) s
/-- PUSHI, 32-bit form (R128). -/
def execPushi32 (imm : BitVec 32) (s : State) : Out := pushIns (.pushi32 imm) 1 [] (fun _ _ _ _ => [imm]) s
/-- PUSHW (R55, R128): the sign-extended form, or the high half over zero. -/
def execPushw (hi : Bool) (imm : BitVec 32) (s : State) : Out :=
  let v : DWord := if hi then pair 0 imm else imm.signExtend 64
  pushIns (.pushw hi imm) 2 [] (fun _ _ _ _ => [hi32 v, lo32 v]) s
/-- PUSHS (R131). -/
def execPushs (sa : SReg) (s : State) : Out := pushIns (.pushs sa) 1 [sa] (fun _ t _ _ => [lo32 (getS t sa)]) s
/-- PUSHS2 (R131). -/
def execPushs2 (sa : SReg) (s : State) : Out :=
  pushIns (.pushs2 sa) 2 [sa] (fun _ t _ _ => [hi32 (getS t sa), lo32 (getS t sa)]) s
/-- PUSHX (R56, R131). -/
def execPushx (hi : Bool) (x : SpecReg) (s : State) : Out :=
  pushIns (.pushx hi x) 1 []
    (fun s t f l => let v := specValue s t f x l; [if hi then hi32 v else lo32 v]) s
/-- PUSHL (R128). -/
def execPushl (k : BitVec 8) (s : State) : Out := pushLocals (.pushl k) k.toNat 1 s
/-- PUSHL2 (R128). -/
def execPushl2 (k : BitVec 8) (s : State) : Out := pushLocals (.pushl2 k) k.toNat 2 s
/-- POPL (R130). -/
def execPopl (k : BitVec 8) (s : State) : Out := popLocals (.popl k) k.toNat 1 s
/-- POPL2 (R130). -/
def execPopl2 (k : BitVec 8) (s : State) : Out := popLocals (.popl2 k) k.toNat 2 s
/-- DUP (R128). -/
def execDup (s : State) : Out := moveIns .dup 1 2 (fun es => es ++ es) s
/-- DUP2 (R128). -/
def execDup2 (s : State) : Out := moveIns .dup2 2 4 (fun es => es ++ es) s
/-- DROP (R128). -/
def execDrop (s : State) : Out := moveIns .drop 1 0 (fun _ => []) s
/-- DROP2 (R128). -/
def execDrop2 (s : State) : Out := moveIns .drop2 2 0 (fun _ => []) s
/-- SWAP (R128). -/
def execSwap (s : State) : Out := moveIns .swap 2 2 (fun es => es.drop 1 ++ es.take 1) s
/-- SWAP2 (R128). -/
def execSwap2 (s : State) : Out := moveIns .swap2 4 4 (fun es => es.drop 2 ++ es.take 2) s
/-- OVER (R128). -/
def execOver (s : State) : Out := moveIns .overTop 2 3 (fun es => es.drop 1 ++ es) s
/-- ROT (R128). -/
def execRot (s : State) : Out := moveIns .rot 3 3 (fun es => es.drop 2 ++ es.take 2) s
/-- PICK (R128, R132). -/
def execPick (k : BitVec 8) (s : State) : Out :=
  moveIns (.pick k) (k.toNat + 1) (k.toNat + 2) (fun es => es.drop k.toNat ++ es) s
/-- ROLL (R128, R132). -/
def execRoll (k : BitVec 8) (s : State) : Out :=
  moveIns (.roll k) (k.toNat + 1) (k.toNat + 1) (fun es => es.drop k.toNat ++ es.take k.toNat) s

end Sys2Proof.Machine
end

