-- ==== Sys2Proof/Machine/Dispatch.lean ====
section
/-! DEFINITION. The dispatch: one arm for each constructor of Instr. -/

namespace Sys2Proof.Machine

/-- The effect of one instruction or event. -/
def exec (i : Instr) (s : State) : Host.Outcome State Fault Refusal :=
  match i with
  | .brkz => Sys2Proof.Machine.execBrkz s
  | .nop => Sys2Proof.Machine.execNop s
  | .pushi8 imm => Sys2Proof.Machine.execPushi8 imm s
  | .pushl k => Sys2Proof.Machine.execPushl k s
  | .pushl2 k => Sys2Proof.Machine.execPushl2 k s
  | .popl k => Sys2Proof.Machine.execPopl k s
  | .popl2 k => Sys2Proof.Machine.execPopl2 k s
  | .pushx hi x => Sys2Proof.Machine.execPushx hi x s
  | .pushs sa => Sys2Proof.Machine.execPushs sa s
  | .pushs2 sa => Sys2Proof.Machine.execPushs2 sa s
  | .dup => Sys2Proof.Machine.execDup s
  | .dup2 => Sys2Proof.Machine.execDup2 s
  | .drop => Sys2Proof.Machine.execDrop s
  | .drop2 => Sys2Proof.Machine.execDrop2 s
  | .swap => Sys2Proof.Machine.execSwap s
  | .swap2 => Sys2Proof.Machine.execSwap2 s
  | .overTop => Sys2Proof.Machine.execOver s
  | .rot => Sys2Proof.Machine.execRot s
  | .pick k => Sys2Proof.Machine.execPick k s
  | .roll k => Sys2Proof.Machine.execRoll k s
  | .sel => Sys2Proof.Machine.execSel s
  | .add => Sys2Proof.Machine.execAdd s
  | .sub => Sys2Proof.Machine.execSub s
  | .mul => Sys2Proof.Machine.execMul s
  | .mulh => Sys2Proof.Machine.execMulh s
  | .mulhu => Sys2Proof.Machine.execMulhu s
  | .mad => Sys2Proof.Machine.execMad s
  | .div la => Sys2Proof.Machine.execDiv la s
  | .divu la => Sys2Proof.Machine.execDivu la s
  | .rem la => Sys2Proof.Machine.execRem la s
  | .remu la => Sys2Proof.Machine.execRemu la s
  | .neg => Sys2Proof.Machine.execNeg s
  | .abs => Sys2Proof.Machine.execAbs s
  | .min => Sys2Proof.Machine.execMin s
  | .max => Sys2Proof.Machine.execMax s
  | .minu => Sys2Proof.Machine.execMinu s
  | .maxu => Sys2Proof.Machine.execMaxu s
  | .adds => Sys2Proof.Machine.execAdds s
  | .subs => Sys2Proof.Machine.execSubs s
  | .and => Sys2Proof.Machine.execAnd s
  | .or => Sys2Proof.Machine.execOr s
  | .xor => Sys2Proof.Machine.execXor s
  | .not => Sys2Proof.Machine.execNot s
  | .andn => Sys2Proof.Machine.execAndn s
  | .shl => Sys2Proof.Machine.execShl s
  | .shr => Sys2Proof.Machine.execShr s
  | .sar => Sys2Proof.Machine.execSar s
  | .rotl => Sys2Proof.Machine.execRotl s
  | .clz => Sys2Proof.Machine.execClz s
  | .popc => Sys2Proof.Machine.execPopc s
  | .brev => Sys2Proof.Machine.execBrev s
  | .bfx => Sys2Proof.Machine.execBfx s
  | .bfxu => Sys2Proof.Machine.execBfxu s
  | .bfi => Sys2Proof.Machine.execBfi s
  | .permb => Sys2Proof.Machine.execPermb s
  | .add64 => Sys2Proof.Machine.execAdd64 s
  | .sub64 => Sys2Proof.Machine.execSub64 s
  | .mul64 => Sys2Proof.Machine.execMul64 s
  | .shl64 => Sys2Proof.Machine.execShl64 s
  | .shr64 => Sys2Proof.Machine.execShr64 s
  | .sar64 => Sys2Proof.Machine.execSar64 s
  | .mulw => Sys2Proof.Machine.execMulw s
  | .cmp cc => Sys2Proof.Machine.execCmp cc s
  | .fcmp cc => Sys2Proof.Machine.execFcmp cc s
  | .dcmp cc => Sys2Proof.Machine.execDcmp cc s
  | .fadd r => Sys2Proof.Machine.execFadd r s
  | .fsub r => Sys2Proof.Machine.execFsub r s
  | .fmul r => Sys2Proof.Machine.execFmul r s
  | .ffma r => Sys2Proof.Machine.execFfma r s
  | .fdiv la r => Sys2Proof.Machine.execFdiv la r s
  | .fsqrt la r => Sys2Proof.Machine.execFsqrt la r s
  | .fmin => Sys2Proof.Machine.execFmin s
  | .fmax => Sys2Proof.Machine.execFmax s
  | .fabs => Sys2Proof.Machine.execFabs s
  | .fneg => Sys2Proof.Machine.execFneg s
  | .frcp la => Sys2Proof.Machine.execFrcp la s
  | .frsq la => Sys2Proof.Machine.execFrsq la s
  | .fexp2 la => Sys2Proof.Machine.execFexp2 la s
  | .flog2 la => Sys2Proof.Machine.execFlog2 la s
  | .fsin la => Sys2Proof.Machine.execFsin la s
  | .fcos la => Sys2Proof.Machine.execFcos la s
  | .ftanh la => Sys2Proof.Machine.execFtanh la s
  | .frnd r => Sys2Proof.Machine.execFrnd r s
  | .dadd r => Sys2Proof.Machine.execDadd r s
  | .dsub r => Sys2Proof.Machine.execDsub r s
  | .dmul r => Sys2Proof.Machine.execDmul r s
  | .dfma r => Sys2Proof.Machine.execDfma r s
  | .ddiv la r => Sys2Proof.Machine.execDdiv la r s
  | .dsqrt la r => Sys2Proof.Machine.execDsqrt la r s
  | .dmin => Sys2Proof.Machine.execDmin s
  | .dmax => Sys2Proof.Machine.execDmax s
  | .dabs => Sys2Proof.Machine.execDabs s
  | .dneg => Sys2Proof.Machine.execDneg s
  | .hadd2 r => Sys2Proof.Machine.execHadd2 r s
  | .hmul2 r => Sys2Proof.Machine.execHmul2 r s
  | .hfma2 r => Sys2Proof.Machine.execHfma2 r s
  | .hmax2 => Sys2Proof.Machine.execHmax2 s
  | .pack2 r => Sys2Proof.Machine.execPack2 r s
  | .unpk2 => Sys2Proof.Machine.execUnpk2 s
  | .shflIdx => Sys2Proof.Machine.execShflIdx s
  | .shflXor k => Sys2Proof.Machine.execShflXor k s
  | .shflUp k => Sys2Proof.Machine.execShflUp k s
  | .shflDn k => Sys2Proof.Machine.execShflDn k s
  | .ballot => Sys2Proof.Machine.execBallot s
  | .voteAny => Sys2Proof.Machine.execVoteAny s
  | .voteAll => Sys2Proof.Machine.execVoteAll s
  | .conflict => Sys2Proof.Machine.execConflict s
  | .join => Sys2Proof.Machine.execJoin s
  | .exit => Sys2Proof.Machine.execExit s
  | .demote => Sys2Proof.Machine.execDemote s
  | .mand k => Sys2Proof.Machine.execMand k s
  | .mrest k => Sys2Proof.Machine.execMrest k s
  | .leave => Sys2Proof.Machine.execLeave s
  | .region => Sys2Proof.Machine.execRegion s
  | .rclose => Sys2Proof.Machine.execRclose s
  | .ret => Sys2Proof.Machine.execRet s
  | .trap imm => Sys2Proof.Machine.execTrap imm s
  | .tret => Sys2Proof.Machine.execTret s
  | .bkpt => Sys2Proof.Machine.execBkpt s
  | .hbeat => Sys2Proof.Machine.execHbeat s
  | .pause => Sys2Proof.Machine.execPause s
  | .smov sd sa => Sys2Proof.Machine.execSmov sd sa s
  | .sadd sd sa sb => Sys2Proof.Machine.execSadd sd sa sb s
  | .ssub sd sa sb => Sys2Proof.Machine.execSsub sd sa sb s
  | .smul sd sa sb => Sys2Proof.Machine.execSmul sd sa sb s
  | .sand sd sa sb => Sys2Proof.Machine.execSand sd sa sb s
  | .sor sd sa sb => Sys2Proof.Machine.execSor sd sa sb s
  | .sxor sd sa sb => Sys2Proof.Machine.execSxor sd sa sb s
  | .sshl sd sa sb => Sys2Proof.Machine.execSshl sd sa sb s
  | .sshr sd sa sb => Sys2Proof.Machine.execSshr sd sa sb s
  | .ssar sd sa sb => Sys2Proof.Machine.execSsar sd sa sb s
  | .scmp sa sb => Sys2Proof.Machine.execScmp sa sb s
  | .sread sd x => Sys2Proof.Machine.execSread sd x s
  | .swrite x sa => Sys2Proof.Machine.execSwrite x sa s
  | .sli sd imm => Sys2Proof.Machine.execSli sd imm s
  | .sliw sd imm => Sys2Proof.Machine.execSliw sd imm s
  | .saddi sd sa imm => Sys2Proof.Machine.execSaddi sd sa imm s
  | .scmpi sa imm => Sys2Proof.Machine.execScmpi sa imm s
  | .sld sd sa imm => Sys2Proof.Machine.execSld sd sa imm s
  | .sst sb sa imm => Sys2Proof.Machine.execSst sb sa imm s
  | .pushi32 imm => Sys2Proof.Machine.execPushi32 imm s
  | .pushw hi imm => Sys2Proof.Machine.execPushw hi imm s
  | .cvt src dst r sat => Sys2Proof.Machine.execCvt src dst r sat s
  | .qntHse2 sa => Sys2Proof.Machine.execQntHse2 sa s
  | .qntHse4 sa => Sys2Proof.Machine.execQntHse4 sa s
  | .qntHse7 sa => Sys2Proof.Machine.execQntHse7 sa s
  | .dqntHse2 la sa => Sys2Proof.Machine.execDqntHse2 la sa s
  | .dqntHse4 la sa => Sys2Proof.Machine.execDqntHse4 la sa s
  | .dqntHse7 la sa => Sys2Proof.Machine.execDqntHse7 la sa s
  | .brW off => Sys2Proof.Machine.execBrW off s
  | .brL off => Sys2Proof.Machine.execBrL off s
  | .brcW cond off => Sys2Proof.Machine.execBrcW cond off s
  | .brcL cond off => Sys2Proof.Machine.execBrcL cond off s
  | .jmps sa => Sys2Proof.Machine.execJmps sa s
  | .callW off => Sys2Proof.Machine.execCallW off s
  | .callL off => Sys2Proof.Machine.execCallL off s
  | .calls sa => Sys2Proof.Machine.execCalls sa s
  | .split els join => Sys2Proof.Machine.execSplit els join s
  | .loop count last => Sys2Proof.Machine.execLoop count last s
  | .loops sa last => Sys2Proof.Machine.execLoops sa last s
  | .fmtImm imm => Sys2Proof.Machine.execFmtImm imm s
  | .fmtReg sa => Sys2Proof.Machine.execFmtReg sa s
  | .timerV sa => Sys2Proof.Machine.execTimerV sa s
  | .timerG sa => Sys2Proof.Machine.execTimerG sa s
  | .reduce la op bc sd => Sys2Proof.Machine.execReduce la op bc sd s
  | .readl sd => Sys2Proof.Machine.execReadl sd s
  | .scan la op excl => Sys2Proof.Machine.execScan la op excl s
  | .ldW la w scale sa => Sys2Proof.Machine.execLdW la w scale sa s
  | .ldL la w scale sa c => Sys2Proof.Machine.execLdL la w scale sa c s
  | .stW w scale sa => Sys2Proof.Machine.execStW w scale sa s
  | .stL w scale sa c => Sys2Proof.Machine.execStL w scale sa c s
  | .ldaW la w => Sys2Proof.Machine.execLdaW la w s
  | .ldaL la w c => Sys2Proof.Machine.execLdaL la w c s
  | .staW w => Sys2Proof.Machine.execStaW w s
  | .staL w c => Sys2Proof.Machine.execStaL w c s
  | .ldvW la scale sa => Sys2Proof.Machine.execLdvW la scale sa s
  | .ldvL la scale sa c => Sys2Proof.Machine.execLdvL la scale sa c s
  | .stvW scale sa => Sys2Proof.Machine.execStvW scale sa s
  | .stvL scale sa c => Sys2Proof.Machine.execStvL scale sa c s
  | .ldsW la q scale sa => Sys2Proof.Machine.execLdsW la q scale sa s
  | .ldsL la q scale sa c => Sys2Proof.Machine.execLdsL la q scale sa c s
  | .stsW q scale sa => Sys2Proof.Machine.execStsW q scale sa s
  | .stsL q scale sa c => Sys2Proof.Machine.execStsL q scale sa c s
  | .scataddW t scale sa => Sys2Proof.Machine.execScataddW t scale sa s
  | .scataddL t scale sa c => Sys2Proof.Machine.execScataddL t scale sa c s
  | .atomW la op ord sc scale sa => Sys2Proof.Machine.execAtomW la op ord sc scale sa s
  | .atomL la op ord sc scale sa c => Sys2Proof.Machine.execAtomL la op ord sc scale sa c s
  | .acq sa => Sys2Proof.Machine.execAcq sa s
  | .rel sa => Sys2Proof.Machine.execRel sa s
  | .fenceAcq sc => Sys2Proof.Machine.execFenceAcq sc s
  | .fenceRel sc => Sys2Proof.Machine.execFenceRel sc s
  | .fenceFull sc => Sys2Proof.Machine.execFenceFull sc s
  | .bind sa sb => Sys2Proof.Machine.execBind sa sb s
  | .unbind sa => Sys2Proof.Machine.execUnbind sa s
  | .waitv sa => Sys2Proof.Machine.execWaitv sa s
  | .barArrive sa => Sys2Proof.Machine.execBarArrive sa s
  | .barWait sa => Sys2Proof.Machine.execBarWait sa s
  | .barSync sa => Sys2Proof.Machine.execBarSync sa s
  | .nbarQuad id => Sys2Proof.Machine.execNbarQuad id s
  | .nbarDie id => Sys2Proof.Machine.execNbarDie id s
  | .nbarPkg id => Sys2Proof.Machine.execNbarPkg id s
  | .gbar => Sys2Proof.Machine.execGbar s
  | .copy kind fe sd sa sb => Sys2Proof.Machine.execCopy kind fe sd sa sb s
  | .tlwait sa sb => Sys2Proof.Machine.execTlwait sa sb s
  | .tlread sd sa => Sys2Proof.Machine.execTlread sd sa s
  | .tlsig sa sb => Sys2Proof.Machine.execTlsig sa sb s
  | .mma fe sa sb sc se tile => Sys2Proof.Machine.execMma fe sa sb sc se tile s
  | .mmaz fe sa sb sc se tile => Sys2Proof.Machine.execMmaz fe sa sb sc se tile s
  | .mmaBsr fe sa sb sc se tile => Sys2Proof.Machine.execMmaBsr fe sa sb sc se tile s
  | .mmaCsr fe sa sb sc se tile => Sys2Proof.Machine.execMmaCsr fe sa sb sc se tile s
  | .accz tile => Sys2Proof.Machine.execAccz tile s
  | .accld fe sa sb tile ty => Sys2Proof.Machine.execAccld fe sa sb tile ty s
  | .accst fe sa sb sc tile ty scope amax => Sys2Proof.Machine.execAccst fe sa sb sc tile ty scope amax s
  | .accrd la wide tile => Sys2Proof.Machine.execAccrd la wide tile s
  | .accwr wide tile => Sys2Proof.Machine.execAccwr wide tile s
  | .ixset mode sa => Sys2Proof.Machine.execIxset mode sa s
  | .ixnext la sd => Sys2Proof.Machine.execIxnext la sd s
  | .ixsp sa => Sys2Proof.Machine.execIxsp sa s
  | .ixcnt sd => Sys2Proof.Machine.execIxcnt sd s
  | .pwrprio p => Sys2Proof.Machine.execPwrprio p s
  | .pwrread sd => Sys2Proof.Machine.execPwrread sd s
  | .xprobe sd sa => Sys2Proof.Machine.execXprobe sd sa s
  | .actOpen sd => Sys2Proof.Machine.execActOpen sd s
  | .actStep sd sa sb sc se => Sys2Proof.Machine.execActStep sd sa sb sc se s
  | .actClose sa => Sys2Proof.Machine.execActClose sa s
  | .actAbandon sa => Sys2Proof.Machine.execActAbandon sa s
  | .actStat sd sa => Sys2Proof.Machine.execActStat sd sa s
  | .actSkip sa => Sys2Proof.Machine.execActSkip sa s
  | .actRetry sa => Sys2Proof.Machine.execActRetry sa s
  | .cret sa => Sys2Proof.Machine.execCret sa s
  | .ssOpen sd sa => Sys2Proof.Machine.execSsOpen sd sa s
  | .ssLoad sd sa sb sc se => Sys2Proof.Machine.execSsLoad sd sa sb sc se s
  | .ssStore sa sb sc se => Sys2Proof.Machine.execSsStore sa sb sc se s
  | .ssSnap sa => Sys2Proof.Machine.execSsSnap sa s
  | .ssRoll sd sa sb => Sys2Proof.Machine.execSsRoll sd sa sb s
  | .ssFork sd sa sb => Sys2Proof.Machine.execSsFork sd sa sb s
  | .ssDrop sa => Sys2Proof.Machine.execSsDrop sa s
  | .ssInfo sa sb => Sys2Proof.Machine.execSsInfo sa sb s
  | .ssHeads wr sd sa sb => Sys2Proof.Machine.execSsHeads wr sd sa sb s
  | .poolTake sd sa => Sys2Proof.Machine.execPoolTake sd sa s
  | .poolGive sa sb => Sys2Proof.Machine.execPoolGive sa sb s
  | .launch sa sb => Sys2Proof.Machine.execLaunch sa sb s
  | .dbgRd sd sa => Sys2Proof.Machine.execDbgRd sd sa s
  | .dbgWr sa sb => Sys2Proof.Machine.execDbgWr sa sb s
  | .illop form cause first arg f32 parcels => Sys2Proof.Machine.execIllop form cause first arg f32 parcels s
  | .regionPublish team => Sys2Proof.Machine.execRegionPublish team s
  | .resultWrite team sb => Sys2Proof.Machine.execResultWrite team sb s
  | .drawerTransfer team frag => Sys2Proof.Machine.execDrawerTransfer team frag s
  | .waiterTableRetry team frag => Sys2Proof.Machine.execWaiterTableRetry team frag s
  | .faultRepresent team frag => Sys2Proof.Machine.execFaultRepresent team frag s
  | .waitvWake team frag => Sys2Proof.Machine.execWaitvWake team frag s
  | .waitvTimeout team frag => Sys2Proof.Machine.execWaitvTimeout team frag s
  | .tlwaitWake team frag => Sys2Proof.Machine.execTlwaitWake team frag s
  | .copyEngineTurn die engine => Sys2Proof.Machine.execCopyEngineTurn die engine s
  | .copyComplete die ctx => Sys2Proof.Machine.execCopyComplete die ctx s
  | .matrixExecute core => Sys2Proof.Machine.execMatrixExecute core s
  | .ixuExecute core => Sys2Proof.Machine.execIxuExecute core s
  | .timerFire team => Sys2Proof.Machine.execTimerFire team s
  | .watchdogFire launch => Sys2Proof.Machine.execWatchdogFire launch s
  | .powerInterval => Sys2Proof.Machine.execPowerInterval s
  | .issueFloorExempt team => Sys2Proof.Machine.execIssueFloorExempt team s
  | .thermalSample die quarterDegrees => Sys2Proof.Machine.execThermalSample die quarterDegrees s
  | .sramScrub core row err => Sys2Proof.Machine.execSramScrub core row err s
  | .patrolScrub line err => Sys2Proof.Machine.execPatrolScrub line err s
  | .frameZeroDone die frame => Sys2Proof.Machine.execFrameZeroDone die frame s
  | .warmReset implicated => Sys2Proof.Machine.execWarmReset implicated s
  | .coldReset => Sys2Proof.Machine.execColdReset s
  | .bootFirmwareVerified => Sys2Proof.Machine.execBootFirmwareVerified s
  | .bootStage2Fetched => Sys2Proof.Machine.execBootStage2Fetched s
  | .bootVerified => Sys2Proof.Machine.execBootVerified s
  | .bootFailure reason => Sys2Proof.Machine.execBootFailure reason s
  | .bootTimeout => Sys2Proof.Machine.execBootTimeout s
  | .launchPacketWrite src queue offset data => Sys2Proof.Machine.execLaunchPacketWrite src queue offset data s
  | .launchDispatch => Sys2Proof.Machine.execLaunchDispatch s
  | .teamPlace launch => Sys2Proof.Machine.execTeamPlace launch s
  | .launchComplete launch => Sys2Proof.Machine.execLaunchComplete launch s
  | .qcfgWrite queue value => Sys2Proof.Machine.execQcfgWrite queue value s
  | .cxctlWrite slot value => Sys2Proof.Machine.execCxctlWrite slot value s
  | .cxcmdPreempt slot => Sys2Proof.Machine.execCxcmdPreempt slot s
  | .cxcmdResume slot => Sys2Proof.Machine.execCxcmdResume slot s
  | .cxcmdTerminate slot => Sys2Proof.Machine.execCxcmdTerminate slot s
  | .vfReset vf => Sys2Proof.Machine.execVfReset vf s
  | .cstateWrite core value => Sys2Proof.Machine.execCstateWrite core value s
  | .dqmapWrite die value => Sys2Proof.Machine.execDqmapWrite die value s
  | .xinvWrite die value => Sys2Proof.Machine.execXinvWrite die value s
  | .xinvDone die => Sys2Proof.Machine.execXinvDone die s
  | .fbresRewalk die entry => Sys2Proof.Machine.execFbresRewalk die entry s
  | .fbresFail die entry => Sys2Proof.Machine.execFbresFail die entry s
  | .waiterReplay die entry => Sys2Proof.Machine.execWaiterReplay die entry s
  | .cctxWrite die ctx value => Sys2Proof.Machine.execCctxWrite die ctx value s
  | .deinjWrite die value => Sys2Proof.Machine.execDeinjWrite die value s
  | .pbudgetWrite value => Sys2Proof.Machine.execPbudgetWrite value s
  | .actcfgWrite value => Sys2Proof.Machine.execActcfgWrite value s
  | .poolctlWrite pool value => Sys2Proof.Machine.execPoolctlWrite pool value s
  | .sscfgWrite value => Sys2Proof.Machine.execSscfgWrite value s
  | .pbcfgWrite chan value => Sys2Proof.Machine.execPbcfgWrite chan value s
  | .podBarrierRelease chan => Sys2Proof.Machine.execPodBarrierRelease chan s
  | .benchHalt core bench => Sys2Proof.Machine.execBenchHalt core bench s
  | .benchClaim core bench team => Sys2Proof.Machine.execBenchClaim core bench team s
  | .haltBroadcast core bench => Sys2Proof.Machine.execHaltBroadcast core bench s
  | .comparatorHit team comp => Sys2Proof.Machine.execComparatorHit team comp s
  | .benchSample core bench => Sys2Proof.Machine.execBenchSample core bench s
  | .compensationDone launch => Sys2Proof.Machine.execCompensationDone launch s
  | .keyWaitEnd tag slot => Sys2Proof.Machine.execKeyWaitEnd tag slot s
  | .keyWaitTimeout tag slot => Sys2Proof.Machine.execKeyWaitTimeout tag slot s
  | .podAccess pkg stag va op => Sys2Proof.Machine.execPodAccess pkg stag va op s
  | .fabricAckTimeout team => Sys2Proof.Machine.execFabricAckTimeout team s
  | .laneSwap link => Sys2Proof.Machine.execLaneSwap link s
  | .hostAccess fn offset op => Sys2Proof.Machine.execHostAccess fn offset op s
  | .rdmaCompletion fn timeline value => Sys2Proof.Machine.execRdmaCompletion fn timeline value s
  | .registerWrite pa value => Sys2Proof.Machine.execRegisterWrite pa value s
  | .linkLevelRetry link => Sys2Proof.Machine.execLinkLevelRetry link s
  | .linkTrained link up peer => Sys2Proof.Machine.execLinkTrained link up peer s

end Sys2Proof.Machine
end

