-- ==== Sys2Proof/Machine/Errors.lean ====
section
/-! DEFINITION. Uncorrectable errors in the structures of a core, a die and the hub, beside the pool and HBM (R210, R211, R311, R315, R341,
R351 to R353). When one arises, and in which entry, is no rule's: both are inputs (log entry 47). -/

namespace Sys2Proof.Machine

/-- The n-th of a list, counted round. -/
def pick (l : List α) (n : Nat) : Option α := l[n % max 1 l.length]?

/-- The teams of a core. -/
def teamsAt (s : State) (core : Nat) : List Team := s.teams.filter fun t => t.core == core

/-- An error recorded in a core's CELOG, and the log word that holds it (R210, R352). -/
def logCoreError (s : State) (core : Nat) (tag : Tag) (struct bench index : Nat) : State × DWord :=
  let c := getCore s core
  let new := coreLog c.celog tag struct index bench
  (setCore s core { c with celog := new }, loggedAs c.celog new)

/-- An error recorded in a die's DELOG, and the log word that holds it (R315, R352). -/
def logDieError (s : State) (die : Nat) (tag : Tag) (struct line : Nat) : State × DWord :=
  let d := getDie s die
  let new := logError d.delog tag struct line
  (setDie s die { d with delog := new }, loggedAs d.delog new)

/-- The row of its bench's shelf that a mask word of a team has (R88): the teams of a bench in the order of their slots, word by word; the
spec gives no order (log entry 47). -/
def shelfRow (s : State) (t : Team) (word : Nat) : Nat :=
  ((s.teams.filter fun u => u.core == t.core && u.bench == t.bench && decide (u.slot < t.slot)).map Team.words).sum + word

/-- An error in the shelf: one of the entries that a lane has there is poisoned (R90, R211). -/
def shelfError (s : State) (core n : Nat) : State := match pick (teamsAt s core) n with
  | none => s
  | some t =>
    let k := n / max 1 (teamsAt s core).length
    let lane := k % max 1 t.width
    let at' := k / max 1 t.width % 8
    match t.frags.find? fun f => f.member.getLsbD lane && f.st != .hold with
    | none => s
    | some f =>
      if f.shelf ≤ at' then s
      else
        let (s, log) := logCoreError s core t.tag 0 t.bench (shelfRow s t (lane / 32))
        let p : Poison := { tag := t.tag, source := 0, log }
        modTeam s t.uid fun t => t.mapLanes fun i l =>
          if i = lane then { l with stack := mapIdxFrom (fun j e => if j = at' then e.poisoned p else e) 0 l.stack } else l

/-- An error in a scoreboard entry: what was pending under it is poisoned, and no result reaches it (R49, R211). -/
def scoreboardError (s : State) (core n : Nat) : State := match pick (teamsAt s core) n with
  | none => s
  | some t => match pick t.sb (n / max 1 (teamsAt s core).length) with
    | none => s
    | some e =>
      let (s, log) := logCoreError s core t.tag 8 t.bench n
      let p : Poison := { tag := t.tag, source := 0, log }
      modTeam s t.uid fun t =>
        let t := foldNat (fun t i => deliver t e.id i (List.replicate 8 (Entry.zero.poisoned p))) t t.width
        { t with sb := t.sb.filter fun x => x.id != e.id }

/-- The number of a line among a core cache's 2048: its set and its way, the ways counted in the order of the set's lines here (R201; log
entry 47). -/
def cacheIndex (c : Core) (x : CLine) : Nat :=
  let set := c.cache.filter fun y => y.line % 256 == x.line % 256
  x.line % 256 * 8 + (set.takeWhile fun y => y.line != x.line).length % 8

/-- An error in a line of the core's cache: the line is poisoned with its tag, that of the tenancy (R201, R211). -/
def cacheDataError (s : State) (core n : Nat) : State := match pick (getCore s core).cache n with
  | none => s
  | some x =>
    let (s, log) := logCoreError s core x.tag 4 0 (cacheIndex (getCore s core) x)
    let c := getCore s core
    setCore s core { c with
      cache := c.cache.map fun y => if y.line = x.line then { y with poison := some { tag := x.tag, source := 0, log } } else y }

/-- An uncorrectable error in a structure of a core (R211, R351). A cache line's tag and a split entry's context are terminated; a
micro-TLB entry is dropped, and found again by the next walk; the issue logic's error is pinned to no tag. -/
def coreError (s : State) (core : Nat) (u : CoreUnit) (n : Nat) : State :=
  let on := tagsOn s fun c => c == core
  match u with
  | .shelf => shelfError s core n
  | .scoreboard => scoreboardError s core n
  | .cacheData => cacheDataError s core n
  | .cacheTags => match pick (getCore s core).cache n with
    | none => s
    | some x =>
      let (s, log) := logCoreError s core x.tag 5 0 (cacheIndex (getCore s core) x)
      endTag s x.tag 0 log on (placeWord s core 0)
  | .utlb =>
    let c := getCore s core
    setCore s core { c with utlb := c.utlb.eraseIdx (n % max 1 c.utlb.length) }
  | .splitTable => match pick (teamsAt s core) n with
    | none => s
    | some t =>
      let entry := ((pick t.frags (n / max 1 (teamsAt s core).length)).map (·.num)).getD 0
      let (s, log) := logCoreError s core t.tag 7 0 entry
      endTag s t.tag 0 log on (placeWord s core t.bench)
  | .issueLogic =>
    let (s, log) := logCoreError s core 0 9 (n % 4) 0
    startReset s 0 log on

/-- An error in the data of a line of a home slice: the line is poisoned with its tag (R310, R311). -/
def sliceDataError (s : State) (die n : Nat) : State := match pick (getDie s die).slice n with
  | none => s
  | some x =>
    let (s, log) := logDieError s die x.tag 0 x.line
    let d := getDie s die
    setDie s die { d with
      slice := d.slice.map fun y => if y.line = x.line then { y with poison := some { tag := x.tag, source := 1, log } } else y }

/-- A TLB of a quad or of an engine of a die with one entry dropped: the next walk finds it again (R311). -/
def dropTlbEntry (s : State) (die n : Nat) : State :=
  let drop := fun (l : List TlbEntry) => l.eraseIdx (n % max 1 l.length)
  let k := n % 26
  if k < 14 then
    let q := getQuad s (die * 14 + k)
    setQuad s (die * 14 + k) { q with tlb := drop q.tlb }
  else
    let d := getDie s die
    setDie s die { d with etlb := tabSet d.etlb (k - 14) (drop (tabGet [] d.etlb (k - 14))) }

/-- The tags that may have a walk in flight on a die (R295, R300, R302): those of its teams, of its cores' tenancies, of its copy contexts
and of the contexts whose home it is. -/
def walkers (s : State) (die : Nat) : List Tag :=
  ((s.teams.filter fun t => dieOf t.core == die).map (·.tag) ++
    s.cores.filterMap (fun p => if dieOf p.1 = die ∧ p.2.cowner.getLsbD 31 then some (p.2.cowner.setWidth 12) else none) ++
    (getDie s die).cctx.filterMap (fun p => if p.2.getLsbD 31 then some (p.2.setWidth 12) else none) ++
    s.hub.slots.filterMap (fun p =>
      if p.2.cxctl.getLsbD 31 ∧ homeDie s (p.2.cxctl.setWidth 12) = die then some (p.2.cxctl.setWidth 12) else none)).eraseDups

/-- An uncorrectable error in a structure of a die (R311, R351): the tagged context of a fault-buffer entry, a walk or a copy context is
terminated; slice tags, walker control and the interconnect are pinned to no tag. -/
def dieError (s : State) (die : Nat) (u : DieUnit) (n : Nat) : State :=
  let on := tagsOn s fun c => dieOf c == die
  let tagged := fun (struct : Nat) (tag : Option Tag) => match tag with
    | none => s
    | some t =>
      let (s, log) := logDieError s die t struct 0
      endTag s t 1 log on (die * 2 ^ 24)
  let loose := fun (struct line : Nat) =>
    let (s, log) := logDieError s die 0 struct line
    startReset s 1 log on
  match u with
  | .sliceData => sliceDataError s die n
  | .tlb => dropTlbEntry s die n
  | .faultBuffer => tagged 6 ((pick (getDie s die).fb n).map (·.tag))
  | .walk => tagged 5 (pick (walkers s die) n)
  | .copyCtx =>
    let w := tabGet 0 (getDie s die).cctx (n % 768)
    tagged 7 (if w.getLsbD 31 then some (w.setWidth 12) else none)
  | .sliceTags => loose 1 (((pick (getDie s die).slice n).map (·.line)).getD 0)
  | .walker => loose 5 0
  | .interconnect => loose 9 0

/-- An error of the hub's logic (R341, R351, R353): every context with a team is implicated. -/
def hubError (s : State) (struct : Nat) : State :=
  let new := logError s.hub.hlog 0 struct 0
  let log := loggedAs s.hub.hlog new
  startReset { s with hub := { s.hub with hlog := new } } 2 log (tagsOn s fun _ => true)

end Sys2Proof.Machine
end

