-- ==== Sys2Proof/WellFormed.lean ====
section
/-! DEFINITION. The well-formed instructions: those whose operands the encoding tables of the spec admit
(R44, R53 to R56, R67's constant part, R73, R142, R170, R260). An event of the table has no encoding. -/

namespace Sys2Proof

/-- True for a constructor that is an encoded instruction, false for an event of the table. -/
def Instr.encoded : Instr → Bool
  | .illop .. => false
  | .regionPublish .. => false
  | .resultWrite .. => false
  | .drawerTransfer .. => false
  | .waiterTableRetry .. => false
  | .faultRepresent .. => false
  | .waitvWake .. => false
  | .waitvTimeout .. => false
  | .tlwaitWake .. => false
  | .copyEngineTurn .. => false
  | .copyComplete .. => false
  | .matrixExecute .. => false
  | .ixuExecute .. => false
  | .timerFire .. => false
  | .watchdogFire .. => false
  | .powerInterval => false
  | .issueFloorExempt .. => false
  | .thermalSample .. => false
  | .sramScrub .. => false
  | .patrolScrub .. => false
  | .frameZeroDone .. => false
  | .warmReset .. => false
  | .coldReset => false
  | .bootFirmwareVerified => false
  | .bootStage2Fetched => false
  | .bootVerified => false
  | .bootFailure .. => false
  | .bootTimeout => false
  | .launchPacketWrite .. => false
  | .launchDispatch => false
  | .teamPlace .. => false
  | .launchComplete .. => false
  | .qcfgWrite .. => false
  | .cxctlWrite .. => false
  | .cxcmdPreempt .. => false
  | .cxcmdResume .. => false
  | .cxcmdTerminate .. => false
  | .vfReset .. => false
  | .cstateWrite .. => false
  | .dqmapWrite .. => false
  | .xinvWrite .. => false
  | .xinvDone .. => false
  | .fbresRewalk .. => false
  | .fbresFail .. => false
  | .waiterReplay .. => false
  | .cctxWrite .. => false
  | .deinjWrite .. => false
  | .pbudgetWrite .. => false
  | .actcfgWrite .. => false
  | .poolctlWrite .. => false
  | .sscfgWrite .. => false
  | .pbcfgWrite .. => false
  | .podBarrierRelease .. => false
  | .benchHalt .. => false
  | .benchClaim .. => false
  | .haltBroadcast .. => false
  | .comparatorHit .. => false
  | .benchSample .. => false
  | .compensationDone .. => false
  | .keyWaitEnd .. => false
  | .keyWaitTimeout .. => false
  | .podAccess .. => false
  | .fabricAckTimeout .. => false
  | .laneSwap .. => false
  | .hostAccess .. => false
  | .rdmaCompletion .. => false
  | .registerWrite .. => false
  | .linkLevelRetry .. => false
  | .linkTrained .. => false
  | _ => true

/-- True when every operand lies within the limits of the encoding tables. -/
def WellFormed : Instr → Bool
  | .pushl2 k | .popl2 k => decide (k.toNat ≤ 254)
  | .pushx hi x => !hi || x.wide
  | .pick k => decide (k.toNat ≤ 62)
  | .roll k => decide (k.toNat ≤ 63)
  | .cmp cc => cc.cmpOk
  | .fcmp cc | .dcmp cc => cc.fcmpOk
  | .shflXor k | .shflUp k | .shflDn k => decide (k.toNat ≤ 31)
  | .mand k | .mrest k => decide (k.toNat ≤ 3)
  | .swrite x _ => x.writable
  | .cvt src dst _ sat => decide (src ≠ dst) && !(sat && dst.isFloat)
  | .loop _ last | .loops _ last => decide (4 ≤ last.toInt)
  | .fmtImm v => fmtLegal v
  | .accld _ _ _ _ ty => decide (ty.toNat < 12)
  | .accst _ _ _ sc _ ty scope amax =>
    decide (ty.toNat < 15) && (amax || (decide (sc = 0) && decide (scope = .core)))
  | .ssHeads wr _ _ sb => wr || decide (sb = 0)
  | _ => true

end Sys2Proof
end

