-- ==== Sys2Proof/Machine/Schedule.lean ====
section
/-! DEFINITION. What comes between instructions: waits that end, stopped teams drained, time, the choice of a fragment and the fetch of
its instruction (R60, R80 to R84, R176, R184, R186, R191, R251, R283, R306, R346, R353, R359, R360, R410, R411, R418, R432, R445). -/

namespace Sys2Proof.Machine

/-- A fragment of a team READY again, its mark cleared where it is asked for. -/
def wakeFrag (s : State) (uid frag : Nat) (unmark : Bool) : State :=
  modTeam s uid fun t => modFrag t frag fun f => { f.wake with mark := if unmark then none else f.mark }

/-- A fragment whose wait is over by the state alone goes on, with the fence that ends it (R50, R159, R194, R226, R232 to R235, R249,
R251, R254, R268, R303, R324, R354, R437). The other waits end by events. -/
def settleFrag (s : State) (t : Team) (f : Frag) : State :=
  let wake := fun (s : State) => wakeFrag s t.uid f.num false
  match f.wait with
  | some (.pending sb) => if t.sb.any fun e => e.id == sb then s else wake s
  | some .sbFull => if t.sb.length < 16 then wake s else s
  | some (.scalar n) => if t.scalarPend.contains n then s else wake s
  | some (.acquire sc) => if t.hasReplays || podPending s t.uid then s else wake (fenceAcq s t.core sc)
  | some (.barrier core off gen quad) =>
    if BitVec.ofNat 16 (barrierWord s core off).2.2.1 = gen then s
    else wakeFrag (fenceAcq s t.core (if quad then .quad else .core)) t.uid f.num true
  | some (.nbar level unit id gen) => if genOf s level unit t.launch id = gen then s else wake (invalidateAll s t.core)
  | some (.channel level unit id) =>
    let l := chansOf s level unit
    if l.length < 16 ∨ l.any (fun c => c.launch == t.launch && c.id == id) then wake s else s
  | some (.pageSet p) => if t.pageFits p then wake s else s
  | some (.zeroing frame) => if (List.range 4).any fun d => (getDie s d).zeroing.any fun z => z.1 == frame then s else wake s
  | some .replays => if t.acquiring || rowWaits s t then s else wake s
  | some .row => if (waitingRows s t.uid).contains f.num then s else wake s
  | some .ordering => if t.atomPending || unperformed s t then s else wake s
  | some .engines => if hasEngines s t then s else wake s
  | some .matrixQueue => if (getCore s t.core).matq.length < 4 then wake s else s
  | some .ixuContext => if (s.teams.filter fun u => u.core == t.core && u.uid != t.uid && holdsIx s u).length < 16 then wake s else s
  | some (.copyQueue ctx) => if (getCtx s (dieOf t.core) ctx).queue.length < 32 then wake s else s
  | some .held => if t.held.isSome || !t.heldIx.isEmpty then s else wake s
  | some .fabricAck => if s.fabric.msgs.any fun m => m.isStore t.uid then s else wake s
  | _ => s

/-- A stopped team drained in the manner of pre-emption (R186, R306); a fault found when its region closes is posted, and freezes its bench
(R406). -/
def drainStopped (s : State) (uid : Nat) : State :=
  let (s, l) := drainTeam s uid
  foundFaults s uid ((((teamOf s uid).bind runFrag).map (·.pc)).getD 0) 0 l

/-- One team between its instructions, in a cycle in which its quad acts (R3): drained while it is stopped; else its replay records are
presented and its held commands given back; then its waits. -/
def settleTeam (s : State) (uid : Nat) : State :=
  match teamOf s uid with
  | none => s
  | some t =>
    if !pulseAt s t.core then s
    else
    let s := if !contextRuns s t || benchFrozen s t then drainStopped s uid
      else if !t.replay.isEmpty then presentAll s uid
      else if t.held.isSome || !t.heldIx.isEmpty then requeueHeld s uid
      else s
    (t.frags.map (·.num)).foldl (fun s n => match teamOf s uid with
      | none => s
      | some t => match fragOf t n with
        | some f => settleFrag s t f
        | none => s) s

/-- Everything that the state alone decides, before the next act: the ROM at work, register writes reaching their blocks, pre-emptions that
waited and peers' requests that go on, and teams settling. -/
def settle (s : State) : State :=
  let s := romStep s
  let s := if s.regq.isEmpty then s else drainRegs s
  let s := (s.hub.slots.filter fun p => p.2.leaving).foldl (fun s p => preempt s p.1) s
  let s := if s.fabric.peers.isEmpty then s else presentPeers s
  (s.teams.map (·.uid)).foldl settleTeam s

/-- Whether a fragment is parked on an access of pod or sys scope: on another package's answer, or on its acknowledgements (R418). -/
def podParked (s : State) (t : Team) (f : Frag) : Bool :=
  let asked := fun (p : Acc → Bool) => s.fabric.msgs.any fun m => m.isOf t.uid && (match m.req with
    | .acc a _ => p a
    | _ => false)
  match f.wait with
  | some .fabricAck | some .packet | some (.acquire .pod) | some (.acquire .sys) => true
  | some (.pending sb) => asked fun a => a.sb == some sb
  | some (.scalar n) => asked fun a => match a with
    | .sld sd _ => sd == n
    | _ => false
  | _ => false

/-- The state code of a tag's context. -/
def contextState (s : State) (tag : Tag) : Nat := ((slotOfTag s tag).map fun n => (getSlot s n).st).getD 0

/-- The lowest category of R418 that applies to a launch in flight. -/
def Launch.category (s : State) (l : Launch) : Nat :=
  let waits := (List.range 4).any fun d => (getDie s d).fb.any fun e => e.waiters.any fun w => w.launch == l.id && (match w.kind with
    | .launch _ | .walk _ _ | .remote .. => false
    | _ => true)
  let here := s.teams.filter fun t => t.launch == l.id
  let slow := fun (t : Team) (f : Frag) => podParked s t f || (match f.wait with
    | some (.timeline id _) => decide (id < 3072)
    | _ => false)
  let away := fun (t : Team) => (t.frags.any (slow t)) && t.frags.all fun f => f.st == .hold || f.st == .arrived || slow t f
  if waits || l.awaits then 1
  else if !here.isEmpty && here.all away then 2
  else if !here.isEmpty then 3
  else if contextState s l.tag == 4 || decide (l.placed < l.pkt.teams) then 4
  else 3

/-- The lowest category of R418 that applies to a packet in a queue; head: it is its queue's head. -/
def Packet.category (s : State) (q : Nat) (head : Bool) (p : Packet) : Nat :=
  let waits := head && (List.range 4).any fun d => (getDie s d).fb.any fun e => e.waiters.any fun w => w.kind == .launch q
  let ready := head && (slotOfTag s (BitVec.ofNat 12 p.owner)).isSome && waitOver s p
  let slow := head && !waitOver s p && decide (p.wait % 8192 < 3072)
  if waits then 1 else if slow then 2 else if ready || contextState s (BitVec.ofNat 12 p.owner) == 4 then 4 else 5

/-- Nanoseconds added to a category. -/
def addTime (acc : List Nat) (cat n : Nat) : List Nat := listSet acc (cat - 1) (((acc[cat - 1]?).getD 0) + n)

/-- The set bits of a pulse pattern in n cycles from a cycle on. -/
def pulsesIn (w : BitVec 16) (start n : Nat) : Nat :=
  n / 16 * ((List.range 16).filter w.getLsbD).length + ((List.range (n % 16)).filter fun i => w.getLsbD ((start + i) % 16)).length

/-- The pulses that the quad of a core lets through in the next n cycles, its pattern staying as it is. -/
def pulsesOf (s : State) (core n : Nat) : Nat := pulsesIn (getQuad s (quadOf core)).pattern s.gtime.toNat n

/-- Whether the power scheduler withholds a team's next instruction (R283). -/
def teamWithheld (s : State) (t : Team) : Bool := match nextFrag t with
  | none => false
  | some f => match fetchAt s t f.pc with
    | .ok i _ => withheldNow s t f i
    | _ => false

/-- A fragment's waiting limits after p pulses (R3, R200, R230). -/
def Frag.elapse (f : Frag) (p : Nat) : Frag := match f.wait with
  | some (.watch l k w) => { f with wait := some (.watch l (k - p) w) }
  | some (.fullEmpty fec la pc passes since n) => { f with wait := some (.fullEmpty fec la pc passes since (n - p)) }
  | _ => f

/-- A team after n cycles, p of them passed pulses of its quad; held: its next instruction is withheld and otherwise ready (R68, R284). -/
def Team.elapse (t : Team) (n p : Nat) (held : Bool) : Team :=
  { t with
    tcyc := t.tcyc + BitVec.ofNat 64 n
    frags := t.frags.map fun f => f.elapse p
    withheld := if held then t.withheld + p else 0 }

/-- A launch after n ns (R359, R418): its watchdog's time runs while its context is RUNNING, or STOPPED before any watchdog of the context
has fired. -/
def Launch.elapse (s : State) (n : Nat) (l : Launch) : Launch :=
  let st := contextState s l.tag
  let fired := s.hub.launches.any fun x => x.tag == l.tag && x.fired
  { l with
    acc := addTime l.acc (l.category s) n
    elapsed := if l.tfirst.isSome ∧ (st = 2 ∨ (st = 3 ∧ !fired)) then l.elapsed + n else l.elapsed }

/-- A queue after n ns: a packet whose launch is in flight has its time counted there (R418). -/
def Queue.elapse (s : State) (n q : Nat) (x : Queue) : Queue :=
  { x with packets := mapIdxFrom (fun i p =>
      if s.hub.launches.any fun l => l.comp.isNone && l.queue == q && l.pkt.seq == p.seq then p
      else { p with acc := addTime p.acc (p.category s q (i == 0)) n }) 0 x.packets }

/-- A core's benches after p pulses (R411). -/
def Core.elapse (c : Core) (p : Nat) : Core :=
  { c with benches := c.benches.map fun b => if b.period = 0 then b else { b with pulses := b.pulses + p } }

/-- n cycles pass (R68, R184, R230, R284, R285, R359, R379, R411, R418): GTIME and each resident team's TCYC advance, waits and periods
run, and a frame that begins takes its quad's new pattern. held says which teams are withheld and otherwise ready. -/
def tick (held : Team → Bool) (s : State) (n : Nat) : State :=
  let frame := (s.gtime.toNat + n) % 16 == 0
  let act := fun (a : Activity) => if contextState s a.tag = 2 then { a with keyWait := a.keyWait.map fun k => k + n } else a
  { s with
    gtime := s.gtime + BitVec.ofNat 64 n
    teams := s.teams.map fun t => t.elapse n (pulsesOf s t.core n) (held t)
    cores := s.cores.map fun c => (c.1, c.2.elapse (pulsesOf s c.1 n))
    quads := s.quads.map fun q => (q.1, { q.2 with
      charged := if n = 0 then q.2.charged else 0, pattern := if frame then q.2.nextPattern else q.2.pattern })
    hub := { s.hub with
      launches := s.hub.launches.map (Launch.elapse s n)
      queues := s.hub.queues.map fun x => (x.1, x.2.elapse s n x.1)
      acts := s.hub.acts.map act } }

/-- The cycles that may pass before something falls due: a power interval (R280), a frame with a new pattern (R285), a sample (R411), the
time-out of a request (R432), a team's issue floor (R284). -/
def horizon (held : Team → Bool) (s : State) : Nat :=
  let now := s.gtime.toNat
  let frames := if s.quads.any fun q => q.2.pattern != q.2.nextPattern then [16 - now % 16] else []
  let samples := s.cores.flatMap fun c => c.2.benches.filterMap fun b => if b.period = 0 then none else some (b.period - b.pulses)
  let msgs := s.fabric.msgs.map fun m => m.time.toNat + 10000000 - now
  let floors := (s.teams.filter held).map fun t => 64 - t.withheld
  (frames ++ samples ++ msgs ++ floors).foldl min (10000 - now % 10000)

/-- What has fallen due by itself (R280, R284, R411, R432). -/
def fallDue (s : State) : State :=
  let s := powerInterval s
  let s := s.cores.foldl (fun s c => foldNat (fun s b => benchSample s c.1 b) s 4) s
  let s := s.fabric.msgs.foldl (fun s m => podLate s m.team) s
  (s.teams.map (·.uid)).foldl floorExempt s

/-- n cycles asked for: as many as may pass before something falls due, then that; the rest stands first on the agenda. -/
def pass (held : Team → Bool) (s : State) (n : Nat) : State :=
  let k := min n (max 1 (horizon held s))
  let s := fallDue (tick held s k)
  if k < n then { s with agenda := .tick (n - k) :: s.agenda } else s

/-- The fragment that runs: the running one, or the READY one that R81 chooses, reloaded where it was spilled (R84). -/
def chooseFrag (s : State) (t : Team) : State × Option Frag :=
  match runFrag t with
  | some f => (s, some f)
  | none =>
    match t.nextReady with
    | none => (s, none)
    | some f =>
      let g : Frag := { f with st := .run, spilled := false }
      let s := setTeam s (setFrag t g)
      (if f.spilled then spillTeam s t.uid else s, some g)

/-- The read of a parcel at the home slice of a fetch (R60, R423): a page that had no translation at dispatch is read as it stands now, and
poison there is consumed. -/
def readParcel (s : State) (t : Team) (pc : DWord) : Loc → Run State
  | .mem pa e | .home pa e =>
    let s := captureText (homeTouch s (pa / 64) e.otag e.prot true) t pc pa
    match homePoison s (pa / 64) with
    | some p => .error (.poison false [p] (fun _ => s) (some pc))
    | none => .ok s
  | _ => .ok s

/-- The translation that a fetch of the parcel at an address needs, and its read (R60, R212, R302). -/
def fetchParcel (s : State) (t : Team) (f : Frag) (pc : DWord) : Run State := do
  need (globalOk pc) (.fault 0x11 0 (some pc))
  need (!pc.getLsbD 55) (.fault 0x11 6 (some pc))
  match locate s t pc .fetch with
  | (s, .at l) => readParcel s t pc l
  | (s, .miss die tag page level) => do
    reissueOn t f 4 pc die tag page level s
    .ok s
  | (_, .perm i) => .error (.fault 0x11 i (some pc))
  | (_, .tail) => .error (.fault 0x12 0 (some pc))
  | (_, .zero fr o) => .error (.park (.zeroing fr) fun s => startZero s fr o)

/-- The fetch of an instruction: its first parcel's line, and its last one's where that is another (R60). -/
def fetchCheck (s : State) (t : Team) (f : Frag) : Run State := do
  let s ← fetchParcel s t f f.pc
  let last := f.pc + BitVec.ofNat 64 (lengthAt s t f.pc - 2)
  if last.toNat / 64 = f.pc.toNat / 64 then .ok s else fetchParcel s t f last

/-- A fetch that does not complete: the fragment parks before the instruction, its context stops, or poison ends it (R60, R351). -/
def fetchStop (s : State) (t : Team) (f : Frag) : Stop → State
  | .park w pre => modTeam (pre s) t.uid fun t => modFrag t f.num fun x => { x with st := .parked, wait := some w }
  | .fault code info addr => classS s t.uid code 0 info f.pc f.active addr
  | .poison _ ps pre addr => poisonKill (pre s) t 0x21 f.pc ps addr
  | _ => s

/-- A launch's first issue (R417). -/
def noteFirst (s : State) (launch : Nat) : State := match launchOf s launch with
  | some l => if l.tfirst.isNone then setLaunch s { l with tfirst := some s.gtime } else s
  | none => s

/-- What a team's turn comes to: something other than an instruction, an instruction, or a pattern that is none. -/
inductive Turn
  | done (s : State)
  | run (i : Instr) (s : State)
  | illegal (raw : Raw) (cause : Cause) (len : Nat) (s : State)

/-- The fragment of a team parked. -/
def parkFrag (s : State) (uid frag : Nat) (w : Wait) : State :=
  modTeam s uid fun t => modFrag t frag fun x => { x with st := .parked, wait := some w }

/-- What an open region makes of the choice of a fragment (R176, R445). -/
inductive RegionTurn
  /-- the fragment may issue -/
  | free
  /-- the region closes, and this fragment then runs -/
  | close (n : Nat)
  /-- nothing issues until the region's stores have been made -/
  | wait (n : Nat)

/-- The turn of a team with this fragment to run. -/
def regionTurn (t : Team) (f : Frag) : RegionTurn :=
  match t.region with
  | none => .free
  | some r =>
    let n := r.closing.getD f.num
    if r.frag = f.num ∧ r.closing = none then .free
    else if r.pendingStores = 0 then .close n
    else .wait n

/-- The region of a team waits to close for a fragment. -/
def waitClose (s : State) (uid n : Nat) : State :=
  modTeam s uid fun t => { t with region := t.region.map fun r => { r with closing := some n } }

/-- The team's instruction fetched: what stands at its fragment's PC, unless the power scheduler withholds it (R42, R283). A pattern that is
no instruction has no cost class: it is neither withheld nor charged (log entry 61). -/
def fetchTurn (s : State) (t : Team) (f : Frag) : Turn :=
  match fetchCheck s t f with
  | .error e => .done (fetchStop s t f e)
  | .ok s => match fetchAt s t f.pc with
    | .ok i _ => if withheldNow s t f i then .done s else .run i { s with cur := some t.uid }
    | .illegal raw c len => .illegal raw c len { s with cur := some t.uid }
    | .short => .done s

/-- A team's turn: a held command parks it (R251), an open region of another fragment closes (R176, R445), a comparator may hit (R410), a due
timer fires (R184), and the instruction is fetched (R60). -/
def turn (s : State) (uid : Nat) : Turn :=
  match teamOf s uid with
  | none => .done s
  | some t =>
    if !mayIssue s t then .done s
    else match chooseFrag s t with
      | (s, none) => .done s
      | (s, some f) =>
        let t := (teamOf s uid).getD t
        if t.held.isSome || !t.heldIx.isEmpty then .done (parkFrag s uid f.num .held)
        else match regionTurn t f with
          | .close n => .done (closeFor s uid n)
          | .wait n => .done (waitClose s uid n)
          | .free => match hitOf s t with
            | some k => .done (haltBench s t.core t.bench 2 t.slot k)
            | none =>
              if (dueTimer s t f).isSome then .done (fireTimer s uid) else fetchTurn s t f

/-- Whether a team with this fragment to run can issue for its open region (R445). -/
def regionLets (t : Team) (f : Frag) : Bool := match regionTurn t f with
  | .wait _ => false
  | _ => true

/-- The team that issues when nothing has been laid down: the first one whose next instruction can, in a quad that has not been charged in
this cycle (log entry 8). -/
def firstReady (s : State) : Option Team :=
  s.teams.find? fun t => mayIssue s t && (getQuad s (quadOf t.core)).charged == 0 && (nextFrag t).any (regionLets t) && !teamWithheld s t

/-- A bench with records that wait for memory, in a quad that acts in this cycle. -/
def waitingRecord (s : State) : Option (Nat × Nat) :=
  s.cores.findSome? fun c => ((List.range 4).find? fun b => pulseAt s c.1 && (getBench s c.1 b).recs != []).map fun b => (c.1, b)

/-- What happens next when nothing has been laid down (log entry 8): a step of a warm reset under way, a team's issue, a record on its way
to memory, or a cycle passes. -/
def ownChoice (s : State) : Choice :=
  if resetReady s then .reset
  else match firstReady s with
    | some t => .issue t.uid
    | none => match waitingRecord s with
      | some (c, b) => .record c b
      | none => .tick 1

/-- What happens next: the head of the agenda, or the machine's own choice. -/
def nextChoice (s : State) : Choice × List Choice := match s.agenda with
  | c :: r => (c, r)
  | [] => (ownChoice s, [])

/-- Whether an instruction is a team's, which is issued and never an event of its own. -/
def teamInstr (i : Instr) : Bool := i.encoded || (match i with
  | .illop .. => true
  | _ => false)

end Sys2Proof.Machine
end

