-- ==== Sys2Proof/Machine/Ready.lean ====
section
/-! DEFINITION. What only a trial of an instruction can say: whether a withheld team is otherwise ready (R284), and the cause of a pattern
whose operand is out of limits too (R58). No trial leaves a trace in the state. -/

namespace Sys2Proof.Machine

/-- The state in which a team's issue is tried: not withheld, in a cycle that its quad's clock passes. -/
def trialState (s : State) (t : Team) : State :=
  let q := getQuad s (quadOf t.core)
  modTeam (setQuad s (quadOf t.core) { q with pattern := 0xFFFF }) t.uid fun t => { t with exempt := true }

/-- Whether an instruction tried has left its fragment parked before it. -/
def parkedBefore (s' : State) (uid : Nat) (f : Frag) : Bool := match (teamOf s' uid).bind (fragOf · f.num) with
  | some g => g.st == .parked && g.pc == f.pc
  | none => false

/-- Whether a team's next instruction is withheld, and would issue were it not (R284). -/
def heldReady (s : State) (t : Team) : Bool :=
  teamWithheld s t && (match nextFrag t with
    | none => false
    | some f => match turn (trialState s t) t.uid with
      | .done _ => false
      | .illegal .. => true
      | .run i s => match exec i s with
        | .next s => !parkedBefore s t.uid f
        | _ => false)

/-- Whether an instruction of a team meets a limit of its operands (R51): its ILLOP has CAUSE 4. -/
def limitsFail (s : State) (uid : Nat) (i : Instr) : Bool :=
  match exec i (modTeam s uid fun t => { t with region := none, emuop := 0 }) with
  | .next s => ((teamOf s uid).map fun t => fld t.emuop 16 4 == 4).getD false
  | _ => false

/-- The lowest cause that applies to a pattern (R58): a nonzero la4 comes after an operand that the team has out of limits. -/
def illopCause (s : State) (uid : Nat) (raw : Raw) (c : Cause) : Cause :=
  let a : Parcel := BitVec.ofNat 16 raw.first
  match c with
  | .laNotLL => match decode [a &&& 0xFF0F, BitVec.ofNat 16 raw.arg, BitVec.ofNat 16 raw.f32, BitVec.ofNat 16 (raw.f32 / 65536)] with
    | .ok i _ => if limitsFail s uid i then .outOfLimits else c
    | _ => c
  | _ => c

end Sys2Proof.Machine
end

