-- ==== Sys2Proof/Machine/Step.lean ====
section
/-! DEFINITION. One step of the machine, and the placing of an instruction where it is fetched next. -/

namespace Sys2Proof.Machine

/-- A team's launch has issued, when its quad has been charged (R278, R417): s is the state before the instruction. -/
def noteIssue (s : State) (uid : Nat) (s' : State) : State := match teamOf s uid with
  | some t => if (getQuad s' (quadOf t.core)).spent = (getQuad s (quadOf t.core)).spent then s' else noteFirst s' t.launch
  | none => s'

/-- A team's instruction executed (R417). -/
def runInstr (i : Instr) (uid : Nat) (s : State) : Host.Outcome State Fault Refusal := match exec i s with
  | .next s' => .next (noteIssue s uid s')
  | o => o

/-- One step: what the state alone decides, then what happens next. -/
def step (s : State) : Host.Outcome State Fault Refusal :=
  let s := settle s
  let (c, rest) := nextChoice s
  let s := { s with agenda := rest, cur := none }
  match c with
  | .event i => if teamInstr i then .next s else exec i s
  | .reset => .next (resetStep s)
  | .coreError core u n => .next (if core < 224 then coreError s core u n else s)
  | .dieError die u n => .next (if die < 4 then dieError s die u n else s)
  | .hubError struct => .next (if struct < 4 then hubError s struct else s)
  | .podAnswer n a => .next (podAnswer s n a)
  | .record core bench => .next (if pulseAt s core then recordOut s core bench else s)
  | .issue uid => match turn s uid with
    | .done s => .next s
    | .run i s => runInstr i uid s
    | .illegal raw c len s =>
      execIllop raw.form (illopCause s uid raw c).code (BitVec.ofNat 16 raw.first) (BitVec.ofNat 16 raw.arg) (BitVec.ofNat 32 raw.f32) len s
  | .tick n => .next (pass (heldReady s) s n)
  | .evict core line => .next (if pulseAt s core then flushLine s core line else s)
  | .sliceEvict line => .next (sliceEvict s line)

/-- The tag of the context that withFetchWord makes. -/
def probeTag : Tag := 1

/-- The launch whose text holds the instruction: four parcels from the image's base + 0x40. -/
def probeLaunch (s : State) (nbits w : Nat) : Launch :=
  let ps := parcelsOf 4 (w % 2 ^ nbits)
  { id := s.hub.nextLaunch, queue := 0, prio := 0,
    pkt :=
      { image := 0, teams := 1, tsize := 2, flags := 0, partition := 0x010101, rsv14 := 0, args := 0, inline := List.replicate 8 0,
        wait := 0, sig := 0, waitval := 0, period := 0, owner := 1, rsv76 := 0, ltr := 0, seq := s.hub.nextSeq, t0 := 0, tappend := 0,
        faults := 0, acc := List.replicate 6 0 },
    tag := probeTag, base := 0, entry := 0x40, handler := 0, stackDecl := 16, localsDecl := 4, flags := 0, partition := 0x010101,
    text := ps.map some, placed := 1, retired := 0, comp := none, compStatus := none, tfirst := none, acc := List.replicate 6 0, faults := 0,
    awaits := false, elapsed := 0, fired := false, again := false }

/-- The state with an instruction where step fetches its next one (log entry 1): a context RUNNING, a launch with the instruction as its
text, one team of two lanes on an empty core, exempt from the power scheduler, and the page of its text in the micro-TLB. -/
def State.withFetchWord (s : State) (nbits w : Nat) : State :=
  let l := probeLaunch s nbits w
  let uid := s.hub.nextUid
  let e : TlbEntry :=
    { t := probeTag, page := 0, big := false, pa := 0, otag := probeTag, shr := false, prot := 0, sys := false, x := true, w := true, r := true }
  let s := setCore s 0 { Core.reset with tenancy := some l.id, cpart := 0x010101, cowner := 0x80000001, utlb := [e] }
  let s := setSlot s 0 { Slot.reset with cxctl := 0x80000001, st := 2 }
  { s with
    agenda := [.issue uid]
    teams := s.teams ++ [{ l.team uid 0 0 0 0 with exempt := true }]
    hub := { s.hub with launches := s.hub.launches ++ [l], nextLaunch := s.hub.nextLaunch + 1, nextUid := uid + 1 } }

end Sys2Proof.Machine
end

