-- ==== Sys2Proof/Safety.lean ====
section
/-! DEFINITION. What statements about the machine are said in: the team that executes, when an instruction may issue, what its issue
leaves alone, tables of results written from the rules, and the invariant of memory. -/

namespace Sys2Proof.Machine

/-- Team t is the one whose instruction the state executes, and f its running fragment (R81). -/
abbrev Runs (s : State) (t : Team) (f : Frag) : Prop :=
  s.cur = some t.uid ∧ teamOf s t.uid = some t ∧ runFrag t = some f ∧ fragOf t f.num = some f

/-- What an open region allows: nothing that R177 forbids in it, no pop below its D0, and no close while stores of it await replay. -/
def regionAllows (t : Team) (f : Frag) (sh : Shape) : Bool :=
  t.region.all fun r =>
    !sh.closed && !(r.frag == f.num && !sh.closes && decide (0 < sh.pops ∧ f.depth - sh.pops < r.d0)) && !(sh.closes && r.pendingStores != 0)

/-- Nothing keeps an instruction of this shape from issuing (R48 to R51, R66, R159, R177, R324, R424): the stack holds what it pops and has
room for what it pushes; no result that it needs is pending; the region allows it; it pops no poison; and what it must wait for is over. -/
abbrev Clear (s : State) (t : Team) (f : Frag) (sh : Shape) : Prop :=
  sh.pops ≤ f.depth ∧ f.depth + sh.pushes - sh.pops ≤ t.stackDecl ∧
  (t.pendingTop f sh.pops).all (fun e => sh.retarget && !(e.frag == f.num && decide (0 < e.window))) = true ∧
  sh.locals.all (fun k => (t.pendingLoc f k).isEmpty) = true ∧
  sh.scalars.all (fun r => !t.scalarPend.contains r.toNat) = true ∧
  regionAllows t f sh = true ∧
  (sh.moves = true ∨ t.poisonIn f sh.pops = []) ∧
  (sh.access && (t.acquiring || rowWaits s t)) = false ∧
  (sh.ordered && (t.atomPending || unperformed s t)) = false ∧
  (sh.engines && hasEngines s t) = false

/-- The bytes of an instruction (R42). -/
def bytesOf (i : Instr) : Nat := 2 * (encode i).length

/-- The state in which the instruction of fragment f has issued, before its own effect (R48, R90, R278). -/
def issued (i : Instr) (s : State) (t : Team) (f : Frag) (sh : Shape) : State := enter i s t f sh (bytesOf i)

/-- Every part of the machine but one team and the quads is as it was. -/
abbrev OthersKept (s s' : State) (uid : Nat) : Prop :=
  s'.agenda = s.agenda ∧ s'.free = s.free ∧ s'.cur = s.cur ∧ s'.regq = s.regq ∧ s'.gtime = s.gtime ∧ s'.cores = s.cores ∧
  s'.dies = s.dies ∧ s'.mem = s.mem ∧ s'.hub = s.hub ∧ s'.fabric = s.fabric ∧ ∀ n, n ≠ uid → teamOf s' n = teamOf s n

/-- A function of two words as what it makes of the popped words, TOS first. -/
def onTwo (g : Word → Word → Word) : List Word → List Word
  | [b, a] => [g a b]
  | _ => []

/-- A function of one word, likewise. -/
def onOne (g : Word → Word) : List Word → List Word
  | [a] => [g a]
  | _ => []

/-- A function of three words, likewise. -/
def onThree (g : Word → Word → Word → Word) : List Word → List Word
  | [c, b, a] => [g a b c]
  | _ => []

/-- A pair as pushed, its high half on top (R12). -/
def pairTop (d : DWord) : List Word := [hi32 d, lo32 d]

/-- A function of two pairs, likewise. -/
def onPairs (g : DWord → DWord → DWord) : List Word → List Word
  | [bhi, blo, ahi, alo] => pairTop (g (pair alo ahi) (pair blo bhi))
  | _ => []

/-- A function of a pair and a count taken modulo 64 (R137). -/
def onPairCount (g : DWord → Nat → DWord) : List Word → List Word
  | [n, ahi, alo] => pairTop (g (pair alo ahi) (n.toNat % 64))
  | _ => []

/-- The bits pos to pos + n - 1 of a word, as a number (R135). -/
def fieldOf (a : Word) (pos n : Nat) : Nat := a.toNat / 2 ^ pos % 2 ^ n

/-- n of R135. -/
def fieldLen (p q : Word) : Nat := min (q.toNat % 64) (32 - p.toNat % 32)

/-- A byte of PERMB's result, by the cases of R135. -/
def permResult (src : Nat) (mode : Nat) (zero : Bool) : Nat :=
  if zero then 0
  else if mode = 0 then src
  else if mode = 1 then (if src % 16 < 8 then src % 16 else 240 + src % 16)
  else if mode = 2 then (if src / 16 < 8 then src / 16 else 240 + src / 16)
  else if 128 ≤ src then 255 else 0

/-- PERMB's result from the eight source bytes and the selector (R135). -/
def permWord (a b sel : Word) : Word :=
  let src := fun (k : Nat) => if k < 4 then a.toNat / 256 ^ k % 256 else b.toNat / 256 ^ (k - 4) % 256
  let byte := fun (j : Nat) => let c := sel.toNat / 256 ^ j % 256; permResult (src (c % 8)) (c / 8 % 4) (decide (128 ≤ c))
  BitVec.ofNat 32 (byte 0 + 256 * byte 1 + 65536 * byte 2 + 16777216 * byte 3)

/-- The integer, bit-field, byte and select instructions of one word of result (R101, R133 to R136): the entries popped, and what they
give. -/
def integerTable : Instr → Option (Nat × (List Word → List Word))
  | .add => some (2, onTwo fun a b => BitVec.ofNat 32 (a.toNat + b.toNat))
  | .sub => some (2, onTwo fun a b => BitVec.ofInt 32 (a.toInt - b.toInt))
  | .mul => some (2, onTwo fun a b => BitVec.ofNat 32 (a.toNat * b.toNat))
  | .mulh => some (2, onTwo fun a b => BitVec.ofInt 32 (a.toInt * b.toInt / 2 ^ 32))
  | .mulhu => some (2, onTwo fun a b => BitVec.ofNat 32 (a.toNat * b.toNat / 2 ^ 32))
  | .mad => some (3, onThree fun a b c => BitVec.ofNat 32 (a.toNat * b.toNat + c.toNat))
  | .neg => some (1, onOne fun a => BitVec.ofInt 32 (-a.toInt))
  | .abs => some (1, onOne fun a => BitVec.ofNat 32 a.toInt.natAbs)
  | .min => some (2, onTwo fun a b => BitVec.ofInt 32 (min a.toInt b.toInt))
  | .max => some (2, onTwo fun a b => BitVec.ofInt 32 (max a.toInt b.toInt))
  | .minu => some (2, onTwo fun a b => BitVec.ofNat 32 (min a.toNat b.toNat))
  | .maxu => some (2, onTwo fun a b => BitVec.ofNat 32 (max a.toNat b.toNat))
  | .adds => some (2, onTwo fun a b => BitVec.ofInt 32 (max (-2147483648) (min (a.toInt + b.toInt) 2147483647)))
  | .subs => some (2, onTwo fun a b => BitVec.ofInt 32 (max (-2147483648) (min (a.toInt - b.toInt) 2147483647)))
  | .and => some (2, onTwo fun a b => a &&& b)
  | .or => some (2, onTwo fun a b => a ||| b)
  | .xor => some (2, onTwo fun a b => a ^^^ b)
  | .not => some (1, onOne fun a => BitVec.ofNat 32 (4294967295 - a.toNat))
  | .andn => some (2, onTwo fun a b => a &&& ~~~b)
  | .shl => some (2, onTwo fun a n => BitVec.ofNat 32 (a.toNat * 2 ^ (n.toNat % 32)))
  | .shr => some (2, onTwo fun a n => BitVec.ofNat 32 (a.toNat / 2 ^ (n.toNat % 32)))
  | .sar => some (2, onTwo fun a n => BitVec.ofInt 32 (a.toInt / 2 ^ (n.toNat % 32)))
  | .rotl => some (2, onTwo fun a n => (a <<< (n.toNat % 32)) ||| (a >>> (32 - n.toNat % 32)))
  | .clz => some (1, onOne fun a => BitVec.ofNat 32 ((List.range 32).takeWhile fun i => !a.getLsbD (31 - i)).length)
  | .popc => some (1, onOne fun a => BitVec.ofNat 32 ((List.range 32).countP a.getLsbD))
  | .brev => some (1, onOne BitVec.reverse)
  | .bfx => some (3, onThree fun a p q =>
      let n := fieldLen p q
      let v := fieldOf a (p.toNat % 32) n
      BitVec.ofInt 32 (if n ≠ 0 ∧ 2 ^ (n - 1) ≤ v then (v : Int) - 2 ^ n else v))
  | .bfxu => some (3, onThree fun a p q => BitVec.ofNat 32 (fieldOf a (p.toNat % 32) (fieldLen p q)))
  | .bfi => some (4, fun ws => match ws with
      | [q, p, ins, base] =>
        let n := fieldLen p q
        let pos := p.toNat % 32
        [BitVec.ofNat 32 (base.toNat - fieldOf base pos n * 2 ^ pos + ins.toNat % 2 ^ n * 2 ^ pos)]
      | _ => [])
  | .permb => some (3, onThree permWord)
  | .sel => some (3, onThree fun x y c => if c = 0 then y else x)
  | _ => none

/-- The 64-bit lane instructions (R137): the entries popped, and the pair pushed. -/
def pairTable : Instr → Option (Nat × (List Word → List Word))
  | .add64 => some (4, onPairs fun a b => BitVec.ofNat 64 (a.toNat + b.toNat))
  | .sub64 => some (4, onPairs fun a b => BitVec.ofInt 64 (a.toInt - b.toInt))
  | .mul64 => some (4, onPairs fun a b => BitVec.ofNat 64 (a.toNat * b.toNat))
  | .shl64 => some (3, onPairCount fun a n => BitVec.ofNat 64 (a.toNat * 2 ^ n))
  | .shr64 => some (3, onPairCount fun a n => BitVec.ofNat 64 (a.toNat / 2 ^ n))
  | .sar64 => some (3, onPairCount fun a n => BitVec.ofInt 64 (a.toInt / 2 ^ n))
  | .mulw => some (2, fun ws => match ws with
      | [b, a] => pairTop (BitVec.ofInt 64 (a.toInt * b.toInt))
      | _ => [])
  | _ => none

/-- DIV, DIVU, REM and REMU (R102): the window of the result, and the result; the quotient truncates toward zero, the remainder has the
sign of the dividend, and a zero divisor gives all ones and the dividend. -/
def divideTable : Instr → Option (BitVec 4 × (Word → Word → Word))
  | .div la => some (la, fun a b => if b = 0 then 0xFFFFFFFF else BitVec.ofInt 32 (Int.tdiv a.toInt b.toInt))
  | .divu la => some (la, fun a b => if b = 0 then 0xFFFFFFFF else BitVec.ofNat 32 (a.toNat / b.toNat))
  | .rem la => some (la, fun a b => if b = 0 then a else BitVec.ofInt 32 (a.toInt - b.toInt * Int.tdiv a.toInt b.toInt))
  | .remu la => some (la, fun a b => if b = 0 then a else BitVec.ofNat 32 (a.toNat % b.toNat))
  | _ => none

/-- The signed and unsigned conditions of CMP (R138). -/
def cmpTrue (cc : Cc) (a b : Word) : Bool :=
  match cc with
  | .eq => decide (a = b)
  | .ne => decide (a ≠ b)
  | .lt => decide (a.toInt < b.toInt)
  | .le => decide (a.toInt ≤ b.toInt)
  | .gt => decide (a.toInt > b.toInt)
  | .ge => decide (a.toInt ≥ b.toInt)
  | .lo => decide (a.toNat < b.toNat)
  | .ls => decide (a.toNat ≤ b.toNat)
  | .hi => decide (a.toNat > b.toNat)
  | .hs => decide (a.toNat ≥ b.toNat)
  | .un | .or => false

/-- A binary32 result of one, two or three words, TOS first, with its flags. -/
def single1 (g : Nat → FRes) : List Word → List Word × Flags
  | [a] => let r := g a.toNat; ([BitVec.ofNat 32 r.bits], r.fl)
  | _ => ([], 0)
/-- Of two words. -/
def single2 (g : Nat → Nat → FRes) : List Word → List Word × Flags
  | [b, a] => let r := g a.toNat b.toNat; ([BitVec.ofNat 32 r.bits], r.fl)
  | _ => ([], 0)
/-- Of three words. -/
def single3 (g : Nat → Nat → Nat → FRes) : List Word → List Word × Flags
  | [c, b, a] => let r := g a.toNat b.toNat c.toNat; ([BitVec.ofNat 32 r.bits], r.fl)
  | _ => ([], 0)

/-- A number from the two words of a pair. -/
def pairNat (lo hi : Word) : Nat := lo.toNat + 2 ^ 32 * hi.toNat

/-- A binary64 result as a pair, its high half on top, with its flags. -/
def doubleTop (r : FRes) : List Word × Flags := (pairTop (BitVec.ofNat 64 r.bits), r.fl)
/-- Of one pair. -/
def double1 (g : Nat → FRes) : List Word → List Word × Flags
  | [ahi, alo] => doubleTop (g (pairNat alo ahi))
  | _ => ([], 0)
/-- Of two pairs. -/
def double2 (g : Nat → Nat → FRes) : List Word → List Word × Flags
  | [bhi, blo, ahi, alo] => doubleTop (g (pairNat alo ahi) (pairNat blo bhi))
  | _ => ([], 0)
/-- Of three pairs. -/
def double3 (g : Nat → Nat → Nat → FRes) : List Word → List Word × Flags
  | [chi, clo, bhi, blo, ahi, alo] => doubleTop (g (pairNat alo ahi) (pairNat blo bhi) (pairNat clo chi))
  | _ => ([], 0)

/-- Element 0 or 1 of a packed entry (R104). -/
def half (w : Word) (j : Nat) : Nat := w.toNat / 65536 ^ j % 65536

/-- Two elements packed, with the flags of both (R104). -/
def packTwo (x y : FRes) : List Word × Flags := ([BitVec.ofNat 32 (y.bits * 65536 + x.bits)], x.fl ||| y.fl)

/-- A packed result of two entries (R141). -/
def packed2 (g : Nat → Nat → FRes) : List Word → List Word × Flags
  | [b, a] => packTwo (g (half a 0) (half b 0)) (g (half a 1) (half b 1))
  | _ => ([], 0)
/-- Of three entries. -/
def packed3 (g : Nat → Nat → Nat → FRes) : List Word → List Word × Flags
  | [c, b, a] => packTwo (g (half a 0) (half b 0) (half c 0)) (g (half a 1) (half b 1) (half c 1))
  | _ => ([], 0)

/-- A sign operation on bits below a sign bit (R107, R108): a NaN gives the canonical NaN, and NV where its quiet bit is clear. -/
def signOp (sign inf nan : Nat) (g : Nat → Nat) (a : Nat) : FRes :=
  if inf < a % 2 ^ sign then ⟨nan, if a % 2 ^ sign < nan then flNV else 0⟩ else ⟨g a, 0⟩

/-- The floating-point and packed instructions whose results are written at once (R105 to R111, R139 to R141, R143): the entries popped and
pushed, and under a value of FMT what the popped words give, TOS first, with the flags raised. -/
def floatTable : Instr → Option (Nat × Nat × (Word → List Word → List Word × Flags))
  | .fadd r => some (2, 1, fun m => single2 (addF f32F false (rndMode r m) (fmtFtz m)))
  | .fsub r => some (2, 1, fun m => single2 (addF f32F true (rndMode r m) (fmtFtz m)))
  | .fmul r => some (2, 1, fun m => single2 (mulF f32F (rndMode r m) (fmtFtz m)))
  | .ffma r => some (3, 1, fun m => single3 (fmaF f32F (rndMode r m) (fmtFtz m)))
  | .fabs => some (1, 1, fun _ => single1 (signOp 31 0x7F800000 0x7FC00000 fun a => a % 2 ^ 31))
  | .fneg => some (1, 1, fun _ => single1 (signOp 31 0x7F800000 0x7FC00000 fun a => (a + 2 ^ 31) % 2 ^ 32))
  | .frnd r => some (1, 1, fun m => single1 (frnd f32F (rndMode r m) (fmtFtz m)))
  | .dadd r => some (4, 2, fun m => double2 (addF f64F false (rndMode r m) (fmtFtz m)))
  | .dsub r => some (4, 2, fun m => double2 (addF f64F true (rndMode r m) (fmtFtz m)))
  | .dmul r => some (4, 2, fun m => double2 (mulF f64F (rndMode r m) (fmtFtz m)))
  | .dfma r => some (6, 2, fun m => double3 (fmaF f64F (rndMode r m) (fmtFtz m)))
  | .dabs => some (2, 2, fun _ => double1 (signOp 63 0x7FF0000000000000 0x7FF8000000000000 fun a => a % 2 ^ 63))
  | .dneg => some (2, 2, fun _ => double1 (signOp 63 0x7FF0000000000000 0x7FF8000000000000 fun a => (a + 2 ^ 63) % 2 ^ 64))
  | .hadd2 r => some (2, 1, fun m => packed2 (addF (packF m) false (rndMode r m) (fmtFtz m)))
  | .hmul2 r => some (2, 1, fun m => packed2 (mulF (packF m) (rndMode r m) (fmtFtz m)))
  | .hfma2 r => some (3, 1, fun m => packed3 (fmaF (packF m) (rndMode r m) (fmtFtz m)))
  | .pack2 r => some (2, 1, fun m ws => match ws with
      | [x1, x0] =>
        packTwo (fcvt f32F (packF m) (rndMode r m) (fmtFtz m) x0.toNat) (fcvt f32F (packF m) (rndMode r m) (fmtFtz m) x1.toNat)
      | _ => ([], 0))
  | .unpk2 => some (1, 2, fun m ws => match ws with
      | [p] =>
        let x := fcvt (packF m) f32F .rn (fmtFtz m) (half p 0)
        let y := fcvt (packF m) f32F .rn (fmtFtz m) (half p 1)
        ([BitVec.ofNat 32 y.bits, BitVec.ofNat 32 x.bits], x.fl ||| y.fl)
      | _ => ([], 0))
  | _ => none
/-- The floating-point instructions with a window (R112, R127, R139): the window, the entries popped and pushed, and what they give. -/
def longFloatTable : Instr → Option (BitVec 4 × Nat × Nat × (Word → List Word → List Word × Flags))
  | .fdiv la r => some (la, 2, 1, fun m => single2 (divF f32F (rndMode r m) (fmtFtz m)))
  | .fsqrt la r => some (la, 1, 1, fun m => single1 (sqrtF f32F (rndMode r m) (fmtFtz m)))
  | .frcp la => some (la, 1, 1, fun m => single1 (frcp (fmtFtz m)))
  | .frsq la => some (la, 1, 1, fun m => single1 (frsq (fmtFtz m)))
  | .fexp2 la => some (la, 1, 1, fun m => single1 (fexp2 (fmtFtz m)))
  | .flog2 la => some (la, 1, 1, fun m => single1 (flog2 (fmtFtz m)))
  | .fsin la => some (la, 1, 1, fun m => single1 (fsin (fmtFtz m)))
  | .fcos la => some (la, 1, 1, fun m => single1 (fcos (fmtFtz m)))
  | .ftanh la => some (la, 1, 1, fun m => single1 (ftanh (fmtFtz m)))
  | .ddiv la r => some (la, 4, 2, fun m => double2 (divF f64F (rndMode r m) (fmtFtz m)))
  | .dsqrt la r => some (la, 2, 2, fun m => double1 (sqrtF f64F (rndMode r m) (fmtFtz m)))
  | _ => none

/-- A team whose long-latency result, just pushed by fragment f, is pending (R49): it takes the team's next scoreboard entry. -/
def pendTop (u : Team) (f : Frag) (q : Nat) (la : BitVec 4) (waiting : Bool) : Team :=
  let d := ((fragOf u f.num).getD f).depth
  let e : SbEntry :=
    { id := u.nextSb, frag := f.num, targets := (List.range q).map fun c => (c, f.member, Target.pos (d - c)), pc := f.pc,
      window := la.toNat, waiting }
  { u with sb := u.sb ++ [e], nextSb := u.nextSb + 1 }

/-- The state with the team of a number, if it is there, replaced by what a function makes of it. -/
def withTeam (s : State) (uid : Nat) (g : Team → Team) : State := match teamOf s uid with
  | none => s
  | some u => setTeam s (g u)

/-- What an instruction leaves that issues, changes its team by g and falls through (R48, R171). -/
def after (i : Instr) (s : State) (t : Team) (f : Frag) (sh : Shape) (g : Team → Team) : State :=
  leave (modTeam (issued i s t f sh) t.uid g) t.uid f (bytesOf i)

/-- The state that a class S fault of an instruction leaves: nothing of the instruction has happened (R186). -/
def stopped (s : State) (t : Team) (f : Frag) (code info : Nat) : State := classS s t.uid code 0 info f.pc f.active none

/-- A computation on the words that each active lane pops, TOS first, which raises no flag. -/
def wordLanes (p q : Nat) (g : List Word → List Word) (u : Team) (f : Frag) : Team := laneOp p q (fun _ _ _ ws => (g ws, 0)) u f

/-- A computation on popped words under the fragment's FMT, with the flags raised. -/
def floatLanes (p q : Nat) (g : Word → List Word → List Word × Flags) (u : Team) (f : Frag) : Team :=
  laneOp p q (fun _ x _ ws => g x.fmt ws) u f

/-- The stack instructions that only move entries (R128, R132): the entries popped and pushed, and from which popped position, TOS
being 0, each pushed entry comes. -/
def moveTable : Instr → Option (Nat × List Nat)
  | .dup => some (1, [0, 0])
  | .dup2 => some (2, [0, 1, 0, 1])
  | .drop => some (1, [])
  | .drop2 => some (2, [])
  | .swap => some (2, [1, 0])
  | .swap2 => some (4, [2, 3, 0, 1])
  | .overTop => some (2, [1, 0, 1])
  | .rot => some (3, [2, 0, 1])
  | .pick k => some (k.toNat + 1, k.toNat :: List.range (k.toNat + 1))
  | .roll k => some (k.toNat + 1, k.toNat :: List.range k.toNat)
  | _ => none

/-- The pushes of constants, scalars and special registers (R128, R131): the scalars read, the entries pushed, and the words that lane l
of the team receives, TOS first. issued is the state after issue; a special register reads as specValue says. -/
def pushTable (issued : State) (f : Frag) : Instr → Option (List SReg × Nat × (Team → Nat → List Word))
  | .pushi8 imm => some ([], 1, fun _ _ => [BitVec.ofInt 32 imm.toInt])
  | .pushi32 imm => some ([], 1, fun _ _ => [imm])
  | .pushw hi imm => some ([], 2, fun _ _ => if hi then [imm, 0] else [if imm.toInt < 0 then 0xFFFFFFFF else 0, imm])
  | .pushs a => some ([a], 1, fun u _ => [BitVec.ofNat 32 (getS u a).toNat])
  | .pushs2 a => some ([a], 2, fun u _ => [BitVec.ofNat 32 ((getS u a).toNat / 2 ^ 32), BitVec.ofNat 32 (getS u a).toNat])
  | .pushx hi x => some ([], 1, fun u l =>
      [BitVec.ofNat 32 ((specValue issued u f x l).toNat / (if hi then 2 ^ 32 else 1))])
  | _ => none

/-- Z, N, C and V as bits 0 to 3 of CC, its other bits as they were (R70). -/
def ccBits (cc : Word) (z n c v : Prop) [Decidable z] [Decidable n] [Decidable c] [Decidable v] : Word :=
  BitVec.ofNat 32 (cc.toNat / 16 * 16 + (if z then 1 else 0) + (if n then 2 else 0) + (if c then 4 else 0) + (if v then 8 else 0))

/-- Whether a number lies outside the signed 64-bit numbers. -/
abbrev outside64 (x : Int) : Prop := x < -2 ^ 63 ∨ 2 ^ 63 ≤ x

/-- The two-operand scalar instructions (R154 to R156): the destination, the scalars read besides it, and from the operands' values
and CC the result and CC. Only SCMP and SCMPI have no destination. -/
def scalarTable (val : SReg → DWord) : Instr → Option (Option SReg × List SReg × DWord × (Word → Word))
  | .smov d a => some (some d, [d, a], val a, fun cc => cc)
  | .sadd d a b => add (some d) [d, a, b] (val a) (val b)
  | .ssub d a b => sub (some d) [d, a, b] (val a) (val b)
  | .smul d a b =>
    let r : DWord := BitVec.ofNat 64 ((val a).toNat * (val b).toNat)
    some (some d, [d, a, b], r, fun cc => ccBits cc (r = 0) (r.toInt < 0) False (outside64 ((val a).toInt * (val b).toInt)))
  | .sand d a b => logic d [d, a, b] (val a &&& val b)
  | .sor d a b => logic d [d, a, b] (val a ||| val b)
  | .sxor d a b => logic d [d, a, b] (val a ^^^ val b)
  | .sshl d a b => logic d [d, a, b] (BitVec.ofNat 64 ((val a).toNat * 2 ^ ((val b).toNat % 64)))
  | .sshr d a b => logic d [d, a, b] (BitVec.ofNat 64 ((val a).toNat / 2 ^ ((val b).toNat % 64)))
  | .ssar d a b => logic d [d, a, b] (BitVec.ofInt 64 ((val a).toInt / 2 ^ ((val b).toNat % 64)))
  | .scmp a b => sub none [a, b] (val a) (val b)
  | .sli d imm => some (some d, [d], BitVec.ofInt 64 imm.toInt, fun cc => cc)
  | .sliw d imm => some (some d, [d], BitVec.ofNat 64 (imm.toNat * 2 ^ 32 + (val d).toNat % 2 ^ 32), fun cc => cc)
  | .saddi d a imm => add (some d) [d, a] (val a) (BitVec.ofInt 64 imm.toInt)
  | .scmpi a imm => sub none [a] (val a) (BitVec.ofInt 64 imm.toInt)
  | _ => none
where
  /-- An addition: C the carry out, V the signed overflow. -/
  add (d : Option SReg) (regs : List SReg) (x y : DWord) : Option (Option SReg × List SReg × DWord × (Word → Word)) :=
    let r : DWord := BitVec.ofNat 64 (x.toNat + y.toNat)
    some (d, regs, r, fun cc => ccBits cc (r = 0) (r.toInt < 0) (2 ^ 64 ≤ x.toNat + y.toNat) (outside64 (x.toInt + y.toInt)))
  /-- A subtraction: C when no borrow occurs. -/
  sub (d : Option SReg) (regs : List SReg) (x y : DWord) : Option (Option SReg × List SReg × DWord × (Word → Word)) :=
    let r : DWord := BitVec.ofInt 64 (x.toInt - y.toInt)
    some (d, regs, r, fun cc => ccBits cc (x = y) (r.toInt < 0) (y.toNat ≤ x.toNat) (outside64 (x.toInt - y.toInt)))
  /-- A bitwise operation or shift: C and V clear. -/
  logic (d : SReg) (regs : List SReg) (r : DWord) : Option (Option SReg × List SReg × DWord × (Word → Word)) :=
    some (some d, regs, r, fun cc => ccBits cc (r = 0) (r.toInt < 0) False False)

/-- A lane's mask word (R115, R147): the visible lanes of its word are sources where they are active, on its own side in a protected
team; place j of lane l's word. -/
def wordPlace (t : Team) (l j : Nat) : Nat := t.sameSide l (t.vis l / 32 * 32 + j)

/-- Whether place j of lane l's word holds an active lane of the team. -/
def placeHeld (t : Team) (f : Frag) (l j : Nat) : Bool := decide (wordPlace t l j < t.width) && f.active.getLsbD (wordPlace t l j)

/-- The shuffles (R147): the entries popped, and from a lane's place in its word and its TOS the place it reads. -/
def shuffleTable : Instr → Option (Nat × (Nat → Word → Int))
  | .shflIdx => some (2, fun _ x => (x.toNat % 32 : Nat))
  | .shflXor k => if k.toNat < 32 then some (1, fun p _ => ((p ^^^ k.toNat : Nat) : Int)) else none
  | .shflUp k => if k.toNat < 32 then some (1, fun p _ => (p : Int) - k.toNat) else none
  | .shflDn k => if k.toNat < 32 then some (1, fun p _ => (p : Int) + k.toNat) else none
  | _ => none

/-- A word whose bit j is p j. -/
def wordOf (p : Nat → Bool) : Word := BitVec.ofNat 32 (((List.range 32).map fun j => if p j then 2 ^ j else 0).sum)

/-- An input as R107 has it under FTZ: a subnormal is the zero of its sign. -/
def flushed (F : FFmt) (ftz : Bool) (a : Nat) : Nat :=
  if ftz && decide (a % F.signBit < 2 ^ F.fb) then a / F.signBit * F.signBit else a

/-- Whether bits of a format are a NaN, and a signalling one (R108). -/
def nanBits (F : FFmt) (a : Nat) : Bool := decide (F.infBits < a % F.signBit)
/-- A signalling NaN: its quiet bit is clear. -/
def snanBits (F : FFmt) (a : Nat) : Bool := nanBits F a && decide (a % F.signBit < F.qnan)

/-- Bits that are no NaN, as a number that orders them: −0 comes below +0. -/
def orderKey (F : FFmt) (a : Nat) : Int := if a < F.signBit then a else -1 - ((a - F.signBit : Nat) : Int)

/-- minimumNumber and maximumNumber by the words of R110. -/
def numberMinMax (F : FFmt) (max ftz : Bool) (a0 b0 : Nat) : FRes :=
  let a := flushed F ftz a0
  let b := flushed F ftz b0
  let bits :=
    if nanBits F a && nanBits F b then F.qnan
    else if nanBits F a then b
    else if nanBits F b then a
    else if max then (if orderKey F a ≤ orderKey F b then b else a)
    else (if orderKey F a ≤ orderKey F b then a else b)
  ⟨bits, if snanBits F a || snanBits F b then flNV else 0⟩

/-- The minimum and maximum instructions. -/
def minMaxTable : Instr → Option (Nat × Nat × (Word → List Word → List Word × Flags))
  | .fmin => some (2, 1, fun m => single2 (numberMinMax f32F false (fmtFtz m)))
  | .fmax => some (2, 1, fun m => single2 (numberMinMax f32F true (fmtFtz m)))
  | .dmin => some (4, 2, fun m => double2 (numberMinMax f64F false (fmtFtz m)))
  | .dmax => some (4, 2, fun m => double2 (numberMinMax f64F true (fmtFtz m)))
  | .hmax2 => some (2, 1, fun m => packed2 (numberMinMax (packF m) true (fmtFtz m)))
  | _ => none

/-- The comparison of two floating-point inputs, and whether it sets NV, by the words of R111. -/
def numberCompare (F : FFmt) (cc : Cc) (ftz : Bool) (a0 b0 : Nat) : Bool × Flags :=
  let a := flushed F ftz a0
  let b := flushed F ftz b0
  let nan := nanBits F a || nanBits F b
  let key := fun x => if x % F.signBit = 0 then (0 : Int) else orderKey F x
  let lt := !nan && decide (key a < key b)
  let eq := !nan && decide (key a = key b)
  let gt := !nan && decide (key a > key b)
  let ordered := cc ∈ [Cc.lt, .le, .gt, .ge]
  (match cc with
    | .eq => eq
    | .ne => !eq
    | .lt => lt
    | .le => lt || eq
    | .gt => gt
    | .ge => gt || eq
    | .un => nan
    | .or => !nan
    | _ => false,
   if (if ordered then nan else snanBits F a || snanBits F b) then flNV else 0)

/-- FCMP and DCMP: the entries popped and what they give. -/
def floatCmpTable : Instr → Option (Nat × (Word → List Word → List Word × Flags))
  | .fcmp cc => if cc.fcmpOk then some (2, fun m ws => match ws with
      | [b, a] => truth (numberCompare f32F cc (fmtFtz m) a.toNat b.toNat)
      | _ => ([], 0)) else none
  | .dcmp cc => if cc.fcmpOk then some (4, fun m ws => match ws with
      | [bhi, blo, ahi, alo] => truth (numberCompare f64F cc (fmtFtz m) (pairNat alo ahi) (pairNat blo bhi))
      | _ => ([], 0)) else none
  | _ => none
where
  /-- 1 or 0, and the flag. -/
  truth (r : Bool × Flags) : List Word × Flags := ([if r.1 then 1 else 0], r.2)

/-- The identities of R116. -/
def identityOf : RedOp → Word
  | .add | .or | .xor | .maxu => 0
  | .and | .minu => 0xFFFFFFFF
  | .min => 0x7FFFFFFF
  | .max => 0x80000000
  | .fadd => 0
  | .fmin | .fmax => 0x7FC00000

/-- The integer reductions as operations on two words; none for those in f32. -/
def integerOp : RedOp → Option (Word → Word → Word)
  | .add => some fun a b => BitVec.ofNat 32 (a.toNat + b.toNat)
  | .min => some fun a b => BitVec.ofInt 32 (Min.min a.toInt b.toInt)
  | .max => some fun a b => BitVec.ofInt 32 (Max.max a.toInt b.toInt)
  | .minu => some fun a b => BitVec.ofNat 32 (Min.min a.toNat b.toNat)
  | .maxu => some fun a b => BitVec.ofNat 32 (Max.max a.toNat b.toNat)
  | .and => some fun a b => a &&& b
  | .or => some fun a b => a ||| b
  | .xor => some fun a b => a ^^^ b
  | .fadd | .fmin | .fmax => none

/-- The sides of a team: in a protected one the primaries 0 and the shadows 1 (R98). -/
def sidesOf (t : Team) : List Nat := if t.isProtected then [0, 1] else [0]

/-- The result of a scalar instruction in its destination, if it has one. -/
def setDest (u : Team) (d : Option SReg) (v : DWord) : Team := match d with
  | some r => setS u r v
  | none => u

/-- The special registers as lane l reads them, by their index (R56, R61, R68 to R74, R180, R314): LANE to TRAPCODE. In a protected team a
lane and its neighbour are one lane to programs; CORE and QUAD are logical, by DQMAP. -/
def specialTable (s : State) (t : Team) (f : Frag) (l : Nat) : List Nat :=
  let quad := (getDie s (t.core / 56)).dqmap.toNat / 16 ^ (t.core % 56 / 4) % 16
  [if t.isProtected then l / 2 else l, t.number, t.teams, if t.isProtected then t.width / 2 else t.width, t.bench,
    4 * quad + t.core % 4, quad, t.core / 56, s.fabric.fpod.toNat % 256, f.depth, t.tcyc.toNat, s.gtime.toNat, t.rprog.toNat,
    (t.region.map fun r => r.rentry.toNat).getD 0, f.fmt.toNat, t.cc.toNat, t.uhvec.toNat, t.fpsf.toNat, t.emuop.toNat, t.emuf16.toNat,
    t.emui32.toNat, t.emupc.toNat, t.trapcode.toNat]

/-- The writable special registers (R70, R71, R74). -/
def specWritten (u : Team) (x : SpecReg) (v : DWord) : Option Team := match x with
  | .cc => some { u with cc := BitVec.ofNat 32 (u.cc.toNat / 64 * 64 + v.toNat % 64) }
  | .fpsf => some { u with fpsf := BitVec.ofNat 5 v.toNat }
  | .uhvec => some { u with uhvec := BitVec.ofNat 64 (v.toNat / 2 * 2) }
  | _ => none

/-- A value that FMT may hold, field by field (R72, R73). -/
abbrev fmtDefined (v : Word) : Prop :=
  v.toNat / 65536 = 0 ∧ fieldOf v 8 3 < 3 ∧ fieldOf v 4 4 < 11 ∧ fieldOf v 0 4 < 11

/-- The lookahead windows of a fragment at their end (R48, R163). -/
def windowsOver (u : Team) (n : Nat) : List SbEntry := u.sb.map fun e => if e.frag = n then { e with window := 0 } else e

/-- A team whose fragment n goes on at pc, its windows over (R163). -/
def movedTo (u : Team) (n : Nat) (pc : DWord) : Team := modFrag { u with sb := windowsOver u n } n fun x => { x with pc }

/-- A taken branch: the loops from the innermost out whose body does not hold the target end (R162). -/
def branched (u : Team) (n : Nat) (pc : DWord) : Team :=
  movedTo { u with loops := u.loops.dropWhile fun e => !(decide (e.start.toNat ≤ pc.toNat) && decide (pc.toNat ≤ e.last.toNat)) } n pc

/-- A value as a PC holds it: bits 63:56 and bit 0 zero (R42, R68). -/
def pcBits (v : DWord) : DWord := BitVec.ofNat 64 (v.toNat % 2 ^ 56 / 2 * 2)

/-- An address a signed number of parcels away (R47). -/
def parcelsOn (pc : DWord) (n : Int) : DWord := pcBits (pc + BitVec.ofInt 64 (2 * n))

/-- The branches (R160, R161): the scalars read, whether it is taken, and its target. -/
def branchTable (t : Team) (f : Frag) : Instr → Option (List SReg × Bool × DWord)
  | .brW off => some ([], true, parcelsOn f.pc off.toInt)
  | .brL off => some ([], true, parcelsOn f.pc off.toInt)
  | .brcW c off => some ([], brHolds c t.cc, parcelsOn f.pc off.toInt)
  | .brcL c off => some ([], brHolds c t.cc, parcelsOn f.pc off.toInt)
  | .jmps a => some ([a], true, pcBits (getS t a))
  | _ => none

/-- The calls (R161): the scalars read and the target. -/
def callTable (t : Team) (f : Frag) : Instr → Option (List SReg × DWord)
  | .callW off => some ([], parcelsOn f.pc off.toInt)
  | .callL off => some ([], parcelsOn f.pc off.toInt)
  | .calls a => some ([a], pcBits (getS t a))
  | _ => none

/-- The loops (R170): the scalars read, the count and the offset of the last instruction. -/
def loopTable (t : Team) : Instr → Option (List SReg × Word × Int)
  | .loop n last => some ([], BitVec.ofNat 32 n.toNat, last.toInt)
  | .loops a last => some ([a], lo32 (getS t a), last.toInt)
  | _ => none

/-- MZ as bit 4 of CC (R164). -/
def mzBit (cc : Word) (z : Prop) [Decidable z] : Word :=
  BitVec.ofNat 32 (cc.toNat / 32 * 32 + cc.toNat % 16 + (if z then 16 else 0))

/-- What the entry to a handler leaves of a team (R180): the handler's fragment runs at UHVEC, as a PC holds
it, with the active lanes of f, and f is the
trap marker that holds the resume address. -/
def InHandler (t u : Team) (f : Frag) (resume : DWord) (code arg info : Nat) : Prop :=
  (∃ h ∈ u.frags, h.handler = true ∧ h.parent = some f.num ∧ h.pc = pcBits t.uhvec ∧ h.joinPc = 0 ∧ h.st = .run ∧ h.member = f.active ∧
    h.active = f.active ∧ h.depth = f.depth ∧ h.fmt = f.fmt ∧ h.m0 = f.m0 ∧ h.m1 = f.m1 ∧ h.m2 = f.m2 ∧ h.m3 = f.m3) ∧
  (∃ m, fragOf u f.num = some m ∧ m.trapMarker = true ∧ m.st = .hold ∧ m.pc = resume ∧ m.depth = f.depth ∧ m.member = f.member ∧
    m.active = f.active ∧ m.fmt = f.fmt) ∧
  u.loops = [] ∧ u.trapLoops = t.loops :: t.trapLoops ∧ u.sb = windowsOver t f.num ∧
  u.trapcode = BitVec.ofNat 32 (info * 65536 + arg * 256 + code) ∧
  u.lanes = t.lanes ∧ u.scalars = t.scalars ∧ u.cc = t.cc ∧ u.fpsf = t.fpsf ∧ u.calls = t.calls

/-- The byte at a physical address as a core's accesses see it (R201, R320): its cached copy where that byte is valid there, else what the
home slice holds. -/
def byteSeen (s : State) (core pa : Nat) : Byte := match cacheLine (getCore s core) (pa / 64) with
  | some x => if x.valid.getLsbD (pa % 64) then lineByte x.data (pa % 64) else Memory.get s.mem pa
  | none => Memory.get s.mem pa

/-- The byte as memory has it once the core's cache has given up its line: the cached byte where it is dirty, else what memory holds
(R201, R321). -/
def givenUp (s : State) (core pa : Nat) : Byte := match cacheLine (getCore s core) (pa / 64) with
  | some x => if x.dirty.getLsbD (pa % 64) then lineByte x.data (pa % 64) else Memory.get s.mem pa
  | none => Memory.get s.mem pa

/-- Outside the addresses of p, memory and what a core sees of it are as they were, or as a line of the core's cache given up leaves them. -/
abbrev MemoryKept (s s' : State) (core : Nat) (p : Nat → Prop) : Prop :=
  ∀ a, ¬ p a →
    (Memory.get s'.mem a = Memory.get s.mem a ∨ Memory.get s'.mem a = givenUp s core a) ∧
    (byteSeen s' core a = byteSeen s core a ∨ byteSeen s' core a = givenUp s core a)

/-- The byte that a team's open region holds for an address (R175, R177). -/
def regionByte (u : Team) (a : Nat) : Option Byte :=
  (u.region.bind fun r => r.buffer.find? fun b => b.scratch == false && b.line == a / 64).bind fun b =>
    if b.mask.getLsbD (a % 64) then some (lineByte b.data (a % 64)) else none

/-- The byte that it holds for a scratchpad offset of a core (R222). -/
def scratchByte (u : Team) (core a : Nat) : Option Byte :=
  let k := core * 4194304 + a
  (u.region.bind fun r => r.buffer.find? fun b => b.scratch && b.line == k / 64).bind fun b =>
    if b.mask.getLsbD (k % 64) then some (lineByte b.data (k % 64)) else none

/-- The snapshot of a region that fragment f opens at an address (R68, R175). -/
def snapshot (t : Team) (f : Frag) (entry : DWord) (operands : List (List Entry)) : Region :=
  { rentry := entry, frag := f.num, d0 := f.depth, fmt := f.fmt, cc := t.cc, active := f.active, member := f.member, m0 := f.m0,
    m1 := f.m1, m2 := f.m2, m3 := f.m3, loops := t.loops, operands, restarts := 0, buffer := [], pendingStores := 0, closing := none,
    kept := false }

/-- The state with a team's open region given another buffer. -/
def withBuffer (s : State) (uid : Nat) (r : Region) (buf : List BufLine) : State :=
  modTeam s uid fun u => { u with region := some { r with buffer := buf } }

/-- Nothing that follows the instruction's own effect is a LOOP_SPLIT fault (R171). -/
abbrev NoLoopSplit (t : Team) (f : Frag) : Prop := loopStep f.pc (t.othersLive f) t.loops true ≠ .split

/-- The address of layouts M and A from the lane's own offset word on top (R213). -/
def indexedAddress (a : SReg) (scale : BitVec 2) (c : Int) (u : Team) (l : Nat) : DWord :=
  BitVec.ofInt 64 ((getS u a).toInt + c + (u.opd l 0).toInt * 2 ^ scale.toNat)

/-- The address of LDA and STA from the pair on top (R217). -/
def pairAddress (c : Int) (u : Team) (l : Nat) : DWord := BitVec.ofInt 64 ((pairNat (u.opd l 1) (u.opd l 0) : Int) + c)

/-- Bytes, entries and sign extension of a width (R216). -/
def widthTable : Width → Nat × Nat × Bool
  | .w32 => (4, 1, false)
  | .n8 => (1, 1, false)
  | .i8 => (1, 1, true)
  | .n16 => (2, 1, false)
  | .i16 => (2, 1, true)
  | .w64 => (8, 2, false)

/-- The loads (R214 to R218): window, entries popped and pushed, bytes, sign, scalars read, and each lane's address. -/
def loadTable : Instr → Option (BitVec 4 × Nat × Nat × Nat × Bool × List SReg × (Team → Nat → DWord))
  | .ldW la w sc a => some (la, 1, (widthTable w).2.1, (widthTable w).1, (widthTable w).2.2, [a], indexedAddress a sc 0)
  | .ldL la w sc a c => some (la, 1, (widthTable w).2.1, (widthTable w).1, (widthTable w).2.2, [a], indexedAddress a sc c.toInt)
  | .ldaW la w => some (la, 2, (widthTable w).2.1, (widthTable w).1, (widthTable w).2.2, [], pairAddress 0)
  | .ldaL la w c => some (la, 2, (widthTable w).2.1, (widthTable w).1, (widthTable w).2.2, [], pairAddress c.toInt)
  | .ldvW la sc a => some (la, 1, 4, 16, false, [a], indexedAddress a sc 0)
  | .ldvL la sc a c => some (la, 1, 4, 16, false, [a], indexedAddress a sc c.toInt)
  | _ => none

/-- The bytes that lane l stores: n bytes of the words under the address operand, the deepest word first (R216 to R218). -/
def storedBytes (deep words n : Nat) (u : Team) (l : Nat) : List Byte :=
  (List.range n).map fun j => BitVec.ofNat 8 ((u.opd l (deep + words - 1 - j / 4)).toNat / 256 ^ (j % 4))

/-- The stores (R214 to R218): entries popped, bytes, scalars read, each lane's address and its bytes. -/
def storeTable : Instr → Option (Nat × Nat × List SReg × (Team → Nat → DWord) × (Team → Nat → List Byte))
  | .stW w sc a => some (1 + (widthTable w).2.1, (widthTable w).1, [a], indexedAddress a sc 0, storedBytes 1 (widthTable w).2.1 (widthTable w).1)
  | .stL w sc a c => some (1 + (widthTable w).2.1, (widthTable w).1, [a], indexedAddress a sc c.toInt,
      storedBytes 1 (widthTable w).2.1 (widthTable w).1)
  | .staW w => some (2 + (widthTable w).2.1, (widthTable w).1, [], pairAddress 0, storedBytes 2 (widthTable w).2.1 (widthTable w).1)
  | .staL w c => some (2 + (widthTable w).2.1, (widthTable w).1, [], pairAddress c.toInt, storedBytes 2 (widthTable w).2.1 (widthTable w).1)
  | .stvW sc a => some (5, 16, [a], indexedAddress a sc 0, storedBytes 1 4 16)
  | .stvL sc a c => some (5, 16, [a], indexedAddress a sc c.toInt, storedBytes 1 4 16)
  | _ => none

/-- The addresses of lanes are global and aligned (R212, R214). -/
abbrev AddressesOk (n : Nat) (ls : List Nat) (ea : Nat → DWord) : Prop := ∀ l ∈ ls, (ea l).toNat < 2 ^ 56 ∧ (ea l).toNat % n = 0

/-- The lanes with their addresses. -/
def withAddress (ls : List Nat) (ea : Nat → DWord) : List LaneAddr := ls.map fun l => (l, ea l)

/-- Every access has a place: no translation fault, no frame to zero first. -/
abbrev AllPlaced (fx : List Fx) : Prop := ∀ x ∈ fx, ∃ p, x = Fx.at p

/-- In a protected team both lanes of each pair agree (R97). -/
abbrev PairsAgree {α : Type} (t : Team) (ls : List Nat) (g : Nat → α) : Prop := t.isProtected = true → ∀ l ∈ ls, g l = g (l + 1)

/-- The scratchpad loads and stores (R220): whether it waits for full granules, whether it clears or sets them, the scalar and the address. -/
def spLoadTable : Instr → Option (BitVec 4 × LdsForm × SReg × (Team → Nat → DWord))
  | .ldsW la q sc a => some (la, q, a, indexedAddress a sc 0)
  | .ldsL la q sc a c => some (la, q, a, indexedAddress a sc c.toInt)
  | _ => none
/-- Whether it sets granules full. -/
def spStoreTable : Instr → Option (Bool × SReg × (Team → Nat → DWord))
  | .stsW q sc a => some (q == .fe, a, indexedAddress a sc 0)
  | .stsL q sc a c => some (q == .fe, a, indexedAddress a sc c.toInt)
  | _ => none

/-- The core and offset that a scratchpad address reaches, where it is a word's (R199). -/
def spPlace (s : State) (t : Team) (va : DWord) : Option (Nat × Nat) :=
  if va.toNat < 2 ^ 32 then (spTarget s t va.toNat).filter fun x => x.2 % 4 == 0 else none

/-- What an atomic makes of the value found, the operand and the compare value (R224): 32 bits, or 64 for dadd. -/
def atomRule (op : AtomOp) (m v cmp : DWord) : DWord :=
  let a := BitVec.ofNat 32 m.toNat
  let b := BitVec.ofNat 32 v.toNat
  let word := fun (x : Word) => BitVec.ofNat 64 x.toNat
  match op with
  | .add => word (BitVec.ofNat 32 (a.toNat + b.toNat))
  | .sub => word (BitVec.ofInt 32 (a.toInt - b.toInt))
  | .min => word (BitVec.ofInt 32 (Min.min a.toInt b.toInt))
  | .max => word (BitVec.ofInt 32 (Max.max a.toInt b.toInt))
  | .minu => word (BitVec.ofNat 32 (Min.min a.toNat b.toNat))
  | .maxu => word (BitVec.ofNat 32 (Max.max a.toNat b.toNat))
  | .and => word (a &&& b)
  | .or => word (a ||| b)
  | .xor => word (a ^^^ b)
  | .xchg => word b
  | .cas => word (if a = BitVec.ofNat 32 cmp.toNat then b else a)
  | .fadd => BitVec.ofNat 64 (addF f32F false .rn false a.toNat b.toNat).bits
  | .dadd => BitVec.ofNat 64 (addF f64F false .rn false m.toNat v.toNat).bits
  | .fmax => BitVec.ofNat 64 (numberMinMax f32F true false a.toNat b.toNat).bits

/-- What SCATADD makes of two values (R223): 32 bits, or 64 for f64. -/
def scatRule (ty : ScatTy) (a b : DWord) : DWord := match ty with
  | .i32 => BitVec.ofNat 64 ((a.toNat + b.toNat) % 2 ^ 32)
  | .f32 => BitVec.ofNat 64 (addF f32F false .rn false (a.toNat % 2 ^ 32) (b.toNat % 2 ^ 32)).bits
  | .f64 => BitVec.ofNat 64 (addF f64F false .rn false a.toNat b.toNat).bits

/-- ATOM: window, operation, order, scope, scalar and address (R224). -/
def atomTable : Instr → Option (BitVec 4 × AtomOp × MemOrder × Scope × SReg × (Team → Nat → DWord))
  | .atomW la op o sc k a => some (la, op, o, sc, a, indexedAddress a k 0)
  | .atomL la op o sc k a c => some (la, op, o, sc, a, indexedAddress a k c.toInt)
  | _ => none

/-- SCATADD: type, scalar and address (R223). -/
def scatTable : Instr → Option (ScatTy × SReg × (Team → Nat → DWord))
  | .scataddW ty k a => some (ty, a, indexedAddress a k 0)
  | .scataddL ty k a c => some (ty, a, indexedAddress a k c.toInt)
  | _ => none

/-- The cache action of a release, and of an acquire, at a scope (R227): none at core scope. -/
def releasedAt (s : State) (core : Nat) (sc : Scope) : State := if sc = .core then s else writeBackAll s core
/-- Of an acquire. -/
def acquiredAt (s : State) (core : Nat) (sc : Scope) : State := if sc = .core then s else invalidateAll s core

/-- The fences: whether it releases, whether it acquires, and its scope (R227). -/
def fenceTable : Instr → Option (Bool × Bool × Scope)
  | .fenceAcq sc => some (false, true, sc)
  | .fenceRel sc => some (true, false, sc)
  | .fenceFull sc => some (true, true, sc)
  | _ => none

/-- A synchronisation object's address (R228, R436): global, a multiple of 8, outside the pod window. -/
abbrev ObjectOk (va : DWord) : Prop := va.toNat < 2 ^ 55 ∧ va.toNat % 8 = 0

/-- The fields of a barrier word (R231): EXPECT, ARRIVED and GEN. -/
def barrierFields (w : Nat) : Nat × Nat × Nat := (w % 65536, w / 65536 % 65536, w / 2 ^ 32 % 65536)

/-- A barrier word after an arrival (R232): the last arrival clears ARRIVED and advances GEN. -/
def barrierArrived (w : Nat) : Nat :=
  let (e, a, g) := barrierFields w
  if a + 1 = e then e + (g + 1) % 65536 * 2 ^ 32 else e + (a + 1) % 65536 * 65536 + g * 2 ^ 32

/-- The barriers between cores (R233, R234): the level and the id. -/
def namedTable : Instr → Option (Nat × Nat)
  | .nbarQuad id => some (0, id.toNat)
  | .nbarDie id => some (1, id.toNat)
  | .nbarPkg id => some (2, id.toNat)
  | .gbar => some (2, 16)
  | _ => none

/-- The channels of a unit after an arrival: the one that the barrier holds counts it, or a new one is taken (R234). -/
def chanArrived (l : List Chan) (launch id members : Nat) : List Chan :=
  if l.any fun c => c.launch == launch && c.id == id then
    l.map fun c => if c.launch = launch ∧ c.id = id then { c with arrived := c.arrived + 1 } else c
  else l ++ [{ launch, id, arrived := 1, expect := members }]

/-- A tile that the core's partition holds (R245), and a fragment that holds every lane of its team active (R243). -/
abbrev TileOk (s : State) (t : Team) (n : BitVec 8) : Prop := n.toNat < 192 ∧ n.toNat < 4 * partAcc (getCore s t.core).cpart
/-- Every lane that has not exited is active. -/
abbrev Converged (t : Team) (f : Frag) : Prop := ∀ l, l < t.width → t.exited.getLsbD l = true ∨ f.active.getLsbD l = true

/-- A command as a core's matrix unit takes it from a team at issue. -/
def newMat (i : Instr) (t : Team) (f : Frag) (a b c e : DWord) : MatCmd :=
  { team := t.uid, instr := i, pc := f.pc, fmt := f.fmt, a, b, c, e, count := 0, paid := 1, lanes := [], sb := 0,
    allHelpers := decide (f.active &&& ~~~t.helpers = 0), descA := [], descB := [] }

/-- A core's matrix unit with one more command in its queue (R249). -/
def matAppended (s : State) (core : Nat) (c : MatCmd) : State := setCore s core { getCore s core with matq := (getCore s core).matq ++ [c] }
/-- A core's IXU with one more command (R264). -/
def ixAppended (s : State) (core uid : Nat) (c : IxCmd) (pc : DWord) : State :=
  setCore s core { getCore s core with ixq := (getCore s core).ixq ++ [(uid, c, pc)] }

/-- A scalar that is pending from now on; s0 never is (R69, R153). -/
def scalarAwaited (u : Team) (r : SReg) : Team := if r = 0 then u else { u with scalarPend := u.scalarPend ++ [r.toNat] }

/-- The sparse and dense products: whether their operands are full/empty reads, the operands and the tile. -/
def productTable : Instr → Option (Bool × SReg × SReg × SReg × SReg × BitVec 8)
  | .mma fe a b c e tile => some (fe, a, b, c, e, tile)
  | .mmaz fe a b c e tile => some (fe, a, b, c, e, tile)
  | _ => none
/-- The sparse ones, and whether the form is BSR. -/
def sparseTable : Instr → Option (Bool × Bool × SReg × SReg × SReg × SReg × BitVec 8)
  | .mmaBsr fe a b c e tile => some (true, fe, a, b, c, e, tile)
  | .mmaCsr fe a b c e tile => some (false, fe, a, b, c, e, tile)
  | _ => none

/-- QNT and DQNT: the HSE type's code, the scalar with the descriptor, and for DQNT the window (R144, R146). -/
def quantTable : Instr → Option (Nat × SReg × Option (BitVec 4))
  | .qntHse2 a => some (8, a, none)
  | .qntHse4 a => some (9, a, none)
  | .qntHse7 a => some (10, a, none)
  | .dqntHse2 la a => some (8, a, some la)
  | .dqntHse4 la a => some (9, a, some la)
  | .dqntHse7 la a => some (10, a, some la)
  | _ => none

/-- F as bit 5 of CC (R376, R395). -/
def fBit (cc : Word) (z : Prop) [Decidable z] : Word := BitVec.ofNat 32 (cc.toNat / 64 * 64 + cc.toNat % 32 + (if z then 32 else 0))

/-- What a team receives from an activity or pool instruction (R376, R387): a value with F 0, or 0 with F 1. -/
def answered (s : State) (uid : Nat) (d : SReg) (v : Option DWord) : State :=
  modTeam s uid fun u => { setS u d (v.getD 0) with cc := fBit u.cc (v = none) }

/-- From the state store (R395): a value with F 0, or bit 63 and a status with F 1. -/
def storeAnswered (s : State) (uid : Nat) (d : SReg) (v : Except Nat DWord) : State :=
  modTeam s uid fun u => match v with
    | .ok x => { setS u d x with cc := fBit u.cc False }
    | .error c => { setS u d (BitVec.ofNat 64 (2 ^ 63 + c)) with cc := fBit u.cc True }

/-- The waits of a release at pkg scope are over (R254, R324). -/
abbrev ReleaseReady (s : State) (t : Team) : Prop := (t.atomPending || unperformed s t) = false ∧ hasEngines s t = false

/-- The 64 bytes of a compensation entry (R372): STEP, KEY, ROUTINE, ARGS, the handle's low word, TAG, STATE 1, PREV and the time. -/
def stepBytes (n key routine args : DWord) (a : Activity) (time : DWord) : List Byte :=
  leBytes 8 n.toNat ++ leBytes 8 key.toNat ++ leBytes 8 routine.toNat ++ leBytes 8 args.toNat ++
    leBytes 4 (a.tag.toNat * 2 ^ 20 + a.gen * 2 ^ 8 + a.slot) ++ leBytes 2 a.tag.toNat ++ leBytes 2 1 ++
    leBytes 8 (match a.last with
      | some (d, i) => 2 ^ 63 + d * 2 ^ 61 + i
      | none => 0) ++ leBytes 8 time.toNat ++ leBytes 8 0

/-- A hub that a new activity opens in (R369, R376). -/
def opened (s : State) (a : Activity) : State :=
  { s with hub := { s.hub with
    acts := s.hub.acts ++ [a]
    actgen := (a.tag, a.slot, a.gen) :: s.hub.actgen.filter fun x => !(x.1 == a.tag && x.2.1 == a.slot) } }

/-- A compensation entry that the hub reads is sound: its line is not poisoned (R373). -/
abbrev EntrySound (s : State) (e : Nat × Nat) : Prop :=
  homePoison (homeTouch s (entryAddr s e.1 e.2 / 64) 0 0 true) (entryAddr s e.1 e.2 / 64) = none

/-- The hub but for its activities. -/
abbrev HubButActs (h h' : Hub) : Prop := { h' with acts := h.acts } = h

/-- A handle names record r in slot j for a team (R391); USER 0 is none (R392). -/
abbrev RecordOf (s : State) (t : Team) (h : DWord) (j : Nat) (r : SsRec) : Prop :=
  j = h.toNat % 65536 ∧ j < s.hub.store.slots ∧ r = s.hub.store.rec' j ∧ r.st ≠ 0 ∧ h.toNat / 65536 % 16 = r.gen ∧
    h.toNat / 2 ^ 20 % 4096 = r.owner.toNat ∧ (t.tag = r.owner ∨ (r.user ≠ 0 ∧ t.tag = r.user))

/-- A fragment of a team READY again, and nothing else of the machine but the team's fragments other than before (R80). -/
abbrev Woken (s s' : State) (t : Team) (f : Frag) : Prop :=
  OthersKept s s' t.uid ∧ s'.quads = s.quads ∧
    ∃ u, teamOf s' t.uid = some u ∧ fragOf u f.num = some { f with st := .ready, wait := none } ∧ { u with frags := t.frags } = t

/-- The pairs that a stream of two lists of indices emits, head by head (R266, R267). -/
def drawPairs : Nat → List Nat → List Nat → IxStream → List (Word × Word)
  | 0, _, _, _ => []
  | fuel + 1, a, b, x => match ixStep x a[x.pa]? b[x.pb]? with
    | none => []
    | some (y, p) => p.toList ++ drawPairs fuel a b y

/-- A stream at its start. -/
def newStream (mode : IxMode) (a b : List Nat) : IxStream :=
  { mode, a := 0, b := 0, alen := a.length, blen := b.length, maxOut := 0, pa := 0, pb := 0, lastA := none, lastB := none, ended := false }

/-- The context of a slot is the valid one of its tag, in a state. -/
abbrev ContextAt (s : State) (n : Nat) (tag : Tag) : Prop :=
  slotOfTag s tag = some n ∧ (getSlot s n).cxctl.getLsbD 31 = true ∧ (getSlot s n).cxctl.setWidth 12 = tag

/-- Every memory in its canonical form: the home slices' bytes, each core's pool, the bodies of the state store. -/
abbrev Canonical (s : State) : Prop :=
  Memory.wf s.mem = true ∧ (∀ c ∈ s.cores, Memory.wf c.2.pool = true) ∧ ∀ g ∈ s.hub.store.granules, Memory.wf g.2.cells = true

/-- Teams hold no open region: what stops them leaves memory alone. -/
abbrev Quiet (s : State) : Prop := ∀ u ∈ s.teams, u.region = none

/-- The instructions that only compute on lanes' entries and are done at once: the entries popped and pushed. -/
def laneShape (i : Instr) : Option (Nat × Nat) :=
  match integerTable i, pairTable i, floatTable i, minMaxTable i, floatCmpTable i with
  | some (p, _), _, _, _, _ => some (p, 1)
  | _, some (p, _), _, _, _ => some (p, 2)
  | _, _, some (p, q, _), _, _ => some (p, q)
  | _, _, _, some (p, q, _), _ => some (p, q)
  | _, _, _, _, some (p, _) => some (p, 1)
  | _, _, _, _, _ => none

/-- What an instruction of fragment f that computes on registers alone leaves of its team, its lanes, scalars, CC and FPSF apart: the
fragment but for its PC, depth and shelf; the other fragments; the pending results but for their windows; the loops, unless one ends here. -/
abbrev TeamKept (t u : Team) (f g : Frag) : Prop :=
  ({ g with pc := f.pc, depth := f.depth, shelf := f.shelf } : Frag) = f ∧
  (∀ n, n ≠ f.num → (fragOf u n).map (fun x => ({ x with low := 0 } : Frag)) = (fragOf t n).map (fun x => ({ x with low := 0 } : Frag))) ∧
  u.sb.map (fun e => ({ e with window := 0 } : SbEntry)) = t.sb.map (fun e => ({ e with window := 0 } : SbEntry)) ∧
  (u.loops = t.loops ∨ ∃ e r, t.loops = e :: r ∧ e.last = f.pc) ∧
  ({ u with
      lanes := t.lanes, scalars := t.scalars, cc := t.cc, fpsf := t.fpsf, frags := t.frags, sb := t.sb, loops := t.loops
      exempt := t.exempt, withheld := t.withheld } : Team) = t

/-- What a step does before it looks at an instruction: the settled machine with the head of the agenda taken. -/
def started (s : State) : State := { settle s with agenda := (nextChoice (settle s)).2, cur := none }

/-- The fragment of a team that runs at its turn, and the state then: the running one; where none runs, the READY one that R81 chooses, RUN
from now on, its spilled lanes reloaded (R84). -/
def Chosen (s : State) (t : Team) (S : State) (f : Frag) : Prop :=
  (runFrag t = some f ∧ S = s) ∨
  (runFrag t = none ∧ ∃ g, t.nextReady = some g ∧ f = { g with st := .run, spilled := false } ∧
    S = if g.spilled then spillTeam (setTeam s (setFrag t f)) t.uid else setTeam s (setFrag t f))

/-- A team whose fragment f fetches its next instruction at the team's turn: no command of it is held back, no comparator hits, no other
fragment's region is open, no timer is due, and the fetch has translated (R60, R176, R184, R251, R302, R410). -/
abbrev Fetches (S : State) (t : Team) (f : Frag) (S' : State) : Prop :=
  t.held = none ∧ t.heldIx = [] ∧ hitOf S t = none ∧ regionTurn t f = .free ∧ dueTimer S t f = none ∧ fetchCheck S t f = .ok S'

/-- The four parcels at a fragment's PC. -/
def parcelsAt (s : State) (t : Team) (pc : DWord) : List Parcel :=
  [parcelAt s t pc, parcelAt s t (pc + 2), parcelAt s t (pc + 4), parcelAt s t (pc + 6)]

/-- Bits of a format that are no infinity and no NaN. -/
abbrev finiteBits (F : FFmt) (b : Nat) : Prop := b < 2 ^ F.width ∧ b / 2 ^ F.fb % 2 ^ F.eb ≠ 2 ^ F.eb - 1

/-- The value of finite bits (R103). -/
def valueOf (F : FFmt) (b : Nat) : ℚ :=
  let fr := b % 2 ^ F.fb
  let ex := b / 2 ^ F.fb % 2 ^ F.eb
  let mag : ℚ := if ex = 0 then fr * 2 ^ F.emin else (2 ^ F.fb + fr) * 2 ^ (F.emin + ex - 1)
  if b / F.signBit % 2 = 1 then -mag else mag

/-- The largest finite value of a format, and half the step below it. -/
def largest (F : FFmt) : ℚ := valueOf F (F.infBits - 1)
/-- Half the step below the largest finite value. -/
def halfStep (F : FFmt) : ℚ := (largest F - valueOf F (F.infBits - 2)) / 2

/-- r is the greatest finite value that is not above x. -/
abbrev GreatestBelow (F : FFmt) (x : ℚ) (r : Nat) : Prop :=
  finiteBits F r ∧ valueOf F r ≤ x ∧ ∀ y, finiteBits F y → valueOf F y ≤ x → valueOf F y ≤ valueOf F r
/-- r is the least finite value that is not below x. -/
abbrev LeastAbove (F : FFmt) (x : ℚ) (r : Nat) : Prop :=
  finiteBits F r ∧ x ≤ valueOf F r ∧ ∀ y, finiteBits F y → x ≤ valueOf F y → valueOf F r ≤ valueOf F y

/-- r is the exact value x rounded once in a mode, with overflow (R105, R106). -/
def RoundsTo (F : FFmt) (md : RMode) (x : ℚ) (r : Nat) : Prop :=
  match md with
  | .rn =>
    if |x| < largest F + halfStep F then
      finiteBits F r ∧ ∀ y, finiteBits F y → |valueOf F r - x| ≤ |valueOf F y - x| ∧
        (valueOf F y ≠ valueOf F r → |valueOf F y - x| = |valueOf F r - x| → r % 2 = 0)
    else r = withSign F (decide (x < 0)) F.infBits
  | .rz => if 0 ≤ x then GreatestBelow F x r else LeastAbove F x r
  | .ru => if largest F < x then r = F.infBits else LeastAbove F x r
  | .rd => if x < -largest F then r = F.signBit + F.infBits else GreatestBelow F x r

/-- Whether x overflows a format in a mode: rounded with an unbounded exponent it lies beyond the largest finite value (R106). -/
def Overflows (F : FFmt) (md : RMode) (x : ℚ) : Prop :=
  let up := largest F + 2 * halfStep F
  match md with
  | .rn => largest F + halfStep F ≤ |x|
  | .rz => up ≤ |x|
  | .ru => largest F < x ∨ x ≤ -up
  | .rd => x < -largest F ∨ up ≤ x

/-- Whether x is tiny in a mode: rounded with an unbounded exponent it lies below the least normal value (R106). -/
def Tiny (F : FFmt) (md : RMode) (x : ℚ) : Prop :=
  let least : ℚ := 2 ^ (F.emin + F.fb)
  let away := |x| ≤ least - 2 ^ (F.emin - 1)
  match md with
  | .rn => |x| < least - 2 ^ (F.emin - 2)
  | .rz => |x| < least
  | .ru => if x < 0 then |x| < least else away
  | .rd => if x < 0 then away else |x| < least

/-- A result is the exact value x rounded once, and its flags are OF, UF and NX as R109 gives them. -/
def RoundedOnce (F : FFmt) (md : RMode) (x : ℚ) (r : FRes) : Prop :=
  RoundsTo F md x r.bits ∧ (r.fl.getLsbD 0 = false ∧ r.fl.getLsbD 1 = false) ∧ (r.fl.getLsbD 2 = true ↔ Overflows F md x) ∧
    (r.fl.getLsbD 4 = true ↔ ¬ (finiteBits F r.bits ∧ valueOf F r.bits = x)) ∧
    (r.fl.getLsbD 3 = true ↔ r.fl.getLsbD 4 = true ∧ Tiny F md x)

/-- A result under FTZ: a nonzero subnormal is a zero of its sign, with UF and NX (R107). -/
def flushedResult (F : FFmt) (r : FRes) : FRes :=
  if 0 < r.bits % F.signBit ∧ r.bits % F.signBit < 2 ^ F.fb then ⟨r.bits / F.signBit * F.signBit, flUF ||| flNX⟩ else r

/-- The sign of some bits. -/
def negBits (F : FFmt) (b : Nat) : Bool := decide (b / F.signBit % 2 = 1)
/-- Bits of an infinity. -/
def infiniteBits (F : FFmt) (b : Nat) : Bool := decide (b % F.signBit = F.infBits)
/-- Bits of a zero. -/
def zeroBits (F : FFmt) (b : Nat) : Bool := decide (b % F.signBit = 0)

/-- A NaN operand gives the canonical NaN, and NV where one is signalling (R108, R109). -/
def nanRule (F : FFmt) (l : List Nat) : Option FRes :=
  if l.any (nanBits F) then some ⟨F.qnan, if l.any (snanBits F) then flNV else 0⟩ else none

/-- The sum of a and ±b where an operand is a NaN or an infinity (R108, R109). -/
def specialSum (F : FFmt) (sub : Bool) (a b : Nat) : Option FRes :=
  let nb := negBits F b != sub
  (nanRule F [a, b]).or <|
    if infiniteBits F a && infiniteBits F b && negBits F a != nb then some ⟨F.qnan, flNV⟩
    else if infiniteBits F a then some ⟨withSign F (negBits F a) F.infBits, 0⟩
    else if infiniteBits F b then some ⟨withSign F nb F.infBits, 0⟩
    else none

/-- The product where an operand is a NaN or an infinity. -/
def specialProduct (F : FFmt) (a b : Nat) : Option FRes :=
  (nanRule F [a, b]).or <|
    if infiniteBits F a && zeroBits F b || zeroBits F a && infiniteBits F b then some ⟨F.qnan, flNV⟩
    else if infiniteBits F a || infiniteBits F b then some ⟨withSign F (negBits F a != negBits F b) F.infBits, 0⟩
    else none

/-- a × b + c where an operand is a NaN or an infinity: 0 × ∞ is invalid whatever c is. -/
def specialFused (F : FFmt) (a b c : Nat) : Option FRes :=
  let np := negBits F a != negBits F b
  let product := infiniteBits F a || infiniteBits F b
  if infiniteBits F a && zeroBits F b || zeroBits F a && infiniteBits F b then some ⟨F.qnan, flNV⟩
  else (nanRule F [a, b, c]).or <|
    if product && infiniteBits F c && negBits F c != np then some ⟨F.qnan, flNV⟩
    else if product then some ⟨withSign F np F.infBits, 0⟩
    else if infiniteBits F c then some ⟨withSign F (negBits F c) F.infBits, 0⟩
    else none

/-- The quotient where an operand is a NaN or an infinity, or the divisor is zero. -/
def specialQuotient (F : FFmt) (a b : Nat) : Option FRes :=
  let n := negBits F a != negBits F b
  (nanRule F [a, b]).or <|
    if infiniteBits F a && infiniteBits F b || zeroBits F a && zeroBits F b then some ⟨F.qnan, flNV⟩
    else if infiniteBits F a then some ⟨withSign F n F.infBits, 0⟩
    else if infiniteBits F b then some ⟨withSign F n 0, 0⟩
    else if zeroBits F b then some ⟨withSign F n F.infBits, flDZ⟩
    else none

/-- The square root of a NaN, an infinity, a zero or a value below −0. -/
def specialRoot (F : FFmt) (a : Nat) : Option FRes :=
  (nanRule F [a]).or <|
    if zeroBits F a then some ⟨withSign F (negBits F a) 0, 0⟩
    else if negBits F a then some ⟨F.qnan, flNV⟩
    else if infiniteBits F a then some ⟨F.infBits, 0⟩
    else none

/-- n is the exact value x rounded to an integer in a mode (R105, R114, R140). -/
def RoundsToInt (md : RMode) (x : ℚ) (n : ℤ) : Prop :=
  match md with
  | .rn => |x - n| ≤ 1 / 2 ∧ (|x - n| = 1 / 2 → n % 2 = 0)
  | .rz => n = if 0 ≤ x then ⌊x⌋ else ⌈x⌉
  | .ru => n = ⌈x⌉
  | .rd => n = ⌊x⌋

/-- The floating-point types of CVT (R54, R103). -/
def floatType : CvtTy → Option FFmt
  | .f16 => some f16F
  | .bf16 => some bf16F
  | .f32 => some f32F
  | .f64 => some f64F
  | _ => none

/-- The integer types of CVT: whether signed, and the width (R54). -/
def intType : CvtTy → Option (Bool × Nat)
  | .i8 => some (true, 8)
  | .n8 => some (false, 8)
  | .i16 => some (true, 16)
  | .n16 => some (false, 16)
  | .i32 => some (true, 32)
  | .n32 => some (false, 32)
  | .i64 => some (true, 64)
  | .n64 => some (false, 64)
  | _ => none

/-- The least and the greatest value of an integer type. -/
def typeLo (k : Bool × Nat) : ℤ := if k.1 then -2 ^ (k.2 - 1) else 0
/-- The greatest. -/
def typeHi (k : Bool × Nat) : ℤ := if k.1 then 2 ^ (k.2 - 1) - 1 else 2 ^ k.2 - 1

/-- The low bits of a number as a value of an integer type. -/
def typeValue (k : Bool × Nat) (v : ℤ) : ℤ := if k.1 then (BitVec.ofInt k.2 v).toInt else ((BitVec.ofInt k.2 v).toNat : ℤ)

/-- r is the reciprocal of the square root of x to nearest, said through squares. -/
def RecipRootOf (x : ℚ) (r : Nat) : Prop :=
  finiteBits f32F r ∧ 0 ≤ valueOf f32F r ∧ ∀ y, finiteBits f32F y → 0 ≤ valueOf f32F y →
    (valueOf f32F r < valueOf f32F y → 1 ≤ x * ((valueOf f32F r + valueOf f32F y) / 2) ^ 2) ∧
    (valueOf f32F y < valueOf f32F r → x * ((valueOf f32F r + valueOf f32F y) / 2) ^ 2 ≤ 1)

/-- r is the square root of x rounded in a mode, said through squares. -/
def RootOf (F : FFmt) (md : RMode) (x : ℚ) (r : Nat) : Prop :=
  finiteBits F r ∧ 0 ≤ valueOf F r ∧ ∀ y, finiteBits F y → 0 ≤ valueOf F y →
    match md with
    | .rn => (valueOf F r < valueOf F y → x ≤ ((valueOf F r + valueOf F y) / 2) ^ 2) ∧
        (valueOf F y < valueOf F r → ((valueOf F r + valueOf F y) / 2) ^ 2 ≤ x)
    | .rz | .rd => valueOf F r ^ 2 ≤ x ∧ (valueOf F y ^ 2 ≤ x → valueOf F y ≤ valueOf F r)
    | .ru => x ≤ valueOf F r ^ 2 ∧ (x ≤ valueOf F y ^ 2 → valueOf F r ≤ valueOf F y)

/-- An f32 word as the quantiser takes it (R107, R123): nothing for a NaN, an infinity as 2^128 with its sign, a subnormal as zero under FTZ. -/
def quantInput (ftz : Bool) (w : Word) : Option ℚ :=
  if nanBits f32F w.toNat then none
  else if finiteBits f32F w.toNat then some (if ftz = true ∧ |valueOf f32F w.toNat| < 2 ^ (-126 : ℤ) then 0 else valueOf f32F w.toNat)
  else some (if w.toNat < f32F.signBit then 2 ^ 128 else -2 ^ 128)

/-- Group g of a row starts a block (R120). -/
def blockStart (bmap : List Byte) (g : Nat) : Bool := g == 0 || (bmap.getD (g / 8) 0).getLsbD (g % 8)

/-- The exponent byte of group g's block (R120, R146). -/
def blockExp (bmap exps : List Byte) (g : Nat) : Nat :=
  (exps.getD ((List.range g).countP fun k => blockStart bmap (k + 1)) 0).toNat

/-- The sub-shift of element j of group g (R119). -/
def elemShift (micro : List Byte) (g j : Nat) : Nat := (micro.getD g 0).toNat / 4 ^ (j / 4) % 4

/-- The code of element j of group g, an integer of 1 + m bits (R118). -/
def elemCode (m : Nat) (elem : List Byte) (g j : Nat) : ℤ :=
  (BitVec.ofNat (1 + m) (leNat ((elem.drop (2 * (1 + m) * g)).take (2 * (1 + m))) / 2 ^ (j * (1 + m)))).toInt

/-- The value of a code in a block of exponent E with sub-shift u, nothing where it is a NaN (R119). -/
def codeValue (m e u : Nat) (c : ℤ) : Option ℚ :=
  if e = 0 then some 0 else if e = 255 then none else some (c * 2 ^ ((e : ℤ) - 127 - m - u))

/-- e of R123: the exponent that a group of inputs asks for. -/
def GroupExponent (g : List (Option ℚ)) (e : Nat) : Prop :=
  if none ∈ g then e = 255
  else if ∀ x ∈ g, x = some 0 then e = 0
  else ∃ (a : ℚ) (k : ℤ), (some a ∈ g ∨ some (-a) ∈ g) ∧ (∀ x, some x ∈ g → |x| ≤ a) ∧ 2 ^ k ≤ a ∧ a < 2 ^ (k + 1) ∧
    (e : ℤ) = max 1 (min (k + 128) 254)

/-- r(x, v) of R123 is n. -/
def QuantRounds (m e v : Nat) (x : Option ℚ) (n : ℤ) : Prop := RoundsToInt .rn (x.getD 0 * 2 ^ (127 + m + v - e : ℤ)) n

/-- fits(v) of R123 for a quarter of inputs. -/
def QuantFits (m e v : Nat) (q : List (Option ℚ)) : Prop := ∀ x ∈ q, ∃ n : ℤ, QuantRounds m e v x n ∧ -2 ^ m ≤ n ∧ n ≤ 2 ^ m - 1

/-- What R123 says of group g of a row of inputs x and its streams: where its block starts and with which exponent, and each element's
code and sub-shift. -/
def QuantGroup (m : Nat) (r : HseRow) (x : Nat → Option ℚ) (g : Nat) : Prop :=
  let e := blockExp r.bmap r.exps g
  let before := blockExp r.bmap r.exps (g - 1)
  (∃ a, GroupExponent ((List.range 16).map fun j => x (16 * g + j)) a ∧
    ((r.bmap.getD (g / 8) 0).getLsbD (g % 8) = true ↔
      g = 0 ∨ before = 255 ∨ a = 255 ∨ (a ≠ 0 ∧ (before = 0 ∨ before < a ∨ a + 2 ≤ before))) ∧
    ((r.bmap.getD (g / 8) 0).getLsbD (g % 8) = true → e = a)) ∧
  ∀ j < 16,
    let u := elemShift r.micro g j
    let c := elemCode m r.elem g j
    let quarter := (List.range 4).map fun i => x (16 * g + j / 4 * 4 + i)
    (e = 0 ∨ e = 255 → c = 0 ∧ u = 0) ∧
    (e ≠ 0 → e ≠ 255 →
      (∃ n, QuantRounds m e u (x (16 * g + j)) n ∧ c = max (-2 ^ m) (min n (2 ^ m - 1))) ∧
      (QuantFits m e u quarter ∨ u = 0) ∧ ∀ v, u < v → v ≤ 3 → ¬ QuantFits m e v quarter)

/-- The f32 word of a code and the flags of its read (R107, R119, R146). -/
def DequantOf (m e u : Nat) (c : ℤ) (ftz : Bool) (w : Word) (fl : Flags) : Prop :=
  match codeValue m e u c with
  | none => w = 0x7FC00000 ∧ fl = 0
  | some q =>
    if q = 0 then w = 0 ∧ fl = 0
    else if ftz = true ∧ |q| < 2 ^ (-126 : ℤ) then w.toNat = withSign f32F (decide (q < 0)) 0 ∧ fl = flUF ||| flNX
    else finiteBits f32F w.toNat ∧ valueOf f32F w.toNat = q ∧ fl = 0

/-- r comes of c by a chain of fused steps, one rounding each, while the values are finite (R117). -/
def FusedChain (F : FFmt) : List (Nat × Nat) → Nat → Nat → Prop
  | [], c, r => r = c
  | (x, y) :: l, c, r => ∃ d, (finiteBits F c → RoundsTo F .rn (valueOf F x * valueOf F y + valueOf F c) d) ∧ FusedChain F l d r

/-- r comes of c by adding an exact sum of products, rounded once to f32 and then added with one more rounding (R117). -/
def ChunkAdded (x : ℚ) (c r : Nat) : Prop :=
  ∃ d, RoundsTo f32F .rn x d ∧ (finiteBits f32F d → RoundsTo f32F .rn (valueOf f32F d + valueOf f32F c) r) ∧ (¬ finiteBits f32F d → r = d)

/-- The rational value of a value that is finite. -/
def finiteValue : FV → Option ℚ
  | .fin n m e => some ((if n then -(m : ℚ) else m) * 2 ^ e)
  | _ => none

/-- Element k of n bytes in packed bytes. -/
def packedAt (b : List Byte) (n k : Nat) : Nat := leNat ((b.drop (n * k)).take n)

/-- The floating-point type of a dense or sparse operand's code (R72). -/
def operandType (code : Nat) : FFmt := if code = 0 then f32F else if code = 1 then f64F else if code = 2 then f16F else bf16F

/-- The matrix instructions that pass the checks of decoding but for their tile: the tile, and what they pop, push and read (R243 to R265). -/
def matTable : Instr → Option (BitVec 8 × Shape)
  | .mma _ a b c e n | .mmaz _ a b c e n | .mmaBsr _ a b c e n | .mmaCsr _ a b c e n => some (n, { scalars := [a, b, c, e] })
  | .accz n => some (n, {})
  | .accld _ a b n ty => if ty.toNat < 12 then some (n, { scalars := [a, b] }) else none
  | .accst _ a b c n ty _ amax => if ty.toNat < 15 then some (n, { scalars := if amax then [a, b, c] else [a, b] }) else none
  | .accrd _ wide n => some (n, { pops := 1, pushes := if wide then 2 else 1 })
  | .accwr wide n => some (n, { pops := if wide then 3 else 2 })
  | _ => none

end Sys2Proof.Machine
end

