-- ==== Sys2Proof/Certificates/Slice0/Obligations.lean ====
section
/-! DEFINITION. The statements about the machine. -/

open Sys2Proof Sys2Proof.Machine

/-- Issuing (R48, R90, R278): the fragment's quad is charged, and no other quad changes; the PC moves past the instruction, the windows of
the fragment count down, a pause and a withholding of it are over, and nothing else of the machine, of the fragment or of the team changes
but the shelf and the lowest depth that a trap marker notes. Pops and pushes (R87): every
member lane loses p entries; an active one takes what the instruction gives from the entries it popped, another as many zeros as are
pushed; other lanes keep their stacks, every lane keeps its locals, and the depth follows. The faults of R51 that come before any effect:
too few entries, too many, and a pop inside a window (R48, R87); the stop is precise. The model's choices that it rests on: log entries
10, 14. -/
def Obligations.IssueEffect : Prop :=
  (∀ i s t f sh, Runs s t f →
    OthersKept s (issued i s t f sh) t.uid ∧
    (∀ q, getQuad (issued i s t f sh) q =
      if q = quadOf t.core then
        { getQuad s q with
          allow := (getQuad s q).allow - BitVec.ofNat 64 (issueCost i (passes t f)),
          charged := (getQuad s q).charged + issueCost i (passes t f), spent := (getQuad s q).spent + issueCost i (passes t f) }
      else getQuad s q) ∧
    ∃ u g, teamOf (issued i s t f sh) t.uid = some u ∧ fragOf u f.num = some g ∧
      g.pc = f.pc + BitVec.ofNat 64 (bytesOf i) ∧ g.shelf = shelfAfter f.depth f.shelf sh.pops sh.pushes ∧ g.paused = 0 ∧
      ({ g with pc := f.pc, shelf := f.shelf, paused := f.paused, low := f.low } : Frag) = f ∧
      u.sb = t.sb.map (fun e => if e.frag = f.num then { e with window := e.window - 1 } else e) ∧
      (∀ n, n ≠ f.num → (fragOf u n).map (fun x => { x with low := 0 }) = (fragOf t n).map (fun x => { x with low := 0 })) ∧
      u.exempt = false ∧ u.withheld = 0 ∧ { u with sb := t.sb, frags := t.frags, exempt := t.exempt, withheld := t.withheld } = t) ∧
  (∀ (t : Team) (f x : Frag) p q (g : Nat → List Entry → List Entry), fragOf t f.num = some x →
    (∀ i (l : Lane), t.lanes[i]? = some l → (t.stackOp f p q g).lanes[i]? = some
      { l with stack := if f.member.getLsbD i
          then (if f.active.getLsbD i then g i (l.stack.take p) else List.replicate q Entry.zero) ++ l.stack.drop p
          else l.stack }) ∧
    (t.stackOp f p q g).lanes.length = t.lanes.length ∧
    fragOf (t.stackOp f p q g) f.num = some ({ x with depth := x.depth + q - p } : Frag) ∧
    (∀ n, n ≠ f.num → fragOf (t.stackOp f p q g) n = fragOf t n) ∧
    ({ t.stackOp f p q g with lanes := t.lanes, frags := t.frags } : Team) = t) ∧
  (∀ s t f i p q, Runs s t f →
    ((∃ g, integerTable i = some (p, g) ∧ q = 1) ∨ (∃ g, pairTable i = some (p, g) ∧ q = 2) ∨ (∃ g, floatTable i = some (p, q, g))) →
    (f.depth < p → exec i s = .next (stopped s t f 0x07 0)) ∧
    (p ≤ f.depth → t.stackDecl < f.depth + q - p → exec i s = .next (stopped s t f 0x08 0)) ∧
    (p ≤ f.depth → f.depth + q - p ≤ t.stackDecl → (∃ e ∈ t.pendingTop f p, e.frag = f.num ∧ 0 < e.window) →
      exec i s = .next (stopped s t f 0x09 0)))

/-- Constants, scalars and special registers pushed (R128, R131). The stack instructions move entries, poison and all, as the table says
(R93, R128, R132). PUSHL, PUSHL2, POPL and POPL2 within the locals that the team declares (R67, R128, R130): the last local of a pair is
TOS; a pop writes the locals of active lanes only, and a pending result that it pops goes on to the local. Beyond the locals: ILLOP with
CAUSE 4. The model's choices that it rests on: log entry 14. -/
def Obligations.StackMoves : Prop :=
  (∀ s t f i regs q w, Runs s t f → pushTable (issued i s t f { pushes := 1 }) f i = some (regs, q, w) →
    Clear s t f { pushes := q, scalars := regs } →
    exec i s = .next (after i s t f { pushes := q, scalars := regs } fun u => u.stackOp f 0 q fun l _ => (w u l).map Entry.clean)) ∧
  (∀ s t f i p ks, Runs s t f → moveTable i = some (p, ks) → Clear s t f { pops := p, pushes := ks.length, moves := true } →
    ∃ g : List Entry → List Entry, (∀ es, es.length = p → g es = ks.map fun k => es.getD k Entry.zero) ∧
      exec i s = .next (after i s t f { pops := p, pushes := ks.length, moves := true } fun u => u.stackOp f p ks.length fun _ es => g es)) ∧
  (∀ s t f (k : BitVec 8), Runs s t f →
    (k.toNat < t.localsDecl → Clear s t f { pushes := 1, moves := true, locals := [k.toNat] } →
      exec (.pushl k) s = .next (after (.pushl k) s t f { pushes := 1, moves := true, locals := [k.toNat] } fun u =>
        u.stackOp f 0 1 fun l _ => [(u.lane l).local k.toNat])) ∧
    (k.toNat + 1 < t.localsDecl → Clear s t f { pushes := 2, moves := true, locals := [k.toNat, k.toNat + 1] } →
      exec (.pushl2 k) s = .next (after (.pushl2 k) s t f { pushes := 2, moves := true, locals := [k.toNat, k.toNat + 1] } fun u =>
        u.stackOp f 0 2 fun l _ => [(u.lane l).local (k.toNat + 1), (u.lane l).local k.toNat])) ∧
    (k.toNat < t.localsDecl → Clear s t f { pops := 1, moves := true, retarget := true } →
      exec (.popl k) s = .next (after (.popl k) s t f { pops := 1, moves := true, retarget := true } fun u =>
        ((retarget u f f.depth k.toNat).mapLanes fun l x =>
          if f.active.getLsbD l then { x with locals := listSet x.locals k.toNat (x.at 0) } else x).stackOp f 1 0 fun _ _ => [])) ∧
    (k.toNat + 1 < t.localsDecl → Clear s t f { pops := 2, moves := true, retarget := true } →
      exec (.popl2 k) s = .next (after (.popl2 k) s t f { pops := 2, moves := true, retarget := true } fun u =>
        ((retarget (retarget u f f.depth (k.toNat + 1)) f (f.depth - 1) k.toNat).mapLanes fun l x =>
          if f.active.getLsbD l then
            { x with locals := listSet (listSet x.locals (k.toNat + 1) (x.at 0)) k.toNat (x.at 1) }
          else x).stackOp f 2 0 fun _ _ => [])) ∧
    (t.localsDecl ≤ k.toNat → ∀ i ∈ [Instr.pushl k, .popl k], exec i s = .next (raise s i t f (bytesOf i) (.illop 4))) ∧
    (t.localsDecl ≤ k.toNat + 1 → ∀ i ∈ [Instr.pushl2 k, .popl2 k], exec i s = .next (raise s i t f (bytesOf i) (.illop 4))))

/-- The integer, bit-field, byte and select instructions (R101, R133 to R136). The 64-bit lane instructions on pairs whose high half is on
top (R12, R137). CMP pushes 1 or 0 by its condition; un and or are illegal there (R53, R126, R138). -/
def Obligations.IntegerResults : Prop :=
  (∀ s t f i p g, Runs s t f → integerTable i = some (p, g) → Clear s t f { pops := p, pushes := 1 } →
    exec i s = .next (after i s t f { pops := p, pushes := 1 } fun u => wordLanes p 1 g u f)) ∧
  (∀ s t f i p g, Runs s t f → pairTable i = some (p, g) → Clear s t f { pops := p, pushes := 2 } →
    exec i s = .next (after i s t f { pops := p, pushes := 2 } fun u => wordLanes p 2 g u f)) ∧
  (∀ s t f (cc : Cc), Runs s t f →
    (cc ∉ [Cc.un, .or] → Clear s t f { pops := 2, pushes := 1 } →
      exec (.cmp cc) s = .next (after (.cmp cc) s t f { pops := 2, pushes := 1 } fun u =>
        wordLanes 2 1 (onTwo fun a b => if cmpTrue cc a b then 1 else 0) u f)) ∧
    (cc ∈ [Cc.un, .or] → exec (.cmp cc) s = .next (raise s (.cmp cc) t f 2 (.illop 4))))

/-- DIV, DIVU, REM and REMU (R49, R102, R127, R134): the result is pending under the next scoreboard entry; with FMT.DIVT a zero divisor
in an active lane traps before the pop. The model's choices that it rests on: log entry 14. -/
def Obligations.DivideResults : Prop :=
  ∀ s t f i la g, Runs s t f → divideTable i = some (la, g) → Clear s t f { pops := 2, pushes := 1 } →
    (t.sb.length < 16 → (f.fmt.getLsbD 15 = false ∨ ∀ l ∈ t.activeLanes f, t.opd l 0 ≠ 0) →
      exec i s = .next (leave (withTeam (issued i s t f { pops := 2, pushes := 1 }) t.uid fun u =>
        pendTop (wordLanes 2 1 (onTwo g) u f) f 1 la false) t.uid f (bytesOf i))) ∧
    (f.fmt.getLsbD 15 = true → (∃ l ∈ t.activeLanes f, t.opd l 0 = 0) →
      exec i s = .next (raise s i t f (bytesOf i) (.trap 2 0)))

/-- FCMP and DCMP (R111, R138): quiet for eq, ne, un and or, NV on any NaN for lt, le, gt and ge; lo, ls, hi and hs are illegal (R53). -/
def Obligations.FloatCompareRule : Prop :=
  ∀ s t f, Runs s t f →
    (∀ i p g, floatCmpTable i = some (p, g) → Clear s t f { pops := p, pushes := 1 } →
      exec i s = .next (after i s t f { pops := p, pushes := 1 } fun u => floatLanes p 1 g u f)) ∧
    (∀ cc ∈ [Cc.lo, .ls, .hi, .hs], ∀ i ∈ [Instr.fcmp cc, .dcmp cc], exec i s = .next (raise s i t f 2 (.illop 4)))

/-- FMIN, FMAX, DMIN, DMAX and HMAX2 are minimumNumber and maximumNumber (R110). -/
def Obligations.MinMaxRule : Prop :=
  ∀ s t f i p q g, Runs s t f → minMaxTable i = some (p, q, g) → Clear s t f { pops := p, pushes := q } →
    exec i s = .next (after i s t f { pops := p, pushes := q } fun u => floatLanes p q g u f)

/-- Floating-point and packed instructions written at once: the result in every active lane, and the flags of all of them in FPSF (R71,
R104 to R110, R139 to R143). The floating-point instructions with a window: the result is pending under the next scoreboard entry (R49,
R112, R127, R139). CVT between two types of R54 (R113, R114, R142); equal types, and saturation to a floating-point type, are illegal. The
model's choices that it rests on: log entries 14, 19, 20. -/
def Obligations.FloatResults : Prop :=
  (∀ s t f i p q g, Runs s t f → floatTable i = some (p, q, g) → Clear s t f { pops := p, pushes := q } →
    exec i s = .next (after i s t f { pops := p, pushes := q } fun u => floatLanes p q g u f)) ∧
  (∀ s t f i la p q g, Runs s t f → longFloatTable i = some (la, p, q, g) → Clear s t f { pops := p, pushes := q } →
    t.sb.length < 16 →
    exec i s = .next (leave (withTeam (issued i s t f { pops := p, pushes := q }) t.uid fun u =>
      pendTop (floatLanes p q g u f) f q la false) t.uid f (bytesOf i))) ∧
  (∀ s t f (src dst : CvtTy) (r : Rnd) (sat : Bool), Runs s t f →
    (src ≠ dst → (sat && dst.isFloat) = false →
      Clear s t f { pops := if src.is64 then 2 else 1, pushes := if dst.is64 then 2 else 1 } →
      exec (.cvt src dst r sat) s = .next (after (.cvt src dst r sat) s t f
          { pops := if src.is64 then 2 else 1, pushes := if dst.is64 then 2 else 1 } fun u =>
        floatLanes (if src.is64 then 2 else 1) (if dst.is64 then 2 else 1) (fun m ws =>
          let x := match ws with
            | [hi, lo] => pairNat lo hi
            | [a] => a.toNat
            | _ => 0
          let y := cvtOne src dst (rndMode r m) (sat || fmtSat m) (fmtFtz m) x
          (if dst.is64 then pairTop y.1 else [BitVec.ofNat 32 y.1.toNat], y.2)) u f)) ∧
    (src = dst ∨ (sat && dst.isFloat) = true →
      exec (.cvt src dst r sat) s = .next (raise s (.cvt src dst r sat) t f (bytesOf (.cvt src dst r sat)) (.illop 4))))

/-- Arithmetic is exact and rounded once to its format (R103, R105, R106, R109): sums, differences, products, fused products and sums,
quotients and square roots of finite operands, subnormals honoured, with OF, UF (tiny after rounding and inexact) and NX; an exact zero sum of
operands of opposite sign is +0, in .rd −0, and of zeros of one sign has it; a product's or quotient's sign is that of its operands. NaN and
infinity operands and a zero divisor give the results, NV and DZ of R108 and R109. Under FTZ (R107) each is the operation on flushed operands,
a subnormal result flushed with UF and NX. Conversions (R113, R114): to a floating-point type the value is rounded once to it; between integer
types the low bits are kept, or the value clamped; to an integer type the value is rounded to an integer, and out of range or a NaN gives a
limit, 0 or the indefinite, with NV. FRND rounds to an integral value and sets no NX (R140). FRCP and FRSQ to nearest, FEXP2 of an integer,
FLOG2 of a power of two, and the special results of R112. -/
def Obligations.RoundingRule : Prop :=
  (∀ F ∈ [f16F, bf16F, f32F, f64F], ∀ md a b c, finiteBits F a → finiteBits F b → finiteBits F c →
    let x := valueOf F a
    let y := valueOf F b
    let sum := (addF F false md false a b).bits
    (∀ v r, (v, r) ∈ [(x + y, addF F false md false a b), (x - y, addF F true md false a b), (x * y, mulF F md false a b),
        (x * y + valueOf F c, fmaF F md false a b c)] ∨ (y ≠ 0 ∧ v = x / y ∧ r = divF F md false a b) → RoundedOnce F md v r) ∧
    (0 ≤ x → RootOf F md x (sqrtF F md false a).bits ∧
      (sqrtF F md false a).fl = if valueOf F (sqrtF F md false a).bits ^ 2 = x then 0 else flNX) ∧
    (negBits F a ≠ negBits F b → x + y = 0 → sum = if md = .rd then F.signBit else 0) ∧
    (negBits F a = negBits F b → x + y = 0 → sum = withSign F (negBits F a) 0) ∧
    negBits F (mulF F md false a b).bits = (negBits F a != negBits F b) ∧
    (y ≠ 0 → negBits F (divF F md false a b).bits = (negBits F a != negBits F b))) ∧
  (∀ F ∈ [f16F, bf16F, f32F, f64F], ∀ md a b c, a < 2 ^ F.width → b < 2 ^ F.width → c < 2 ^ F.width →
    (∀ v r, (v, r) ∈ [(specialSum F false a b, addF F false md false a b), (specialSum F true a b, addF F true md false a b),
        (specialProduct F a b, mulF F md false a b), (specialFused F a b c, fmaF F md false a b c),
        (specialQuotient F a b, divF F md false a b), (specialRoot F a, sqrtF F md false a)] → ∀ w ∈ v, r = w) ∧
    (let x := flushed F true a
     let y := flushed F true b
     ∀ r q, (r, q) ∈ [(addF F false md true a b, addF F false md false x y), (addF F true md true a b, addF F true md false x y),
        (mulF F md true a b, mulF F md false x y), (fmaF F md true a b c, fmaF F md false x y (flushed F true c)),
        (divF F md true a b, divF F md false x y), (sqrtF F md true a, sqrtF F md false x)] → r = flushedResult F q) ∧
    frnd F md true a = frnd F md false (flushed F true a)) ∧
  (∀ src dst md sat (x : Nat),
    (∀ F, floatType src = some F →
      let b := x % 2 ^ F.width
      let r := cvtOne src dst md sat false x
      (∀ G, floatType dst = some G →
        (finiteBits F b → RoundedOnce G md (valueOf F b) ⟨r.1.toNat, r.2⟩) ∧
        (nanBits F b = true → r = (BitVec.ofNat 64 G.qnan, if snanBits F b then flNV else 0)) ∧
        (infiniteBits F b = true → r = (BitVec.ofNat 64 (withSign G (negBits F b) G.infBits), 0)) ∧
        (let flush := cvtOne src dst md sat false (flushed F true b)
         let q := flushedResult G ⟨flush.1.toNat, flush.2⟩
         cvtOne src dst md sat true x = (BitVec.ofNat 64 q.bits, q.fl))) ∧
      (∀ k, intType dst = some k → cvtOne src dst md sat true x = cvtOne src dst md sat false (flushed F true b))) ∧
    (∀ k G, intType src = some k → floatType dst = some G →
      let r := cvtOne src dst md sat false x
      RoundedOnce G md (typeValue k x) ⟨r.1.toNat, r.2⟩ ∧ cvtOne src dst md sat true x = r) ∧
    (∀ k m, intType src = some k → intType dst = some m →
      cvtOne src dst md sat false x =
        (BitVec.ofInt 64 (if sat then max (typeLo m) (min (typeValue k x) (typeHi m)) else typeValue m (typeValue k x)), 0)) ∧
    (∀ F k, floatType src = some F → intType dst = some k →
      let b := x % 2 ^ F.width
      let r := cvtOne src dst md sat false x
      let indefinite := if k.1 then typeLo k else typeHi k
      (∀ n, finiteBits F b → RoundsToInt md (valueOf F b) n →
        (typeLo k ≤ n → n ≤ typeHi k → r.1 = BitVec.ofInt 64 n ∧ r.2 = if valueOf F b = n then 0 else flNX) ∧
        (n < typeLo k → r = (BitVec.ofInt 64 (if sat then typeLo k else indefinite), flNV)) ∧
        (typeHi k < n → r = (BitVec.ofInt 64 (if sat then typeHi k else indefinite), flNV))) ∧
      (infiniteBits F b = true →
        r = (BitVec.ofInt 64 (if sat then (if negBits F b then typeLo k else typeHi k) else indefinite), flNV)) ∧
      (nanBits F b = true → r = (BitVec.ofInt 64 (if sat then 0 else indefinite), flNV)))) ∧
  (∀ F ∈ [f32F, f64F], ∀ md a n, finiteBits F a → RoundsToInt md (valueOf F a) n →
    finiteBits F (frnd F md false a).bits ∧ valueOf F (frnd F md false a).bits = n ∧ (frnd F md false a).fl = 0) ∧
  (∀ a, finiteBits f32F a → let x := valueOf f32F a
    (x ≠ 0 → RoundsTo f32F .rn (1 / x) (frcp false a).bits) ∧
    (0 < x → RecipRootOf x (frsq false a).bits) ∧
    (x < 0 → frsq false a = ⟨0x7FC00000, flNV⟩ ∧ flog2 false a = ⟨0x7FC00000, flNV⟩) ∧
    (∀ n : ℤ, x = n → RoundsTo f32F .rn (2 ^ n) (fexp2 false a).bits) ∧
    (∀ n : ℤ, x = 2 ^ n → RoundsTo f32F .rn n (flog2 false a).bits)) ∧
  (∀ a, a < 2 ^ 32 →
    (∀ op ∈ [frcp, frsq, fexp2, flog2, fsin, fcos, ftanh], op true a = op true (flushed f32F true a) ∧
      ∀ w ∈ nanRule f32F [a], op false a = w) ∧
    frcp true a = flushedResult f32F (frcp false (flushed f32F true a)) ∧ frsq true a = flushedResult f32F (frsq false (flushed f32F true a))) ∧
  (frcp false 0 = ⟨0x7F800000, flDZ⟩ ∧ frcp false 0x80000000 = ⟨0xFF800000, flDZ⟩ ∧ frcp false 0x7F800000 = ⟨0, 0⟩ ∧
    frcp false 0xFF800000 = ⟨0x80000000, 0⟩ ∧ frsq false 0 = ⟨0x7F800000, flDZ⟩ ∧ frsq false 0x80000000 = ⟨0xFF800000, flDZ⟩ ∧
    frsq false 0x7F800000 = ⟨0, 0⟩ ∧ fexp2 false 0xFF800000 = ⟨0, 0⟩ ∧ fexp2 false 0x7F800000 = ⟨0x7F800000, 0⟩ ∧
    flog2 false 0 = ⟨0xFF800000, flDZ⟩ ∧ flog2 false 0x80000000 = ⟨0xFF800000, flDZ⟩ ∧ flog2 false 0x7F800000 = ⟨0x7F800000, 0⟩ ∧
    fsin false 0 = ⟨0, 0⟩ ∧ fsin false 0x80000000 = ⟨0x80000000, 0⟩ ∧ fcos false 0 = ⟨0x3F800000, 0⟩ ∧
    fcos false 0x80000000 = ⟨0x3F800000, 0⟩ ∧ fsin false 0x7F800000 = ⟨0x7FC00000, flNV⟩ ∧ fcos false 0xFF800000 = ⟨0x7FC00000, flNV⟩ ∧
    ftanh false 0x7F800000 = ⟨0x3F800000, 0⟩ ∧ ftanh false 0xFF800000 = ⟨0xBF800000, 0⟩ ∧ ftanh false 0 = ⟨0, 0⟩ ∧
    ftanh false 0x80000000 = ⟨0x80000000, 0⟩)

/-- The shuffles (R98, R147): a lane receives the source operand of the active lane that stands at its target place in its word, on its
own side, and its own where the target is outside the word or not active. A count of 32 or more is illegal. BALLOT and CONFLICT (R98,
R148): bit j tells of the active lane at place j of the lane's word: its flag is not zero; it stands below the lane and holds the same
value. -/
def Obligations.ShuffleResults : Prop :=
  (∀ s t f, Runs s t f →
    (∀ i p target, shuffleTable i = some (p, target) → Clear s t f { pops := p, pushes := 1 } →
      exec i s = .next (after i s t f { pops := p, pushes := 1 } fun u => laneOp p 1 (fun v x l ws =>
        let n := target (v.vis l % 32) ((ws.head?).getD 0)
        let from' := if 0 ≤ n ∧ n < 32 ∧ placeHeld v x l n.toNat = true then wordPlace v l n.toNat else l
        ([v.opd from' (p - 1)], 0)) u f)) ∧
    (∀ k : BitVec 8, 32 ≤ k.toNat → ∀ i ∈ [Instr.shflXor k, .shflUp k, .shflDn k],
      exec i s = .next (raise s i t f (bytesOf i) (.illop 4)))) ∧
  (∀ s t f, Runs s t f → Clear s t f { pops := 1, pushes := 1 } →
    exec .ballot s = .next (after .ballot s t f { pops := 1, pushes := 1 } fun u => laneOp 1 1 (fun v x l _ =>
      ([wordOf fun j => placeHeld v x l j && v.opd (wordPlace v l j) 0 != 0], 0)) u f) ∧
    exec .conflict s = .next (after .conflict s t f { pops := 1, pushes := 1 } fun u => laneOp 1 1 (fun v x l _ =>
      ([wordOf fun j => placeHeld v x l j && decide (j < v.vis l % 32) && v.opd (wordPlace v l j) 0 == v.opd l 0], 0)) u f))

/-- VOTE, READL and REDUCE (R98, R115, R149, R150, R152): each result is the one that every side of the team gives; sides of a protected
team whose results differ raise SDC_DETECT with nothing done. The vote clears N, C and V. REDUCE.b also pushes its result, which is pending. SCAN
(R115, R151): each lane receives the reduction over the lanes of its side up to itself, or below it with .excl; the result is pending. An
integer reduction does not depend on the tree (R115, R150): it is the operation applied to the present lanes' values in turn. The model's
choices that it rests on: log entries 14, 20, 21. -/
def Obligations.TeamWideResults : Prop :=
  (∀ s t f, Runs s t f →
    (∀ z, Clear s t f { pops := 1 } → (∀ x ∈ sidesOf t, z = decide (∃ l ∈ t.sources f x, t.opd l 0 ≠ 0)) →
      exec .voteAny s = .next (after .voteAny s t f { pops := 1 } fun u =>
        { u.stackOp f 1 0 (fun _ _ => []) with cc := ccBits u.cc (z = true) False False False })) ∧
    (∀ z, Clear s t f { pops := 1 } → (∀ x ∈ sidesOf t, z = decide (∀ l ∈ t.sources f x, t.opd l 0 ≠ 0)) →
      exec .voteAll s = .next (after .voteAll s t f { pops := 1 } fun u =>
        { u.stackOp f 1 0 (fun _ _ => []) with cc := ccBits u.cc (z = true) False False False })) ∧
    (∀ sd v, Clear s t f { pops := 1, scalars := [sd] } →
      (∀ x ∈ sidesOf t, v = ((t.sources f x).head?.map fun l => t.opd l 0).getD 0) →
      exec (.readl sd) s = .next (after (.readl sd) s t f { pops := 1, scalars := [sd] } fun u =>
        setS (u.stackOp f 1 0 fun _ _ => []) sd (v.setWidth 64))) ∧
    (∀ la op sd v, Clear s t f { pops := 1, scalars := [sd] } → (∀ x ∈ sidesOf t, (reduceSide t f op x 1024).1 = v) →
      exec (.reduce la op false sd) s = .next (after (.reduce la op false sd) s t f { pops := 1, scalars := [sd] } fun u =>
        { setS (u.stackOp f 1 0 fun _ _ => []) sd (v.setWidth 64) with fpsf := u.fpsf ||| (reduceSide t f op 0 1024).2 })) ∧
    (∀ la op sd v, Clear s t f { pops := 1, pushes := 1, scalars := [sd] } → t.sb.length < 16 →
      (∀ x ∈ sidesOf t, (reduceSide t f op x 1024).1 = v) →
      exec (.reduce la op true sd) s = .next (leave (withTeam (issued (.reduce la op true sd) s t f { pops := 1, pushes := 1 }) t.uid
        fun u => pendTop { setS (u.stackOp f 1 1 fun _ _ => [Entry.clean v]) sd (v.setWidth 64) with
          fpsf := u.fpsf ||| (reduceSide t f op 0 1024).2 } f 1 la false)
        t.uid f (bytesOf (.reduce la op true sd)))) ∧
    (t.isProtected = true → Clear s t f { pops := 1 } →
      (decide (∃ l ∈ t.sources f 0, t.opd l 0 ≠ 0) ≠ decide (∃ l ∈ t.sources f 1, t.opd l 0 ≠ 0) →
        exec .voteAny s = .next (raise s .voteAny t f 2 (.fault 0x20 0 none))) ∧
      (decide (∀ l ∈ t.sources f 0, t.opd l 0 ≠ 0) ≠ decide (∀ l ∈ t.sources f 1, t.opd l 0 ≠ 0) →
        exec .voteAll s = .next (raise s .voteAll t f 2 (.fault 0x20 0 none)))) ∧
    (t.isProtected = true → ∀ sd,
      (Clear s t f { pops := 1, scalars := [sd] } →
        ((t.sources f 0).head?.map fun l => t.opd l 0).getD 0 ≠ ((t.sources f 1).head?.map fun l => t.opd l 0).getD 0 →
        exec (.readl sd) s = .next (raise s (.readl sd) t f 4 (.fault 0x20 0 none))) ∧
      (∀ la op b, Clear s t f { pops := 1, pushes := if b then 1 else 0, scalars := [sd] } →
        (reduceSide t f op 0 1024).1 ≠ (reduceSide t f op 1 1024).1 →
        exec (.reduce la op b sd) s = .next (raise s (.reduce la op b sd) t f 4 (.fault 0x20 0 none))))) ∧
  (∀ s t f la op excl, Runs s t f → Clear s t f { pops := 1, pushes := 1 } → t.sb.length < 16 →
    exec (.scan la op excl) s = .next (leave (withTeam (issued (.scan la op excl) s t f { pops := 1, pushes := 1 }) t.uid fun u =>
      pendTop (laneOp 1 1 (fun v x l _ =>
        let r := reduceSide v x op (if v.isProtected then l % 2 else 0) (v.vis l + (if excl then 0 else 1))
        ([r.1], r.2)) u f) f 1 la false) t.uid f (bytesOf (.scan la op excl)))) ∧
  (∀ t f op g x bound, integerOp op = some g →
    reduceSide t f op x bound =
      ((((List.range ((t.nlane + 31) / 32 * 32)).filterMap (sourceVals t f x bound)).foldl g (identityOf op)), 0))

/-- The result when no lane is present, and of SCAN.excl at the lowest present lane, is the identity of the table, with no flag (R116). -/
def Obligations.ReduceIdentities : Prop :=
  ∀ t f op x, (∀ bound, (∀ v, v < bound → sourceVals t f x bound v = none) → reduceSide t f op x bound = (identityOf op, 0)) ∧
    (∀ l, (∀ v, v < t.vis l → ¬ f.active.getLsbD (t.sameSide x v) = true) → reduceSide t f op x (t.vis l) = (identityOf op, 0))

/-- The scalar instructions: the result, exact flags and reserved bits of CC (R69, R70, R154 to R156). s0 reads as zero and discards what
is written to it; another scalar reads as it was last written, the others as before (R69). The model's choices that it rests on: log entry
21. -/
def Obligations.ScalarResults : Prop :=
  (∀ s t f i d regs r cc, Runs s t f → scalarTable (getS t) i = some (d, regs, r, cc) → Clear s t f { scalars := regs } →
    exec i s = .next (after i s t f { scalars := regs } fun u => { setDest u d r with cc := cc u.cc })) ∧
  (∀ (u : Team) (v : DWord), u.scalars.length = 32 →
    getS u 0 = 0 ∧ setS u 0 v = u ∧
    (∀ r : SReg, r ≠ 0 → getS (setS u r v) r = v) ∧
    (∀ r q : SReg, q ≠ r → getS (setS u r v) q = getS u q) ∧
    (∀ r : SReg, { setS u r v with scalars := u.scalars } = u ∧ (setS u r v).scalars.length = 32))

/-- The frames of the instructions that compute on lanes or on scalars: no other part of the machine, no other team, no memory changes; a
lane keeps its locals and the entries under those it pops, one outside the fragment all of its stack; scalars, CC and FPSF keep what the
instruction's own rule does not write (R69 to R71, R87). -/
def Obligations.RegisterFrames : Prop :=
  ∀ s t f i, Runs s t f → NoLoopSplit t f →
    (∀ p q, laneShape i = some (p, q) → Clear s t f { pops := p, pushes := q } →
      ∃ s' u g, exec i s = .next s' ∧ OthersKept s s' t.uid ∧ (∀ k, k ≠ quadOf t.core → getQuad s' k = getQuad s k) ∧
        teamOf s' t.uid = some u ∧ fragOf u f.num = some g ∧ TeamKept t u f g ∧ g.depth = f.depth + q - p ∧
        u.lanes.length = t.lanes.length ∧
        (∀ j (l : Lane), t.lanes[j]? = some l → ∃ l', u.lanes[j]? = some l' ∧ l'.locals = l.locals ∧
          (f.member.getLsbD j = false → l' = l) ∧
          (f.member.getLsbD j = true → ∃ top, l'.stack = top ++ l.stack.drop p ∧ (p ≤ l.stack.length → top.length = q))) ∧
        u.scalars = t.scalars ∧ u.cc = t.cc ∧ u.fpsf &&& t.fpsf = t.fpsf ∧
        ((integerTable i).isSome ∨ (pairTable i).isSome → u.fpsf = t.fpsf)) ∧
    (∀ d regs r cc, scalarTable (getS t) i = some (d, regs, r, cc) → Clear s t f { scalars := regs } →
      ∃ s' u g, exec i s = .next s' ∧ OthersKept s s' t.uid ∧ (∀ k, k ≠ quadOf t.core → getQuad s' k = getQuad s k) ∧
        teamOf s' t.uid = some u ∧ fragOf u f.num = some g ∧ TeamKept t u f g ∧ g.depth = f.depth ∧ u.lanes = t.lanes ∧
        u.fpsf = t.fpsf ∧ u.cc.toNat / 16 = t.cc.toNat / 16 ∧ ∀ x : SReg, d ≠ some x → getS u x = getS t x)

/-- SREAD, SWRITE, PWRPRIO, PWRREAD, TIMER.V, TIMER.G, DEMOTE, PAUSE and NOP (R157, R166, R184, R185, R287, R288); a read of LANE gives
the lowest active lane, and a register that may not be written is illegal. The special registers are those of the table of R56, each the
state that its index names; the power status word has the fields of R288. SWRITE (R70, R71, R74, R157): CC keeps its reserved bits, FPSF
has five bits, UHVEC loses bit 0. FMT in both forms (R72 to R74, R174): a value of defined codes replaces the fragment's FMT; another
raises ILLOP with CAUSE 4, and FMT stays. CORE as the logical core within its die and QUAD as the logical quad by DQMAP are the model's
reading, log entry 27. The model's choices that it rests on: log entries 27, 28. -/
def Obligations.SpecialResults : Prop :=
  (∀ s t f, Runs s t f →
    (∀ sd x, Clear s t f { scalars := [sd] } →
      exec (.sread sd x) s = .next (after (.sread sd x) s t f { scalars := [sd] } fun u =>
        setS u sd (specValue (issued (.sread sd x) s t f {}) t f x (((t.activeLanes f).head?).getD 0)))) ∧
    (∀ sd, Clear s t f { scalars := [sd] } →
      exec (.pwrread sd) s = .next (after (.pwrread sd) s t f { scalars := [sd] } fun u =>
        setS u sd (pwrStatus (issued (.pwrread sd) s t f {}) (quadOf t.core) t.pwrprio))) ∧
    (∀ p, Clear s t f {} → exec (.pwrprio p) s = .next (after (.pwrprio p) s t f {} fun u => { u with pwrprio := p })) ∧
    (∀ sa, Clear s t f { scalars := [sa] } →
      exec (.timerV sa) s = .next (after (.timerV sa) s t f { scalars := [sa] } fun u =>
        { u with timerV := { deadline := getS t sa, armed := decide (getS t sa ≠ 0) } }) ∧
      exec (.timerG sa) s = .next (after (.timerG sa) s t f { scalars := [sa] } fun u =>
        { u with timerG := { deadline := getS t sa, armed := decide (getS t sa ≠ 0) }, gHeld := 0 })) ∧
    (Clear s t f {} →
      exec .demote s = .next (after .demote s t f {} fun u => { u with helpers := u.helpers ||| f.active }) ∧
      exec .pause s = .next (after .pause s t f {} fun u => { u with frags := u.frags.map fun x =>
        if x.num = f.num then { x with st := .ready, paused := 2 } else { x with paused := min x.paused 1 } }) ∧
      exec .nop s = .next (after .nop s t f {} id)) ∧
    (∀ sa x, specWritten t x (getS t sa) = none → exec (.swrite x sa) s = .next (raise s (.swrite x sa) t f 4 (.illop 4)))) ∧
  (∀ s t f k x l, SpecReg.ofCode k = some x → specValue s t f x l = BitVec.ofNat 64 ((specialTable s t f l).getD k 0)) ∧
  (∀ s q (p : BitVec 2), (getQuad s q).grant < 4096 → let v := (pwrStatus s q p).toNat
    v / 2 ^ 32 = (max (getQuad s q).allow.toInt 0).toNat / 1000 % 2 ^ 32 ∧ v / 2 ^ 16 % 2 ^ 16 = (getQuad s q).pattern.toNat ∧
    v / 2 ^ 14 % 4 = (match (getDie s (q / 14)).therm with
      | .normal => 0
      | .throttled => 1
      | .tripped => 2) ∧
    v / 2 ^ 12 % 4 = p.toNat ∧ v % 2 ^ 12 = (getQuad s q).grant) ∧
  (∀ s t f x sa, Runs s t f → Clear s t f { scalars := [sa] } → (specWritten t x (getS t sa)).isSome = true →
    exec (.swrite x sa) s = .next (after (.swrite x sa) s t f { scalars := [sa] } fun u => (specWritten u x (getS t sa)).getD u)) ∧
  (∀ s t f, Runs s t f →
    (∀ v : Word, fmtDefined v → Clear s t f {} →
      exec (.fmtImm v) s = .next (after (.fmtImm v) s t f {} fun u => modFrag u f.num fun x => { x with fmt := v })) ∧
    (∀ sa, fmtDefined (lo32 (getS t sa)) → Clear s t f { scalars := [sa] } →
      exec (.fmtReg sa) s = .next (after (.fmtReg sa) s t f { scalars := [sa] } fun u =>
        modFrag u f.num fun x => { x with fmt := lo32 (getS t sa) })) ∧
    (∀ v : Word, ¬ fmtDefined v → exec (.fmtImm v) s = .next (raise s (.fmtImm v) t f 8 (.illop 4))) ∧
    (∀ sa, ¬ fmtDefined (lo32 (getS t sa)) → Clear s t f { scalars := [sa] } →
      exec (.fmtReg sa) s = .next (raise s (.fmtReg sa) t f 4 (.illop 4))))

/-- Branches (R160 to R163): taken, the fragment goes on at the target, loops that do not hold it end, and windows end; not taken, it
falls through. The conditions of BRC after a scalar compare (R156, R160), and those on MZ and F. That JMPS drops bits 63:56 and bit 0 of
the scalar is the model's reading of R68 beside R161. The model's choices that it rests on: log entry 50. -/
def Obligations.BranchResults : Prop :=
  (∀ s t f i regs taken pc, Runs s t f → branchTable t f i = some (regs, taken, pc) → Clear s t f { scalars := regs, steps := false } →
    exec i s = .next (if taken then modTeam (issued i s t f {}) t.uid fun u => branched u f.num pc
      else leave (issued i s t f {}) t.uid f (bytesOf i))) ∧
  (∀ (a b : DWord) (cc : Word),
    (brHolds .eq (ccSub cc a b) = decide (a = b)) ∧ (brHolds .ne (ccSub cc a b) = decide (a ≠ b)) ∧
    (brHolds .lt (ccSub cc a b) = decide (a.toInt < b.toInt)) ∧ (brHolds .ge (ccSub cc a b) = decide (a.toInt ≥ b.toInt)) ∧
    (brHolds .le (ccSub cc a b) = decide (a.toInt ≤ b.toInt)) ∧ (brHolds .gt (ccSub cc a b) = decide (a.toInt > b.toInt)) ∧
    (brHolds .lo (ccSub cc a b) = decide (a.toNat < b.toNat)) ∧ (brHolds .hs (ccSub cc a b) = decide (a.toNat ≥ b.toNat)) ∧
    (brHolds .ls (ccSub cc a b) = decide (a.toNat ≤ b.toNat)) ∧ (brHolds .hi (ccSub cc a b) = decide (a.toNat > b.toNat)) ∧
    (brHolds .mz cc = cc.getLsbD 4) ∧ (brHolds .mnz cc = !cc.getLsbD 4) ∧ (brHolds .f cc = cc.getLsbD 5) ∧
    (brHolds .nf cc = !cc.getLsbD 5))

/-- CALL, CALLS and RET (R96, R161): a call pushes the address after it under its fragment's own number, and with 16 entries in use raises
CALL_DEPTH; RET takes the newest entry of its own fragment, and with none raises CALL_DEPTH with INFO 1. That CALLS drops bits 63:56 and
bit 0 of the scalar is the model's reading of R68 beside R161. The model's choices that it rests on: log entry 50. -/
def Obligations.CallReturn : Prop :=
  ∀ s t f, Runs s t f →
    (∀ i regs pc, callTable t f i = some (regs, pc) → Clear s t f { scalars := regs, steps := false } →
      (t.calls.length < 16 → exec i s = .next (modTeam (issued i s t f {}) t.uid fun u =>
        movedTo { u with calls := { ret := f.pc + BitVec.ofNat 64 (bytesOf i), owner := f.num } :: u.calls } f.num pc)) ∧
      (16 ≤ t.calls.length → exec i s = .next (stopped s t f 0x0E 0))) ∧
    (Clear s t f { steps := false } →
      (∀ newer c older, t.calls = newer ++ c :: older → c.owner = f.num → (∀ x ∈ newer, x.owner ≠ f.num) →
        exec .ret s = .next (modTeam (issued .ret s t f {}) t.uid fun u => movedTo { u with calls := newer ++ older } f.num c.ret)) ∧
      ((∀ x ∈ t.calls, x.owner ≠ f.num) → exec .ret s = .next (stopped s t f 0x0E 1)))

/-- MAND and MREST (R164): MAND keeps the active mask in the slot and leaves the lanes whose popped flag is not zero; MREST brings the
slot back within the members; MZ tells an empty mask. A slot above 3 is illegal. -/
def Obligations.MaskResults : Prop :=
  ∀ s t f (k : BitVec 8), Runs s t f →
    (∀ i, (trueLanes t f).getLsbD i = (decide (i < t.width ∧ i < 1024) && f.active.getLsbD i && decide (t.opd i 0 ≠ 0))) ∧
    (k.toNat < 4 → Clear s t f { pops := 1 } →
      exec (.mand k) s = .next (after (.mand k) s t f { pops := 1 } fun u =>
        { modFrag (u.stackOp f 1 0 fun _ _ => []) f.num fun x => { x.setSlot k.toNat f.active with active := trueLanes t f } with
          cc := mzBit u.cc (trueLanes t f = 0) })) ∧
    (k.toNat < 4 → Clear s t f {} →
      exec (.mrest k) s = .next (after (.mrest k) s t f {} fun u =>
        { modFrag u f.num fun x => { x with active := f.slot k.toNat &&& f.member } with
          cc := mzBit u.cc (f.slot k.toNat &&& f.member = 0) })) ∧
    (4 ≤ k.toNat → ∀ i ∈ [Instr.mand k, .mrest k], exec i s = .next (raise s i t f 2 (.illop 4)))

/-- EXIT (R80, R165): with no active lane nothing; in a handler HANDLER_NEST; where members of the fragment stay, its active lanes leave
the team and MZ is 1; a fragment without members is freed while others remain, and LIVE of its join record falls: at 0 the record is freed
too, at the number of ARRIVED children it fuses them as JOIN does, or raises DEPTH_MISMATCH with INFO 0 where their depths differ from its
own; the team's last EXIT retires it, and waits first for the accesses that the team has issued and for the acknowledgements of its stores
to other packages. What leaves with a lane (R165): its bits in the masks and slots of its fragment, in
the member and active masks of the join records above, in the helper mask; its stack and locals. The model's choices that it rests on: log
entries 18, 60. -/
def Obligations.ExitResults : Prop :=
  (∀ s t f, Runs s t f → Clear s t f {} →
    (f.handler = true → exec .exit s = .next (stopped s t f 0x0F 0)) ∧
    (f.handler = false → f.active = 0 → exec .exit s = .next (leave (issued .exit s t f {}) t.uid f 2)) ∧
    (f.handler = false → f.active ≠ 0 → f.member &&& ~~~f.active ≠ 0 → fullMask t.width &&& ~~~(t.exited ||| f.active) ≠ 0 →
      exec .exit s = .next (leave (withTeam (issued .exit s t f {}) t.uid fun u =>
        { exitLanes u f f.active with cc := mzBit u.cc True }) t.uid f 2)) ∧
    (f.handler = false → f.active ≠ 0 → fullMask t.width &&& ~~~(t.exited ||| f.active) = 0 → t.region = none →
      (unperformed s t = true → exec .exit s = .next (raise s .exit t f 2 (.park .ordering id))) ∧
      (unperformed s t = false → (s.fabric.msgs.any fun m => m.isStore t.uid) = true →
        exec .exit s = .next (raise s .exit t f 2 (.park .fabricAck id))) ∧
      (unperformed s t = false → (s.fabric.msgs.any fun m => m.isStore t.uid) = false →
        ∃ s', exec .exit s = .next s' ∧ teamOf s' t.uid = none ∧
          ∀ l, launchOf s t.launch = some l → ∃ l', launchOf s' t.launch = some l' ∧ l'.retired = l.retired + 1))) ∧
  (∀ s t f, Runs s t f → Clear s t f {} → f.handler = false → f.active ≠ 0 → f.member &&& ~~~f.active = 0 →
    fullMask t.width &&& ~~~(t.exited ||| f.active) ≠ 0 →
    let gone := fun (u : Team) => fragOf u f.num = none ∧ u.lanes = (exitLanes t f f.active).lanes ∧ u.exited = t.exited ||| f.active
    let others := fun (u : Team) (skip : List Nat) => ∀ n, n ≠ f.num → n ∉ skip →
      (fragOf u n).map (fun x => ({ x with low := 0 } : Frag)) = (fragOf (exitLanes t f f.active) n).map fun x => { x with low := 0 }
    (f.parent = none → ∃ s' u, exec .exit s = .next s' ∧ teamOf s' t.uid = some u ∧ gone u ∧ others u [] ∧ u.cc = t.cc) ∧
    (∀ p, (f.parent.bind (fragOf t)) = some p → p.num ≠ f.num → p.num ∈ ancestors t 64 f.num →
      let cs := t.frags.filter fun c => c.parent = some p.num ∧ c.st = .arrived
      (∀ c ∈ cs, c.num ≠ p.num ∧ c.num ≠ f.num ∧ c.num ∉ ancestors t 64 f.num) →
      (p.live = 1 → p.parent = none →
        ∃ s' u, exec .exit s = .next s' ∧ teamOf s' t.uid = some u ∧ gone u ∧ others u [p.num] ∧ fragOf u p.num = none) ∧
      (2 ≤ p.live → cs.length + 1 ≠ p.live →
        ∃ s' u g, exec .exit s = .next s' ∧ teamOf s' t.uid = some u ∧ gone u ∧ others u [p.num] ∧ fragOf u p.num = some g ∧
          g.live = p.live - 1 ∧ g.st = p.st ∧ g.pc = p.pc ∧ u.cc = t.cc) ∧
      (2 ≤ p.live → cs.length + 1 = p.live → (∀ c ∈ cs, c.depth = p.depth) →
        ∃ s' u g, exec .exit s = .next s' ∧ teamOf s' t.uid = some u ∧ gone u ∧ fragOf u p.num = some g ∧ g.st = .run ∧ g.pc = p.pc + 2 ∧
          g.depth = p.depth ∧ g.fmt = p.fmt ∧ g.live = 0 ∧ (∀ i, g.member.getLsbD i = cs.any fun c => c.member.getLsbD i) ∧
          g.active = p.active &&& ~~~f.active &&& g.member ∧ g.m0 = p.m0 &&& g.member ∧ g.m1 = p.m1 &&& g.member ∧
          g.m2 = p.m2 &&& g.member ∧ g.m3 = p.m3 &&& g.member ∧ (∀ c ∈ cs, fragOf u c.num = none) ∧ u.cc = mzBit t.cc (g.active = 0)) ∧
      (2 ≤ p.live → cs.length + 1 = p.live → (∃ c ∈ cs, c.depth ≠ p.depth) →
        ∃ S u, exec .exit s = .next (classS S t.uid 0x0A 0 0 f.pc f.active none) ∧ teamOf S t.uid = some u ∧ gone u))) ∧
  (∀ (t : Team) (f : Frag) (x : Mask),
    (∀ i (l : Lane), t.lanes[i]? = some l → (exitLanes t f x).lanes[i]? = some (if x.getLsbD i then { stack := [], locals := [] } else l)) ∧
    (exitLanes t f x).helpers = t.helpers &&& ~~~x ∧ (exitLanes t f x).exited = t.exited ||| x ∧
    (∀ g, fragOf t f.num = some g → ∃ g', fragOf (exitLanes t f x) f.num = some g' ∧ g'.member = g.member &&& ~~~x ∧
      g'.active = g.active &&& ~~~x ∧ g'.m0 = g.m0 &&& ~~~x ∧ g'.m1 = g.m1 &&& ~~~x ∧ g'.m2 = g.m2 &&& ~~~x ∧ g'.m3 = g.m3 &&& ~~~x ∧
      { g' with member := g.member, active := g.active, m0 := g.m0, m1 := g.m1, m2 := g.m2, m3 := g.m3 } = g) ∧
    (∀ n (g : Frag), n ≠ f.num → fragOf t n = some g → fragOf (exitLanes t f x) n = some
      (if n ∈ ancestors t 64 f.num then { g with member := g.member &&& ~~~x, active := g.active &&& ~~~x } else g)) ∧
    ({ exitLanes t f x with lanes := t.lanes, helpers := t.helpers, exited := t.exited, frags := t.frags } : Team) = t)

/-- SPLIT (R85, R167): the fragment becomes a join record that holds the address of the join; the else side has the active lanes whose
flag is zero, and the side that goes on the others with the members that are not active; a side without members makes no entry; the side
that goes on runs, or the else side where there is no other. An entry too many raises SPLIT_OVERFLOW before any effect. The model's
choices that it rests on: log entry 18. -/
def Obligations.SplitResults : Prop :=
  ∀ s t f (els : BitVec 16) (join : BitVec 32), Runs s t f → Clear s t f { pops := 1, steps := false, closes := true } →
    let no := f.active &&& ~~~trueLanes t f
    let cont := trueLanes t f ||| (f.member &&& ~~~f.active)
    let sides := (if no = 0 then 0 else 1) + (if cont = 0 then 0 else 1)
    let jpc := parcelsOn f.pc join.toInt
    (64 < t.frags.length + sides → exec (.split els join) s = .next (stopped s t f 0x0B 0)) ∧
    (t.frags.length + sides ≤ 64 → t.region = none → f.member ≠ 0 →
      ∃ s' u p, exec (.split els join) s = .next s' ∧ teamOf s' t.uid = some u ∧ fragOf u f.num = some p ∧
        p.st = .hold ∧ p.pc = jpc ∧ p.live = sides ∧ p.depth = f.depth - 1 ∧ p.active = f.active ∧ p.member = f.member ∧
        p.joinPc = f.joinPc ∧ p.fmt = f.fmt ∧
        (no ≠ 0 → ∃ g ∈ u.frags, g.parent = some f.num ∧ g.member = no ∧ g.active = no ∧ g.pc = parcelsOn f.pc els.toInt ∧
          g.joinPc = jpc ∧ g.depth = f.depth - 1 ∧ g.fmt = f.fmt ∧ g.m0 = f.m0 ∧ g.m3 = f.m3 ∧ g.num ≠ f.num ∧
          g.st = if cont = 0 then .run else .ready) ∧
        (cont ≠ 0 → ∃ g ∈ u.frags, g.parent = some f.num ∧ g.member = cont ∧ g.active = trueLanes t f ∧ g.pc = f.pc + 8 ∧
          g.joinPc = jpc ∧ g.depth = f.depth - 1 ∧ g.fmt = f.fmt ∧ g.m0 = f.m0 ∧ g.m3 = f.m3 ∧ g.num ≠ f.num ∧ g.st = .run) ∧
        u.frags.length = t.frags.length + sides ∧
        u.cc = mzBit t.cc ((if cont = 0 then no else trueLanes t f) = 0) ∧ u.sb = windowsOver t f.num ∧ u.scalars = t.scalars)

/-- JOIN (R80, R168): without a join record above it, or at another address than its own join, DEPTH_MISMATCH with INFO 1 or 2; otherwise
the fragment has ARRIVED and its call entries are gone; the last arrival fuses the children into the record, which runs on behind the
join, unless their depths differ from the record's: DEPTH_MISMATCH with INFO 0. The model's choices that it rests on: log entry 18. -/
def Obligations.JoinResults : Prop :=
  ∀ s t f, Runs s t f → Clear s t f { steps := false, closes := true } →
    ((f.parent.bind (fragOf t)) = none → exec .join s = .next (stopped s t f 0x0A 1)) ∧
    (∀ p, (f.parent.bind (fragOf t)) = some p →
      (p.trapMarker = true → exec .join s = .next (stopped s t f 0x0A 1)) ∧
      (p.trapMarker = false → f.joinPc ≠ f.pc → exec .join s = .next (stopped s t f 0x0A 2)) ∧
      (p.trapMarker = false → f.joinPc = f.pc → t.region = none →
        let arrived := modFrag t f.num fun x => { x with st := .arrived }
        let cs := arrived.frags.filter fun c => c.parent = some p.num ∧ c.st = .arrived
        (∀ c ∈ cs, c.num ≠ p.num) →
        (cs.length ≠ p.live → ∃ s' u g, exec .join s = .next s' ∧ teamOf s' t.uid = some u ∧ fragOf u f.num = some g ∧
          g.st = .arrived ∧ g.pc = f.pc ∧ g.member = f.member ∧ g.depth = f.depth ∧
          u.calls = t.calls.filter (fun c => decide (c.owner ≠ f.num)) ∧ u.sb = windowsOver t f.num ∧ u.lanes = t.lanes) ∧
        (cs.length = p.live → (∃ c ∈ cs, c.depth ≠ p.depth) → exec .join s = .next (stopped s t f 0x0A 0)) ∧
        (cs.length = p.live → (∀ c ∈ cs, c.depth = p.depth) → ∃ s' u g, exec .join s = .next s' ∧ teamOf s' t.uid = some u ∧
          fragOf u p.num = some g ∧ g.st = .run ∧ g.pc = p.pc + 2 ∧ g.depth = p.depth ∧ g.fmt = p.fmt ∧ g.live = 0 ∧
          (∀ i, g.member.getLsbD i = cs.any fun c => c.member.getLsbD i) ∧ g.active = p.active &&& g.member ∧
          g.m0 = p.m0 &&& g.member ∧ g.m1 = p.m1 &&& g.member ∧ g.m2 = p.m2 &&& g.member ∧ g.m3 = p.m3 &&& g.member ∧
          (∀ c ∈ cs, fragOf u c.num = none) ∧ u.cc = mzBit t.cc (g.active = 0) ∧
          u.calls = t.calls.filter (fun x => cs.all fun c => decide (x.owner ≠ c.num)) ∧ u.lanes = t.lanes)))

/-- LOOP, LOOPS and LEAVE (R170, R172): a count of zero goes past the last instruction; another makes a loop of the instructions after the
LOOP; LEAVE ends the innermost loop and goes past its last instruction. A fifth loop, a LEAVE without a loop, another live fragment and a
body of fewer than four parcels are errors. The loop step (R171): at the end address of the innermost loop a completed instruction that
falls through lowers the count and goes back to the start; a count that reaches zero ends the loop, and the next one out steps too, if it
ends here: it goes back to its own start, or is left as well, and so on outwards; where the fragment has left that address, or a loop ends
elsewhere, nothing happens. That a LEAVE at the shared end of two loops makes no step of the outer one is the model's choice, log entry 51.
The model's choices that it rests on: log entries 18, 51. -/
def Obligations.LoopResults : Prop :=
  (∀ s t f, Runs s t f →
    (∀ i regs n last, loopTable t i = some (regs, n, last) →
      (last < 4 → exec i s = .next (raise s i t f 8 (.illop 4))) ∧
      (4 ≤ last → Clear s t f { scalars := regs } →
        (t.othersLive f = true → exec i s = .next (stopped s t f 0x0D 0)) ∧
        (t.othersLive f = false → n = 0 → exec i s = .next (after i s t f { scalars := regs } fun u => modFrag u f.num fun x =>
          { x with pc := pcBits (parcelsOn f.pc last + BitVec.ofNat 64 (lengthAt (issued i s t f {}) t (parcelsOn f.pc last))) })) ∧
        (t.othersLive f = false → n ≠ 0 → t.loops.length < 4 → exec i s = .next (after i s t f { scalars := regs } fun u =>
          { u with loops := { start := f.pc + 8, last := parcelsOn f.pc last, count := n } :: u.loops })) ∧
        (t.othersLive f = false → n ≠ 0 → 4 ≤ t.loops.length → exec i s = .next (stopped s t f 0x0C 0)))) ∧
    (Clear s t f { steps := false } →
      (t.loops = [] → exec .leave s = .next (stopped s t f 0x0C 1)) ∧
      (∀ e r, t.loops = e :: r → t.othersLive f = true → exec .leave s = .next (stopped s t f 0x0D 0)) ∧
      (∀ e r, t.loops = e :: r → t.othersLive f = false → exec .leave s = .next (modTeam (issued .leave s t f {}) t.uid fun u =>
        modFrag { u with loops := r } f.num fun x =>
          { x with pc := pcBits (e.last + BitVec.ofNat 64 (lengthAt (issued .leave s t f {}) t e.last)) })))) ∧
  ((∀ s t f g n, teamOf s t.uid = some t → fragOf t f.num = some g →
    g.pc ≠ f.pc + BitVec.ofNat 64 n ∨ t.loops = [] ∨ (∃ e r, t.loops = e :: r ∧ e.last ≠ f.pc) → leave s t.uid f n = s) ∧
  (∀ s t f g n e r, teamOf s t.uid = some t → fragOf t f.num = some g → g.pc = f.pc + BitVec.ofNat 64 n → g.st ≠ .hold →
    t.loops = e :: r → e.last = f.pc → t.othersLive g = false →
    ∃ u h, teamOf (leave s t.uid f n) t.uid = some u ∧ fragOf u f.num = some h ∧
      (e.count.toNat ≠ 1 → h.pc = e.start ∧ u.loops = { e with count := e.count - 1 } :: r ∧
        u.sb = t.sb.map (fun x => if x.frag = f.num then { x with window := 0 } else x)) ∧
      (e.count.toNat = 1 → ∀ ended rest, r = ended ++ rest → (∀ x ∈ ended, x.last = f.pc ∧ x.count.toNat = 1) →
        ((∀ e' r', rest = e' :: r' → e'.last ≠ f.pc) → h.pc = g.pc ∧ u.loops = rest ∧ u.sb = t.sb) ∧
        (∀ e' r', rest = e' :: r' → e'.last = f.pc → e'.count.toNat ≠ 1 →
          h.pc = e'.start ∧ u.loops = { e' with count := e'.count - 1 } :: r' ∧
          u.sb = t.sb.map (fun x => if x.frag = f.num then { x with window := 0 } else x))) ∧
      { u with loops := t.loops, sb := t.sb, frags := t.frags } = t) ∧
  (∀ s t f g n e r, teamOf s t.uid = some t → fragOf t f.num = some g → g.pc = f.pc + BitVec.ofNat 64 n → g.st ≠ .hold →
    t.loops = e :: r → e.last = f.pc → t.othersLive g = true → leave s t.uid f n = classS s t.uid 0x0D 0 0 f.pc g.active none))

/-- Entry to the user handler (R179, R180, R183): with UHVEC set, a level and a split entry free and no region open, the handler runs;
with UHVEC 0 or at depth 2 the trap escalates to class S with its own code; without a free entry, SPLIT_OVERFLOW. TRAP, BKPT, an illegal
pattern and BRKZ (R57 to R59, R180, R182): the first two trap with the next instruction as resume address, and do nothing without an
active lane; an illegal pattern sets the EMU registers and traps with its successor as resume address; BRKZ is a class S fault. That the
handler's PC drops bits 63:56 of UHVEC, and that the EMU registers are set also where the trap escalates, are the model's choices, log
entries 50 and 33. The model's choices that it rests on: log entries 18, 33, 50. -/
def Obligations.TrapEntry : Prop :=
  (∀ s t f code arg info ipc resume stay, Runs s t f →
    let s' := takeTrap s t.uid code arg info ipc resume stay
    (t.uhvec ≠ 0 → t.trapLoops.length < 2 → t.frags.length < 64 → t.region = none → code < 256 → arg < 256 → info < 65536 →
      ∃ u, teamOf s' t.uid = some u ∧ InHandler t u f resume code arg info ∧
        ((∀ c ∈ s.cores, ∀ b ∈ c.2.benches, b.claimant ≠ some t.uid) → OthersKept s s' t.uid)) ∧
    (t.uhvec = 0 ∨ 2 ≤ t.trapLoops.length →
      s' = classS (setTeam s (modFrag t f.num fun x => { x with pc := stay })) t.uid code arg info ipc f.active none) ∧
    (t.uhvec ≠ 0 → t.trapLoops.length < 2 → 64 ≤ t.frags.length →
      s' = classS (setTeam s (modFrag t f.num fun x => { x with pc := ipc })) t.uid 0x0B 0 0 ipc f.active none)) ∧
  (∀ s t f, Runs s t f → (∀ r, t.region = some r → r.pendingStores = 0) →
    (∀ imm : BitVec 8, Clear s t f { steps := false } →
      (f.active ≠ 0 → exec (.trap imm) s = .next (takeTrap (issued (.trap imm) s t f {}) t.uid 3 imm.toNat 0 f.pc (f.pc + 2) (f.pc + 2))) ∧
      (f.active = 0 → exec (.trap imm) s = .next (leave (issued (.trap imm) s t f {}) t.uid f 2))) ∧
    (Clear s t f { steps := false } →
      (f.active ≠ 0 → exec .bkpt s = .next (takeTrap (issued .bkpt s t f {}) t.uid 4 0 0 f.pc (f.pc + 2) (f.pc + 2))) ∧
      (f.active = 0 → exec .bkpt s = .next (leave (issued .bkpt s t f {}) t.uid f 2))) ∧
    (∀ form cause first arg f32 n, exec (.illop form cause first arg f32 n) s =
      .next (takeTrap (modTeam s t.uid fun u => { u with
          emuop := BitVec.ofNat 32 (form * 2 ^ 30 + cause * 2 ^ 16 + first.toNat), emuf16 := arg.setWidth 32, emui32 := f32, emupc := f.pc })
        t.uid 1 0 0 f.pc (f.pc + BitVec.ofNat 64 (2 * n)) f.pc)) ∧
    (Clear s t f {} → exec .brkz s = .next (stopped s t f 0x06 0)))

/-- TRET (R181): in the handler of the innermost trap marker m the marker runs on at its resume address with the handler's depth and its
own masks and FMT; its lanes that the handler did not hold lose what was popped and hold zero in what was pushed; the loops come back;
elsewhere it raises HANDLER_NEST. The model's choices that it rests on: log entry 18. -/
def Obligations.TrapReturn : Prop :=
  ∀ s t f, Runs s t f → Clear s t f { steps := false } →
    ((t.marker = none ∨ f.handler = false ∨ ∃ m, t.marker = some m ∧ f.parent ≠ some m.num) → exec .tret s = .next (stopped s t f 0x0F 0)) ∧
    (∀ m, t.marker = some m → fragOf t m.num = some m → m.num ≠ f.num → f.handler = true → f.parent = some m.num →
      (∀ g ∈ t.frags, g.num ≠ f.num → Team.under t m.num 64 g.num = false) →
      ∃ s' u g, exec .tret s = .next s' ∧ teamOf s' t.uid = some u ∧ fragOf u m.num = some g ∧ fragOf u f.num = none ∧
        g.st = .run ∧ g.trapMarker = false ∧ g.pc = m.pc ∧ g.depth = f.depth ∧ g.active = m.active ∧ g.member = m.member ∧ g.fmt = m.fmt ∧
        g.m0 = m.m0 ∧ g.m1 = m.m1 ∧ g.m2 = m.m2 ∧ g.m3 = m.m3 ∧
        u.loops = t.trapLoops.headD [] ∧ u.trapLoops = t.trapLoops.drop 1 ∧ u.cc = t.cc ∧ u.fpsf = t.fpsf ∧ u.scalars = t.scalars ∧
        ∀ i (l : Lane), t.lanes[i]? = some l → u.lanes[i]? = some
          (if m.member.getLsbD i = true ∧ f.member.getLsbD i = false then
            { l with stack := List.replicate (f.depth - min m.low f.depth) Entry.zero ++ l.stack.drop (m.depth - min m.low f.depth) }
          else l))

/-- REGION, RCLOSE and HBEAT (R175, R176, R185, R359): with no region open REGION records the snapshot behind itself and RCLOSE does
nothing; an open region is closed first. HBEAT starts a persistent launch's period anew. A region that closes publishes its buffer, line
by line and run by run, as plain stores of the team, and is open no more (R175). Stores of its fragment are held in the buffer, and reach
no memory; the 33rd line closes the region, and another opens before the instruction, with the entries that it pops (R176, R177). A load
finds the bytes that the buffer holds over those of memory (R177). An error in the region restarts it from its snapshot, three times; the
fourth terminates the context (R178). The model's choices that it rests on: log entries 17, 52. -/
def Obligations.RegionResults : Prop :=
  (∀ s t f, Runs s t f →
    (Clear s t f { closes := true } → t.region = none →
      exec .region s = .next (after .region s t f { closes := true } fun u => { u with region := some (snapshot t f (f.pc + 2) []) }) ∧
      exec .rclose s = .next (leave (issued .rclose s t f {}) t.uid f 2)) ∧
    (Clear s t f { closes := true } → ∀ r, t.region = some r → r.buffer = [] →
      exec .rclose s = .next (after .rclose s t f { closes := true } fun u => { u with region := none })) ∧
    (Clear s t f { closes := true } → ∀ r, t.region = some r →
      let c := closeRegion (issued .region s t f {}) t.uid f.pc
      let d := closeRegion (issued .rclose s t f {}) t.uid f.pc
      exec .region s = .next (leave (foundFaults (modTeam c.1 t.uid fun u => { u with region := some (snapshot t f (f.pc + 2) []) })
        t.uid f.pc f.active c.2) t.uid f 2) ∧
      exec .rclose s = .next (leave (foundFaults d.1 t.uid f.pc f.active d.2) t.uid f 2)) ∧
    (Clear s t f {} → ∀ l, launchOf s t.launch = some l →
      exec .hbeat s = .next (leave (if t.isPersistent then setLaunch (issued .hbeat s t f {}) { l with elapsed := 0 }
        else issued .hbeat s t f {}) t.uid f 2))) ∧
  (∀ s t r pc, teamOf s t.uid = some t → t.region = some r →
    let S := modTeam s t.uid fun u => { u with region := none }
    (r.buffer = [] → closeRegion s t.uid pc = (S, [])) ∧
    (∀ b rest, r.buffer = b :: rest →
      let x := closeRegion (withBuffer s t.uid r [b]) t.uid pc
      let y := closeRegion (withBuffer x.1 t.uid r rest) t.uid pc
      closeRegion s t.uid pc = (y.1, x.2 ++ y.2)) ∧
    (∀ b o n more, r.buffer = [b] → 0 < n → o + n ≤ 64 → b.mask = lineMask o n ||| more → (∀ i, i ≤ o + n → more.getLsbD i = false) →
      let x := closeRegion (withBuffer s t.uid r [{ b with mask := lineMask o n }]) t.uid pc
      let y := closeRegion (withBuffer x.1 t.uid r [{ b with mask := more }]) t.uid pc
      closeRegion s t.uid pc = (y.1, x.2 ++ y.2)) ∧
    (∀ b o n, r.buffer = [b] → 0 < n → o + n ≤ 64 → b.mask = lineMask o n →
      let bytes := (List.range n).map fun i => lineByte b.data (o + i)
      let va : DWord := BitVec.ofNat 64 (b.line * 64 + o)
      (b.scratch = true → closeRegion s t.uid pc = (spWrite S (b.line / 65536) (b.line % 65536 * 64 + o) bytes none, [])) ∧
      (b.scratch = false → ∀ S1 p, locate S { t with region := none } va .write = (S1, .at p) →
        closeRegion s t.uid pc = (writeLoc S1 { t with region := none } p bytes none pc, [])))) ∧
  (∀ s t f i p n regs ea bytes r, Runs s t f → storeTable i = some (p, n, regs, ea, bytes) → t.region = some r →
    Clear s t f { pops := p, access := true, scalars := regs, steps := false } →
    AddressesOk n (t.doers f) (ea t) → PairsAgree t (t.doers f) (fun l => (ea t l, bytes t l)) →
    let l := withAddress (t.doers f) (ea t)
    let placed := locateAll (issued i s t f { pops := p }) t .write l
    let popped := modTeam placed.1 t.uid fun u => u.stackOp f p 0 fun _ _ => []
    let lines := (l.map fun x => (false, x.2.toNat / 64)).dedup
    let added := lines.filter fun x => !(r.buffer.map fun b => (b.scratch, b.line)).contains x
    AllPlaced placed.2 →
    (r.buffer.length + added.length ≤ 32 → lines.length ≤ 32 → NoLoopSplit t f →
      ∃ s' u r', exec i s = .next s' ∧ s'.mem = s.mem ∧ (∀ c, (getCore s' c).cache = (getCore s c).cache) ∧
        teamOf s' t.uid = some u ∧ u.region = some r' ∧ { r' with buffer := r.buffer } = r ∧
        (∀ a, (∀ x ∈ l, a < x.2.toNat ∨ x.2.toNat + n ≤ a) → regionByte u a = regionByte t a) ∧
        ∀ a before x later, l = before ++ x :: later → x.2.toNat ≤ a → a < x.2.toNat + n →
          (∀ y ∈ later, a < y.2.toNat ∨ y.2.toNat + n ≤ a) → regionByte u a = some ((bytes t x.1).getD (a - x.2.toNat) 0)) ∧
    (32 < r.buffer.length + added.length → lines.length ≤ 32 → lines ≠ [] → r.pendingStores = 0 →
      let c := closeRegion popped t.uid f.pc
      c.2 = [] →
      let ops := mapIdxFrom (fun j (x : Lane) => if f.member.getLsbD j then x.stack.take p else []) 0 t.lanes
      exec i s = .next (leave (performStores (modTeam c.1 t.uid fun u => { u with region := some (snapshot t f f.pc ops) }) t true (bytes t)
        f.pc (l.zip placed.2)) t.uid f (bytesOf i)))) ∧
  (∀ s t l (va : DWord) n j, va.toNat % 64 + n ≤ 64 → j < n →
    (loadAt s t l va n).2.1[j]? = (readLoc s t l n).2.1[j]?.map fun x => (regionByte t (va.toNat + j)).getD x) ∧
  (∀ s t f i n r g, teamOf s t.uid = some t → runFrag t = some f → t.region = some r → fragOf t r.frag = some g →
    (r.restarts < 3 → ∃ s' u h, raise s i t f n (.fault 0x20 0 none) = s' ∧ s'.mem = s.mem ∧ teamOf s' t.uid = some u ∧
      fragOf u r.frag = some h ∧ h.depth = r.d0 ∧ h.pc = r.rentry ∧ h.fmt = r.fmt ∧ h.active = r.active ∧ h.member = r.member ∧
      h.m0 = r.m0 ∧ h.m1 = r.m1 ∧ h.m2 = r.m2 ∧ h.m3 = r.m3 ∧ h.st = g.st ∧ u.cc = r.cc ∧ u.loops = r.loops ∧ u.scalars = t.scalars ∧
      u.sb = t.sb.filter (fun e => decide (e.frag ≠ r.frag)) ∧
      u.region = some { r with restarts := r.restarts + 1, buffer := [], pendingStores := 0, closing := none } ∧
      ∀ j (x : Lane), t.lanes[j]? = some x → let ops := (r.operands[j]?).getD []
        u.lanes[j]? = some (if r.member.getLsbD j then
          { x with stack := ops ++ x.stack.drop (x.stack.length - (r.d0 - ops.length)) } else x)) ∧
    (3 ≤ r.restarts → ∀ k, ContextAt s k t.tag → t.tag ≠ 0 → (getSlot s k).st = 2 →
      ∃ s', raise s i t f n (.fault 0x20 0 none) = s' ∧ (getSlot s' k).st = 1 ∧ teamsOfTag s' t.tag = []))

/-- Loads whose accesses all have a place, helpers' apart (R97, R166, R213 to R218, R437): every active lane takes the entries of its own
access, both lanes of a protected pair the primary's, and the result is pending under the next scoreboard entry; what another package
holds is asked for, and the entry waits for its answer. Lane by lane, in order (R215): an access that has a place here gives its lane the
entries that the bytes read there make, an open region's over the home's, and the next lane goes on from the state it leaves; one at another
package, or that misses, gives nothing yet; one without permission gives free entries, a helper's nothing. What a load makes of the bytes it
reads, least significant first (R12, R216, R218): one entry of up to four bytes, extended by sign or with zeros; a pair with its
high half on top; or four entries, the last word on top. Each carries the poison of the line (R219). The errors of global addresses, found
before any effect (R186, R212, R214): of the first lane in order whose address is not global, PERM with INFO 0; not aligned, ALIGN; each
with the address. The model's choices that it rests on: log entries 10, 14, 16. -/
def Obligations.LoadResults : Prop :=
  (∀ s t f i la p q n signed regs ea, Runs s t f → loadTable i = some (la, p, q, n, signed, regs, ea) →
    Clear s t f { pops := p, pushes := q, access := true, scalars := regs } → t.sb.length < 16 →
    AddressesOk n (t.doers f) (ea t) →
    let l := withAddress ((t.accessors f).filter fun x => decide ((ea t x).toNat < 2 ^ 56) && (ea t x).toNat % n == 0) (ea t)
    let placed := locateAll (issued i s t f { pops := p, pushes := q }) t .read l
    (∀ y ∈ l.zip placed.2, (∃ w, y.2 = .at w) ∨ (t.isHelper y.1.1 = true ∧ ∀ a b, y.2 ≠ .zero a b)) →
    let got := performLoads placed.1 t n q signed (l.zip placed.2)
    let sent := groupSent (l.zip placed.2) fun a => Acc.load a.1 a.2 n signed t.nextSb
    exec i s = .next (leave (sendAll (withTeam got.1 t.uid fun u =>
      pendTop (u.stackOp f p q fun x _ => laneResult t q got.2 x) f q la (!sent.isEmpty)) t f sent) t.uid f (bytesOf i))) ∧
  (∀ s t n q signed (x : LaneAddr) (r : List (LaneAddr × Fx)),
    performLoads s t n q signed [] = (s, []) ∧
    (∀ w, (∀ k v, w ≠ .remote k v) →
      let y := loadAt s t w x.2 n
      let z := performLoads y.1 t n q signed r
      performLoads s t n q signed ((x, .at w) :: r) = (z.1, (x.1, loadEntries signed y.2.1 y.2.2) :: z.2) ∧
      (t.region = none → y = readLoc s t w n) ∧
      (∀ pa e, w = .mem pa e → readLoc s t w n = cacheRead s t.core pa n e.otag e.prot)) ∧
    (∀ d, (∃ k v, d = .at (.remote k v)) ∨ (∃ die tag page level, d = Fx.miss die tag page level) →
      performLoads s t n q signed ((x, d) :: r) = performLoads s t n q signed r) ∧
    (∀ d, (d = .tail ∨ ∃ k, d = .perm k) →
      (t.isHelper x.1 = true → performLoads s t n q signed ((x, d) :: r) = performLoads s t n q signed r) ∧
      (t.isHelper x.1 = false → ∃ k es, es.length = q ∧
        let z := performLoads { s with free := k } t n q signed r
        performLoads s t n q signed ((x, d) :: r) = (z.1, (x.1, es) :: z.2)))) ∧
  (∀ (b0 b1 : Byte) (w : List Byte) p,
    loadEntries false [b0] p = [⟨BitVec.ofNat 32 b0.toNat, p⟩] ∧
    loadEntries true [b0] p = [⟨BitVec.ofInt 32 b0.toInt, p⟩] ∧
    loadEntries false [b0, b1] p = [⟨BitVec.ofNat 32 (b0.toNat + 256 * b1.toNat), p⟩] ∧
    loadEntries true [b0, b1] p = [⟨BitVec.ofInt 32 (b0.toNat + 256 * b1.toInt), p⟩] ∧
    (∀ signed k, k ∈ [1, 2, 4] → w.length = 4 * k →
      loadEntries signed w p = ((List.range k).reverse.map fun j =>
        ⟨BitVec.ofNat 32 (((List.range 4).map fun i => (w.getD (4 * j + i) 0).toNat * 256 ^ i).sum), p⟩))) ∧
  (∀ s t f i p q n regs (ea : Team → Nat → DWord), Runs s t f →
    ((∃ la sg, loadTable i = some (la, p, q, n, sg, regs, ea)) ∨ (q = 0 ∧ ∃ b, storeTable i = some (p, n, regs, ea, b))) →
    Clear s t f { pops := p, pushes := q, access := true, scalars := regs } →
    ∀ before l after', t.doers f = before ++ l :: after' → AddressesOk n before (ea t) →
      (2 ^ 56 ≤ (ea t l).toNat → exec i s = .next (classS s t.uid 0x11 0 0 f.pc f.active (some (ea t l)))) ∧
      ((ea t l).toNat < 2 ^ 56 → (ea t l).toNat % n ≠ 0 →
        exec i s = .next (classS s t.uid 0x14 0 0 f.pc f.active (some (ea t l)))))

/-- Stores whose accesses all have a place, with no region open (R97, R214 to R219): the operands go, and each lane's bytes are written at
its address in lane order. Finding the places changes neither memory nor a core's cache. The frame of a store into memory through the core's
cache (R219, R320, R321): outside the bytes stored, at the places found, every byte of memory is as before, and reads as before to the core;
of a line of the cache given up meanwhile, the bytes that were dirty stand in memory. A byte stored to reads as the last lane stored it; no
other core's state changes. A load through the core's cache reads the bytes that the core sees, with the same frame (R320). The model's
choices that it rests on: log entries 16, 46. -/
def Obligations.StoreResults : Prop :=
  (∀ s t f i p n regs ea bytes, Runs s t f → storeTable i = some (p, n, regs, ea, bytes) →
    Clear s t f { pops := p, access := true, scalars := regs, steps := false } → t.region = none →
    AddressesOk n (t.doers f) (ea t) → PairsAgree t (t.doers f) (fun l => (ea t l, bytes t l)) →
    let l := withAddress (t.doers f) (ea t)
    let placed := locateAll (issued i s t f { pops := p }) t .write l
    AllPlaced placed.2 →
    exec i s = .next (leave (performStores (modTeam placed.1 t.uid fun u => u.stackOp f p 0 fun _ _ => []) t false (bytes t) f.pc
      (l.zip placed.2)) t.uid f (bytesOf i))) ∧
  (∀ s t k l, (locateAll s t k l).1.mem = s.mem ∧ ∀ c, (getCore (locateAll s t k l).1 c).cache = (getCore s c).cache) ∧
  (∀ (s : State) (t : Team) (data : Nat → List Byte) pc (l : List (LaneAddr × Fx)), Canonical s →
    (∀ x ∈ l, ∃ pa e, x.2 = .at (.mem pa e) ∧ pa % 64 + (data x.1.1).length ≤ 64) →
    let s' := performStores s t false data pc l
    let hits := fun (a : Nat) (x : LaneAddr × Fx) => ∃ pa e, x.2 = .at (.mem pa e) ∧ pa ≤ a ∧ a < pa + (data x.1.1).length
    MemoryKept s s' t.core (fun a => ∃ x ∈ l, hits a x) ∧
    (∀ a before x after' pa e, l = before ++ x :: after' → x.2 = .at (.mem pa e) → pa ≤ a → a < pa + (data x.1.1).length →
      (∀ y ∈ after', ¬ hits a y) → byteSeen s' t.core a = (data x.1.1).getD (a - pa) 0) ∧
    ∀ c, c ≠ t.core → getCore s' c = getCore s c) ∧
  (∀ s core pa n otag prot, Canonical s → pa % 64 + n ≤ 64 →
    (cacheRead s core pa n otag prot).2.1 = (List.range n).map (fun i => byteSeen s core (pa + i)) ∧
    MemoryKept s (cacheRead s core pa n otag prot).1 core (fun _ => False) ∧
    ∀ c, c ≠ core → getCore (cacheRead s core pa n otag prot).1 c = getCore s c)

/-- LDS in its three forms (R200, R220 to R222): each active lane takes its word; .fe and .fec make their passes as far as the granules are
full, .fec leaving them empty; when all are made the result is pending, else the fragment parks with the passes that are left, and registers
with the core of the first empty granule. STS and STS.fe with no region open (R97, R200, R220 to R222): pass by pass the words are written,
and .fe then sets their granules full and serves those that wait for them. A pass of LDS.fe or LDS.fec (R200, R221, R222): it is made only
when every granule is full for the team; .fec then leaves each of them empty, and .fe all as they were. The word that a lane reads is the
open region's bytes over the bank's, with the row's poison unless the region holds all of it (R211, R222). Granules that an access sets full
are all set, then their waiters, in the order in which they parked, are served, each while its granule is full (R200): it leaves the table,
makes the passes it can, and is READY with its result pending, or registers again for the granule it then finds empty. The model's choices
that it rests on: log entries 14, 25. -/
def Obligations.ScratchResults : Prop :=
  (∀ s t f i la q a ea, Runs s t f → spLoadTable i = some (la, q, a, ea) →
    Clear s t f { pops := 1, pushes := 1, access := true, scalars := [a], closed := q == .fec } → t.sb.length < 16 →
    (∀ l ∈ t.doers f, (spPlace s t (ea t l)).isSome = true) →
    let S := issued i s t f { pops := 1, pushes := 1 }
    let reads := (t.accessors f).filterMap fun l => (spPlace s t (ea t l)).map fun x => ({ lane := l, core := x.1, off := x.2 } : SpRead)
    let waits := if q = .plain then [] else reads.filter fun r => !t.isHelper r.lane
    let passes := ((passWords t f.member).map fun k => waits.filter fun r => r.lane / 32 = k).filter fun x => x ≠ []
    let made := fePasses (withTeam S t.uid fun u => u.stackOp f 1 1 fun l _ =>
      laneResult t 1 (reads.map fun r => (r.lane, [spLoad S t r.core r.off])) l) t.uid (q == .fec) passes
    (made.2 = [] → exec i s = .next (leave (withTeam made.1 t.uid fun u => pendTop u f 1 la false) t.uid f (bytesOf i))) ∧
    (∀ x r, made.2 = x :: r →
      let S1 := modTeam made.1 t.uid fun u => modFrag u f.num fun y =>
        { y with st := .parked, wait := some (.fullEmpty (q == .fec) la f.pc made.2 made.1.free 0) }
      exec i s = .next (leave (feRegister { S1 with free := S1.free + 1 } t.uid f.num made.1.free x) t.uid f (bytesOf i))) ∧
    (q = .plain → made.2 = [])) ∧
  (∀ s t f i fe a ea, Runs s t f → spStoreTable i = some (fe, a, ea) →
    Clear s t f { pops := 2, access := true, scalars := [a], closed := fe, steps := false } → t.region = none →
    (∀ l ∈ t.doers f, (spPlace s t (ea t l)).isSome = true) → PairsAgree t (t.doers f) (fun l => (ea t l, t.opd l 1)) →
    let puts := (t.doers f).filterMap fun l => (spPlace s t (ea t l)).map fun x => (l, x)
    exec i s = .next (leave ((passWords t f.member).foldl (fun x k =>
      let mine := puts.filter fun y => y.1 / 32 == k
      let x := mine.foldl (fun x y => spWrite x y.2.1 y.2.2 (leBytes 4 (t.opd y.1 1).toNat) none) x
      if fe then fillGranules x (mine.map fun y => (y.2.1, y.2.2 / 16 * 16)).eraseDups else x)
      (modTeam (issued i s t f { pops := 2 }) t.uid fun u => u.stackOp f 2 0 fun _ _ => [])) t.uid f (bytesOf i))) ∧
  (∀ s uid fec (x : List SpRead) r t, teamOf s uid = some t →
    ((∃ y ∈ x, fullFor s t y = false) → fePasses s uid fec (x :: r) = (s, x :: r)) ∧
    ((∀ y ∈ x, fullFor s t y = true) →
      fePasses s uid fec (x :: r) = fePasses (fePass s uid fec x) uid fec r ∧
      (fec = true → ∀ y ∈ x, isFull (fePass s uid fec x) y.core y.off = false) ∧
      (fec = false → (fePass s uid fec x).cores = s.cores) ∧
      ∀ c o, (∀ y ∈ x, y.core ≠ c ∨ y.off / 16 ≠ o / 16) → isFull (fePass s uid fec x) c o = isFull s c o)) ∧
  (∀ s (t : Team) core off, off % 4 = 0 →
    let held := (List.range 4).map fun j => scratchByte t core (off + j)
    (∀ j, j < 4 → (spLoad s t core off).bits.toNat / 256 ^ j % 256 =
      ((scratchByte t core (off + j)).getD ((spRead s core off 4).getD j 0)).toNat) ∧
    (spLoad s t core off).poison = if held.all (·.isSome) then none else spPoison s core off) ∧
  (∀ s (l : List (Nat × Nat)), (∀ g ∈ l, g.2 % 16 = 0) →
    (∀ c o, isFull (l.foldl (fun s g => setFull s g.1 g.2 true) s) c o = (isFull s c o || l.contains (c, o / 16 * 16))) ∧
    fillGranules s l = feServe (l.foldl (fun s g => setFull s g.1 g.2 true) s) (feWaiting s l) ∧
    (∀ c w, (c, w) ∈ feWaiting s l ↔ w ∈ (getCore s c).feWaiters ∧ (c, w.gran * 16) ∈ l) ∧
    (feWaiting s l).Pairwise (fun a b => a.2.since ≤ b.2.since)) ∧
  (∀ s core (w : FeWaiter) r,
    feServe s [] = s ∧
    (isFull s core (w.gran * 16) = false → feServe s ((core, w) :: r) = feServe s r) ∧
    (isFull s core (w.gran * 16) = true → feServe s ((core, w) :: r) = feServe (feAdvance (setCore s core { getCore s core with
      feWaiters := (getCore s core).feWaiters.filter fun x => decide (x ≠ w) }) w.team w.frag) r)) ∧
  (∀ s uid t n f fec la pc passes since k, teamOf s uid = some t → fragOf t n = some f →
    f.wait = some (.fullEmpty fec la pc passes since k) →
    let made := fePasses s uid fec passes
    (made.2 = [] → feAdvance s uid n = modTeam made.1 uid fun u =>
      let e : SbEntry :=
        { id := u.nextSb, frag := n, targets := [(0, f.member, .pos f.depth)], pc, window := la.toNat, waiting := false }
      modFrag (if u.sb.length < 16 then { u with sb := u.sb ++ [e], nextSb := u.nextSb + 1 } else u) n Frag.wake) ∧
    (f.st = .parked → f.wake = { f with st := .ready, wait := none }) ∧
    (∀ x r, made.2 = x :: r → feAdvance s uid n = feRegister (modTeam made.1 uid fun u => modFrag u n fun y =>
      { y with wait := some (.fullEmpty fec la pc made.2 since 0) }) uid n since x))

/-- Scratchpad bytes written read back, other bytes of the core's pool and other cores stay; a write of a whole 128-byte row with good
data cleans the row (R197, R211). A read-modify-write at a home slice (R225): it finds what memory holds there, stores the new value in
its place, and changes no other byte of memory; where its line is poisoned it meets the poison. What a release leaves (R227, R321): every
byte that was dirty stands in memory, no other byte of memory has changed, no line of the cache is dirty, and the core sees what it saw of
every byte that is valid in its cache or was not dirty there.
The model's choices that it rests on: log entries 4, 12. -/
def Obligations.MemoryUpdates : Prop :=
  (∀ s core off bytes p, Canonical s →
    spRead (spWrite s core off bytes p) core off bytes.length = bytes ∧
    (∀ a, (a < spPool (getCore s core) off ∨ spPool (getCore s core) off + bytes.length ≤ a) →
      Memory.get (getCore (spWrite s core off bytes p) core).pool a = Memory.get (getCore s core).pool a) ∧
    (∀ c, c ≠ core → getCore (spWrite s core off bytes p) c = getCore s c) ∧
    (spWrite s core off bytes p).mem = s.mem ∧ (spWrite s core off bytes p).teams = s.teams ∧
    (p = none → bytes.length = 128 → off % 128 = 0 → spPoison (spWrite s core off bytes p) core off = none) ∧
    (∀ x, p = some x → bytes ≠ [] → spPoison (spWrite s core off bytes p) core off = some x)) ∧
  (∀ s pa n tag prot w (g : DWord → DWord), Canonical s → 0 < n → n ≤ 8 → pa % 64 + n ≤ 64 →
    (homePoison (homeTouch s (pa / 64) tag prot true) (pa / 64) = none →
      ∃ s', homeRmw s pa n tag prot w g = (s', .ok (BitVec.ofNat 64 (Memory.nat s.mem pa n))) ∧
        Memory.nat s'.mem pa n = (g (BitVec.ofNat 64 (Memory.nat s.mem pa n))).toNat % 256 ^ n ∧
        (∀ a, a < pa ∨ pa + n ≤ a → Memory.get s'.mem a = Memory.get s.mem a) ∧ s'.cores = s.cores) ∧
    (∀ x, homePoison (homeTouch s (pa / 64) tag prot true) (pa / 64) = some x →
      ∃ s', homeRmw s pa n tag prot w g = (s', .error x) ∧ s'.mem = s.mem ∧ s'.cores = s.cores)) ∧
  (∀ s core, Canonical s →
    (∀ a x, cacheLine (getCore s core) (a / 64) = some x → x.dirty.getLsbD (a % 64) = true →
      Memory.get (writeBackAll s core).mem a = lineByte x.data (a % 64)) ∧
    (∀ a, (∀ x, cacheLine (getCore s core) (a / 64) = some x → x.dirty.getLsbD (a % 64) = false) →
      Memory.get (writeBackAll s core).mem a = Memory.get s.mem a) ∧
    (∀ line x, cacheLine (getCore (writeBackAll s core) core) line = some x → x.dirty = 0) ∧
    (∀ a, (∀ x, cacheLine (getCore s core) (a / 64) = some x → x.dirty.getLsbD (a % 64) = true → x.valid.getLsbD (a % 64) = true) →
      byteSeen (writeBackAll s core) core a = byteSeen s core a) ∧
    (getCore (invalidateAll s core) core).cache = [] ∧
    (invalidateAll s core).mem = (writeBackAll s core).mem ∧
    ∀ c, c ≠ core → getCore (invalidateAll s core) c = getCore s c)

/-- SLD and SST (R158, R437): eight bytes at an aligned global address that has a place; what another package holds SLD asks for, and sd is
pending until the answer; SST does nothing when no active lane acts. The model's choices that it rests on: log entries 15, 21. -/
def Obligations.ScalarMemory : Prop :=
  ∀ s t f (d a : SReg) (imm : BitVec 32), Runs s t f →
    let va : DWord := BitVec.ofInt 64 ((getS t a).toInt + imm.toInt)
    let S := issued (.sld d a imm) s t f {}
    let S' := issued (.sst d a imm) s t f {}
    (∀ S1 p S2 b, va.toNat < 2 ^ 56 → va.toNat % 8 = 0 → Clear s t f { access := true, scalars := [a, d] } →
      locate S t va .read = (S1, .at p) → (∀ k v, p ≠ .remote k v) → loadAt S1 t p va 8 = (S2, b, none) →
      exec (.sld d a imm) s = .next (leave (modTeam S2 t.uid fun u => setS u d (BitVec.ofNat 64 (leNat b))) t.uid f 8)) ∧
    (∀ S1 pkg v, va.toNat < 2 ^ 56 → va.toNat % 8 = 0 → Clear s t f { access := true, scalars := [a, d] } →
      locate S t va .read = (S1, .at (.remote pkg v)) →
      let ask := Acc.sld d.toNat va
      exec (.sld d a imm) s = .next (leave (modTeam (podSend S1 t.uid f.num pkg va (laneBit 0) (.acc ask (ask.held t)) f.pc) t.uid
        fun u => scalarAwaited u d) t.uid f 8)) ∧
    (∀ S1 p, va.toNat < 2 ^ 56 → va.toNat % 8 = 0 → Clear s t f { access := true, scalars := [a, d], steps := false } →
      t.acts f = true → t.region = none → locate S' t va .write = (S1, .at p) →
      exec (.sst d a imm) s = .next (leave (writeLoc S1 t p (leBytes 8 (getS t d).toNat) none f.pc (laneBit 0)) t.uid f 8)) ∧
    (Clear s t f { access := true, scalars := [a, d], steps := false } → t.acts f = false →
      exec (.sst d a imm) s = .next (leave S' t.uid f 8)) ∧
    (Clear s t f { access := true, scalars := [a, d] } → va.toNat < 2 ^ 56 → va.toNat % 8 ≠ 0 →
      exec (.sld d a imm) s = .next (classS s t.uid 0x14 0 0 f.pc f.active (some va)))

/-- The values that atomics store (R224): each operation on 32 bits, dadd on 64; fadd and dadd to nearest, fmax by R110. Where an atomic
may act (R199, R212, R214, R225, R436): a scratchpad word of the context, at core scope only on its own core; or global memory at die
scope or wider, at pod scope or wider through the pod window. PERM is found before ALIGN, ALIGN before SCOPE. The model's choices that it
rests on: log entry 10. -/
def Obligations.AtomicRules : Prop :=
  (∀ op (m v cmp : DWord), atomNew op m v cmp = atomRule op m v cmp) ∧
  (∀ s t n sc (va : DWord), n ∈ [4, 8] →
    (va.toNat < 2 ^ 56 → va.toNat % n = 0 → (if va.getLsbD 55 then sc ∈ [Scope.pod, .sys] else sc ∉ [Scope.core, .quad]) →
      checkAtom s t n sc va = .ok (.global va)) ∧
    (va.toNat < 2 ^ 56 → va.toNat % n = 0 → ¬ (if va.getLsbD 55 then sc ∈ [Scope.pod, .sys] else sc ∉ [Scope.core, .quad]) →
      checkAtom s t n sc va = .error (.fault 0x13 0 (some va))) ∧
    (va.toNat < 2 ^ 56 → va.toNat % n ≠ 0 → checkAtom s t n sc va = .error (.fault 0x14 0 (some va))) ∧
    (2 ^ 56 ≤ va.toNat → va.toNat / 2 ^ 32 ≠ 0xFF000000 → checkAtom s t n sc va = .error (.fault 0x11 0 (some va))) ∧
    (va.toNat / 2 ^ 32 = 0xFF000000 →
      (spTarget s t (va.toNat % 2 ^ 32) = none → checkAtom s t n sc va = .error (.fault 0x11 0 (some va))) ∧
      (∀ c o, spTarget s t (va.toNat % 2 ^ 32) = some (c, o) → va.toNat % n = 0 →
        checkAtom s t n sc va = if sc = .core ∧ c ≠ t.core then .error (.fault 0x13 0 (some va)) else .ok (.bank c o))))

/-- ATOM and SCATADD whose lanes may all act and have a place (R215, R223 to R226): each lane in order finds what the one before it left,
and the results are pending; a release comes before them and an acquire after them, and SCATADD adds lanes of one pass at one address first.
Lane by lane: the update of a word at its bank or of its home stores R224's value of what it finds there and of the lane's operands, gives
the lane what it found, and the next goes on from the state it leaves; poison there is consumed. SCATADD's updates are one for each address
of a pass, of the lowest of its lanes, with the lanes' sum in their order, and each adds it to what it finds. What another package holds it
updates itself: the request is sent, and a lane's result is pending until the answer; a fragment whose atomic orders then waits for it
(R324, R437). The model's choices that it rests on: log entries 12, 14. -/
def Obligations.AtomicResults : Prop :=
  (∀ s t f i, Runs s t f →
    (∀ la op ord sc a ea (place : Nat → AtomPlace), atomTable i = some (la, op, ord, sc, a, ea) →
      let p := if op = .cas ∨ op = .dadd then 3 else 2
      let q := if op = .dadd then 2 else 1
      let n := if op = .dadd then 8 else 4
      let v := fun l => if op = .dadd then t.opd2 l 1 else (t.opd l 1).setWidth 64
      let cmp := fun l => if op = .cas then (t.opd l 2).setWidth 64 else (0 : DWord)
      let rels := ord ∈ [MemOrder.rel, .ar]
      let acqs := ord ∈ [MemOrder.acq, .ar]
      let S0 := issued i s t f { pops := p, pushes := q }
      Clear s t f { pops := p, pushes := q, access := true, scalars := [a], closed := true, ordered := decide (rels ∨ acqs),
                    engines := decide rels } →
      t.sb.length < 16 → (∀ l ∈ t.doers f, checkAtom S0 t n sc (ea t l) = .ok (place l)) →
      PairsAgree t (t.doers f) (fun l => (ea t l, v l, cmp l)) →
      (rels → sc ∈ [Scope.pod, .sys] → ∀ m ∈ s.fabric.msgs, m.isStore t.uid = false) →
      let l := (t.doers f).filterMap fun x => match place x with
        | .global va => some (x, va)
        | .bank .. => none
      let placed := locateAll (if rels ∧ sc ≠ .core then writeBackAll S0 t.core else S0) t .rw l
      AllPlaced placed.2 →
      ∀ S' vals, performAtoms placed.1 t op (ea t) v cmp (l.zip placed.2) ((t.doers f).map fun x => (x, place x)) [] = .ok (S', vals) →
        let sent := groupSent (l.zip placed.2) fun x => Acc.atom x.1 x.2 op sc (v x.1) (cmp x.1) t.nextSb
        let done := sendAll (withTeam S' t.uid fun u =>
          pendTop (u.stackOp f p q fun x _ => laneResult t q vals x) f q la (!sent.isEmpty)) t f sent
        exec i s = .next (leave (
          if sent ≠ [] ∧ (rels ∨ acqs) then modTeam done t.uid fun u => modFrag u f.num fun x =>
            { x with st := .parked, wait := some (.acquire (if acqs then sc else .core)) }
          else if acqs ∧ sc ≠ .core then invalidateAll done t.core else done) t.uid f (bytesOf i))) ∧
    (∀ ty a ea, scatTable i = some (ty, a, ea) →
      let p := if ty = .f64 then 3 else 2
      let n := if ty = .f64 then 8 else 4
      let v := fun l => if ty = .f64 then t.opd2 l 1 else (t.opd l 1).setWidth 64
      Clear s t f { pops := p, access := true, scalars := [a], closed := true } →
      AddressesOk n (t.doers f) (ea t) → (∀ l ∈ t.doers f, (ea t l).getLsbD 55 = false) →
      PairsAgree t (t.doers f) (fun l => (ea t l, v l)) →
      let puts := (t.doers f).foldl (fun x l => scatPut ty l (ea t l) (v l) x) []
      let placed := locateAll (issued i s t f { pops := p }) t .rw (puts.map (·.1))
      AllPlaced placed.2 → ∀ S', performScats placed.1 t ty (puts.zip placed.2) = .ok S' →
        exec i s = .next (leave (modTeam S' t.uid fun u => u.stackOp f p 0 fun _ _ => []) t.uid f (bytesOf i)))) ∧
  (∀ s t op (ea v cmp : Nat → DWord) fx l r acc,
    let n := if op = .dadd then 8 else 4
    let new := fun m => atomRule op m (v l) (cmp l)
    let found := fun (m : DWord) => if op = .dadd then [Entry.mk (hi32 m) none, ⟨lo32 m, none⟩] else [⟨lo32 m, none⟩]
    let goesOn := fun (y : State × Except Poison DWord) (bad : Poison → Stop) (all : List (Nat × AtomPlace)) =>
      (∀ p, y.2 = .error p → performAtoms s t op ea v cmp fx all acc = .error (bad p)) ∧
      (∀ m, y.2 = .ok m → performAtoms s t op ea v cmp fx all acc = performAtoms y.1 t op ea v cmp fx r (acc ++ [(l, found m)]))
    performAtoms s t op ea v cmp fx [] acc = .ok (s, acc) ∧
    (∀ core off, goesOn (bankRmw s core off n new) (fun p => .poison false [p] id (some (ea l))) ((l, .bank core off) :: r)) ∧
    (∀ va before w rest, fx = before ++ ((l, va), Fx.at w) :: rest → (∀ y ∈ before, y.1 ≠ (l, va)) →
      ((∀ k x, w ≠ .remote k x) → goesOn (globalRmw s t w n new) (rmwPoison t w va) ((l, .global va) :: r)) ∧
      ((∃ k x, w = .remote k x) →
        performAtoms s t op ea v cmp fx ((l, .global va) :: r) acc = performAtoms s t op ea v cmp fx r acc))) ∧
  (∀ s t n (g : DWord → DWord) core off pa e,
    (∀ p, spPoison s core off = some p → bankRmw s core off n g = (s, .error p)) ∧
    (spPoison s core off = none → let m := BitVec.ofNat 64 (leNat (spRead s core off n))
      bankRmw s core off n g = (spWrite s core off (leBytes n (g m).toNat) none, .ok m)) ∧
    globalRmw s t (.mem pa e) n g = homeRmw (flushLine s t.core (pa / 64)) pa n e.otag e.prot t.uid g) ∧
  (∀ s t ty (x : LaneAddr × DWord) r,
    let n := if ty = .f64 then 8 else 4
    performScats s t ty [] = .ok s ∧
    (∀ w, let y := globalRmw s t w n fun m => scatRule ty m x.2
      (∀ p, y.2 = .error p → performScats s t ty ((x, .at w) :: r) = .error (rmwPoison t w x.1.2 p)) ∧
      (∀ m, y.2 = .ok m → performScats s t ty ((x, .at w) :: r) = performScats y.1 t ty r))) ∧
  (∀ ty (ls : List Nat) (ea v : Nat → DWord),
    let puts := ls.foldl (fun x l => scatPut ty l (ea l) (v l) x) []
    (puts.map fun x => (x.1.2, x.1.1 / 32)).Nodup ∧
    (∀ l ∈ ls, ∃ x ∈ puts, x.1.2 = ea l ∧ x.1.1 / 32 = l / 32) ∧
    ∀ x ∈ puts, ∃ more, (ls.filter fun l => decide (ea l = x.1.2 ∧ l / 32 = x.1.1 / 32)) = x.1.1 :: more ∧
      x.2 = more.foldl (fun a l => scatRule ty a (v l)) (v x.1.1))

/-- QNT and DQNT (R97, R118 to R124, R144 to R146): QNT writes the streams of the row that its active lanes' words make, and pops them;
sides of a protected team whose rows differ raise SDC_DETECT before any store; without a lane that acts it only pops. The row of a list of
words: group by group the block starts, exponents, sub-shifts and codes of R123, in the layout of R118 and R120, with the flags of R124.
DQNT gives each lane its element, with the flags of all of them: the value of the code that stands at its index in the streams, under the
exponent of its block and the sub-shift of its quarter, and +0 beyond the row; that a lane of group 0 reads the first byte of the bitmap and
takes its poison is the model's choice (log entry 48). The model's choices that it rests on: log entries 14, 48. -/
def Obligations.QuantResults : Prop :=
  (∀ s t f i code a w, Runs s t f → quantTable i = some (code, a, w) →
    (w = none → Clear s t f { pops := 1, access := true, scalars := [a], steps := false } → t.region = none →
      ∀ S1 d, readHseDesc (issued i s t f { pops := 1 }) t f code (getS t a) = .ok (S1, d) →
      (t.acts f = false → exec i s = .next (leave (modTeam S1 t.uid fun u => u.stackOp f 1 0 fun _ _ => []) t.uid f (bytesOf i))) ∧
      (t.acts f = true →
        let row := quantise d.m d.groups (fmtFtz f.fmt) (qntRow t f 0 (16 * d.groups))
        let other := quantise d.m d.groups (fmtFtz f.fmt) (qntRow t f 1 (16 * d.groups))
        (t.isProtected = true → row.streams ≠ other.streams → exec i s = .next (raise s i t f (bytesOf i) (.fault 0x20 0 none))) ∧
        ((t.isProtected = true → row.streams = other.streams) →
          let streams := [(d.elem, row.elem), (d.micro, row.micro), (d.bmap, row.bmap), (d.exps, row.exps)]
          ∀ S2 l, locatePieces t f .write S1 (streams.flatMap fun x => pieces x.1 x.2.length) = .ok (S2, l) →
          exec i s = .next (leave (writePieces (modTeam S2 t.uid fun u => (u.stackOp f 1 0 fun _ _ => []).orFlags row.fl) t false f.pc l
            (streams.flatMap (·.2))) t.uid f (bytesOf i))))) ∧
    (∀ la, w = some la → Clear s t f { pops := 1, pushes := 1, access := true, scalars := [a] } → t.sb.length < 16 →
      ∀ S1 d, readHseDesc (issued i s t f { pops := 1, pushes := 1 }) t f code (getS t a) = .ok (S1, d) →
      ∀ S2 vals fl, dqntLanes S1 t d (fmtFtz f.fmt) ((t.accessors f).map fun l => (l, (t.opd l 0).toNat)) = (S2, vals, fl, []) →
        exec i s = .next (leave (withTeam S2 t.uid fun u =>
          pendTop ((u.stackOp f 1 1 fun l _ => laneResult t 1 vals l).orFlags fl) f 1 la false) t.uid f (bytesOf i)))) ∧
  (∀ m ∈ [2, 4, 7], ∀ groups ftz (ws : List Word), 0 < groups → ws.length = 16 * groups →
    let r := quantise m groups ftz ws
    let x := fun j => quantInput ftz (ws.getD j 0)
    let e := blockExp r.bmap r.exps
    let back := fun g j => codeValue m (e g) (elemShift r.micro g j) (elemCode m r.elem g j)
    let infinite := fun j => (ws.getD j 0).toNat % f32F.signBit = f32F.infBits
    r.elem.length = 2 * (1 + m) * groups ∧ r.micro.length = groups ∧ r.bmap.length = (groups + 7) / 8 ∧ r.exps.length = groups ∧
    (∀ g < groups, QuantGroup m r x g) ∧
    (∀ k, (List.range groups).countP (blockStart r.bmap) ≤ k → r.exps.getD k 0 = 0) ∧
    (r.fl.getLsbD 4 = true ↔ ∃ g < groups, ∃ j < 16, x (16 * g + j) ≠ none ∧ (infinite (16 * g + j) ∨ back g j ≠ x (16 * g + j))) ∧
    (r.fl.getLsbD 3 = true ↔ ∃ g < groups, ∃ j < 16, x (16 * g + j) ≠ none ∧ x (16 * g + j) ≠ some 0 ∧ ¬ infinite (16 * g + j) ∧
      e g ≠ 0 ∧ e g ≠ 255 ∧ elemCode m r.elem g j = 0) ∧
    (r.fl.getLsbD 2 = true ↔ (∃ j < 16 * groups, infinite j) ∨ ∃ g < groups, (∀ j < 16, x (16 * g + j) ≠ none) ∧
      ∃ j < 16, ∃ q, x (16 * g + j) = some q ∧ 2 ^ 127 ≤ |q|) ∧
    (r.fl.getLsbD 0 = true ↔ ∃ j < 16 * groups, snanBits f32F (ws.getD j 0).toNat = true) ∧ r.fl.getLsbD 1 = false) ∧
  (∀ s t (d : HseDesc) idx ftz, d.m ∈ [2, 4, 7] →
    (d.groups ≤ idx / 16 → dqntLane s t d idx ftz = (s, .ok (Entry.zero, 0))) ∧
    (idx / 16 < d.groups →
      let g := idx / 16
      let bit := idx % 16 * (1 + d.m)
      ∀ S1 bm p0 S2 ex p1 S3 mi p2 S4 el p3,
      laneRead s t d.bmap (g / 8 + 1) = (S1, .ok (bm, p0)) →
      laneRead S1 t (d.exps + BitVec.ofNat 64 ((List.range g).countP fun k => (bm.getD ((k + 1) / 8) 0).getLsbD ((k + 1) % 8))) 1 =
        (S2, .ok (ex, p1)) →
      laneRead S2 t (d.micro + BitVec.ofNat 64 g) 1 = (S3, .ok (mi, p2)) →
      laneRead S3 t (d.elem + BitVec.ofNat 64 (2 * (1 + d.m) * g + bit / 8)) ((bit + d.m) / 8 + 1 - bit / 8) = (S4, .ok (el, p3)) →
      ∃ w fl p, dqntLane s t d idx ftz = (S4, .ok (⟨w, p⟩, fl)) ∧
        DequantOf d.m (leNat ex) (leNat mi / 4 ^ (idx % 16 / 4) % 4) ((BitVec.ofNat (1 + d.m) (leNat el / 2 ^ (bit % 8))).toInt) ftz w fl ∧
        (p = none ↔ p0 = none ∧ p1 = none ∧ p2 = none ∧ p3 = none))) ∧
  (∀ s t d ftz, dqntLanes s t d ftz [] = (s, [], 0, []) ∧
    ∀ l a S vals fl bad S' e g, dqntLanes s t d ftz l = (S, vals, fl, bad) → dqntLane S t d a.2 ftz = (S', .ok (e, g)) →
      dqntLanes s t d ftz (l ++ [a]) = (S', vals ++ [(a.1, [e])], fl ||| g, bad))

/-- Fences (R227, R254, R324): with the waits over, a release writes the core's cache back and an acquire empties it, at quad scope and
wider; a fence in an open region raises REGION_VIOLATION (R177). REL and ACQ (R229, R323): REL writes back the lines of the ranges bound to
the object and adds 1 to it; ACQ drops this core's line of the object and those of the ranges. BIND and UNBIND (R228): a range of 2^k bytes,
k from 6 to 40, aligned to its size and not in the pod window, is one of the up to 8 of an object, of which a context has up to 256; a range
already bound, or an object without one, changes nothing. WAITV (R230): after it has issued the fragment parks as a watcher of its line for
4096 cycles. That BIND of a range in the pod window answers PERM INFO 6 is the model's reading (log entry 51). The model's choices that it
rests on: log entries 23, 51. -/
def Obligations.OrderingResults : Prop :=
  (∀ s t f i rel acq sc, Runs s t f → fenceTable i = some (rel, acq, sc) →
    (Clear s t f { ordered := true, engines := true, closed := true } →
      (rel = true → sc ∈ [Scope.pod, .sys] → ∀ m ∈ s.fabric.msgs, m.isStore t.uid = false) →
      let S := if rel then releasedAt (issued i s t f {}) t.core sc else issued i s t f {}
      exec i s = .next (leave (if acq then acquiredAt S t.core sc else S) t.uid f (bytesOf i))) ∧
    (∀ r, t.region = some r → f.depth ≤ t.stackDecl → exec i s = .next (stopped s t f 0x16 0))) ∧
  (∀ s t f (a : SReg), Runs s t f → ObjectOk (getS t a) → ∀ S1 p,
    (Clear s t f { scalars := [a], ordered := true, engines := true, closed := true, access := true } →
      locate (issued (.rel a) s t f {}) t (getS t a) .rw = (S1, .at p) → ∀ S2 m,
      globalRmw ((boundLines S1 t (getS t a)).foldl (fun x l => writeBackLine x t.core l) S1) t p 8 (fun m => m + 1) = (S2, .ok m) →
      exec (.rel a) s = .next (leave S2 t.uid f 4)) ∧
    (Clear s t f { scalars := [a], ordered := true, access := true } → ∀ pa e, p = .mem pa e →
      locate (issued (.acq a) s t f {}) t (getS t a) .read = (S1, .at p) →
      let S2 := homeTouch (flushLine S1 t.core (pa / 64)) (pa / 64) e.otag e.prot true
      exec (.acq a) s = .next (leave ((boundLines S2 t (getS t a)).foldl (fun x l => flushLine x t.core l) S2) t.uid f 4))) ∧
  (∀ s t f (a b : SReg), Runs s t f → ObjectOk (getS t a) →
    let obj := getS t a
    let w := getS t b
    let k := w.toNat / 2 ^ 56
    let good := 6 ≤ k ∧ k ≤ 40 ∧ w.toNat % 2 ^ 56 % 2 ^ k = 0
    let S := issued (.bind a b) s t f {}
    (Clear s t f { scalars := [a, b], closed := true } → good → w.getLsbD 55 = true →
      exec (.bind a b) s = .next (classS s t.uid 0x11 0 6 f.pc f.active (some (w &&& 0x00FFFFFFFFFFFFFF)))) ∧
    (Clear s t f { scalars := [a, b], closed := true } → (good → w.getLsbD 55 = false) →
      (¬ good → exec (.bind a b) s = .next (stopped s t f 0x15 1)) ∧
      (good → rangesOf s t.tag obj = none → (s.hub.bindings.filter fun x => x.1 == t.tag).length < 256 →
        exec (.bind a b) s = .next (leave { S with hub := { S.hub with bindings := S.hub.bindings ++ [(t.tag, obj, [w])] } } t.uid f 4)) ∧
      (good → ∀ l, rangesOf s t.tag obj = some l → w ∈ l → exec (.bind a b) s = .next (leave S t.uid f 4)) ∧
      (good → ∀ l, rangesOf s t.tag obj = some l → w ∉ l → l.length < 8 →
        exec (.bind a b) s = .next (leave { S with hub := { S.hub with bindings := S.hub.bindings.map fun x =>
          if x.1 = t.tag ∧ x.2.1 = obj then (x.1, x.2.1, l ++ [w]) else x } } t.uid f 4)) ∧
      (good → ∀ l, rangesOf s t.tag obj = some l → w ∉ l → 8 ≤ l.length → exec (.bind a b) s = .next (stopped s t f 0x15 2))) ∧
    (Clear s t f { scalars := [a], closed := true } →
      let S := issued (.unbind a) s t f {}
      exec (.unbind a) s = .next (leave { S with hub := { S.hub with bindings := S.hub.bindings.filter fun x =>
        !(x.1 == t.tag && x.2.1 == obj) } } t.uid f 4))) ∧
  (∀ s t f (a : SReg), Runs s t f → Clear s t f { scalars := [a], access := true } → (getS t a).toNat < 2 ^ 55 → ∀ S1 p pa,
    locate (issued (.waitv a) s t f {}) t (getS t a) .read = (S1, .at p) → (p = .reg pa ∨ ∃ e, p = .mem pa e) →
    exec (.waitv a) s = .next (leave (modTeam S1 t.uid fun u => modFrag u f.num fun x =>
      { x with st := .parked, wait := some (.watch (pa / 64) 4096 false) }) t.uid f 4))

/-- The barrier words (R77, R231, R232): an arrival releases, counts in ARRIVED or, the last one, starts the next generation, and marks
the fragment; a wait parks while the word's generation is that of the fragment's own mark, and otherwise acquires and takes the mark away;
sync does both. A word with EXPECT zero or reserved bits set is refused. The model's choices that it rests on: log entry 44. -/
def Obligations.BarrierResults : Prop :=
  ∀ s t f (a : SReg) core off, Runs s t f → checkSp s t 8 (getS t a) = .ok (core, off) → spPoison s core off = none →
    let w := leNat (spRead s core off 8)
    let va := getS t a
    let sc : Scope := if core = t.core then .core else .quad
    let arrive := fun (i : Instr) =>
      modTeam (spWrite (releasedAt (issued i s t f {}) t.core sc) core off (leBytes 8 (barrierArrived w)) none) t.uid fun u =>
        modFrag u f.num fun x => { x with mark := some { addr := BitVec.ofNat 25 va.toNat, gen := BitVec.ofNat 16 (w / 2 ^ 32 % 65536) } }
    let park := fun (x : State) (g : Nat) => modTeam x t.uid fun u => modFrag u f.num fun y =>
      { y with st := .parked, wait := some (.barrier core off (BitVec.ofNat 16 g) (core != t.core)) }
    let goOn := fun (x : State) => acquiredAt (modTeam x t.uid fun u => modFrag u f.num fun y => { y with mark := none }) t.core sc
    (Clear s t f { scalars := [a], ordered := true, engines := true, closed := true } →
      (w % 65536 ≠ 0 → w / 2 ^ 48 = 0 →
        exec (.barArrive a) s = .next (leave (arrive (.barArrive a)) t.uid f 4) ∧
        (w / 65536 % 65536 + 1 ≠ w % 65536 →
          exec (.barSync a) s = .next (leave (park (arrive (.barSync a)) (w / 2 ^ 32 % 65536)) t.uid f 4)) ∧
        (w / 65536 % 65536 + 1 = w % 65536 →
          exec (.barSync a) s = .next (leave (goOn (arrive (.barSync a))) t.uid f 4))) ∧
      (w % 65536 = 0 ∨ w / 2 ^ 48 ≠ 0 → exec (.barArrive a) s = .next (stopped s t f 0x15 3))) ∧
    (Clear s t f { scalars := [a], ordered := true, closed := true } →
      let own : Mark := { addr := BitVec.ofNat 25 va.toNat, gen := BitVec.ofNat 16 (w / 2 ^ 32 % 65536) }
      (f.mark = some own → exec (.barWait a) s = .next (leave (park (issued (.barWait a) s t f {}) (w / 2 ^ 32 % 65536)) t.uid f 4)) ∧
      (f.mark ≠ some own → exec (.barWait a) s = .next (leave (goOn (issued (.barWait a) s t f {})) t.uid f 4)))

/-- NBAR and GBAR (R233, R234): a team of a coresident launch releases, counts in the channel of its barrier, parks for the generation,
and the arrival of the last member releases them all; another team's raises NOT_CORESIDENT, code 0x19. The release of a named barrier
(R233, R234): while members are missing nothing happens; with the last one the generation advances, the channel is free, and no fragment
of the launch waits for that generation any more. The model's choices that it rests on: log entry 24. -/
def Obligations.NamedBarrierResults : Prop :=
  (∀ s t f i level id, Runs s t f → namedTable i = some (level, id) → Clear s t f { ordered := true, engines := true, closed := true } →
    (t.isCoresident = false → exec i s = .next (stopped s t f 0x19 0)) ∧
    (t.isCoresident = true →
      let S := issued i s t f {}
      let unit := unitOf t level
      let l := chansOf S level unit
      (l.any fun c => c.launch == t.launch && c.id == id) = true ∨ l.length < 16 →
      let S1 := setChans (writeBackAll S t.core) level unit (chanArrived l t.launch id (membersIn S t.launch level unit))
      let S2 := modTeam S1 t.uid fun u => modFrag u f.num fun x =>
        { x with st := .parked, wait := some (.nbar level unit id (genOf S level unit t.launch id)) }
      exec i s = .next (leave (releaseChan S2 level unit t.launch id) t.uid f (bytesOf i)))) ∧
  (∀ s level unit launch id c, level < 3 → (chansOf s level unit).find? (fun x => x.launch == launch && x.id == id) = some c →
    (c.arrived < membersIn s launch level unit → releaseChan s level unit launch id = s) ∧
    (membersIn s launch level unit ≤ c.arrived →
      let s' := releaseChan s level unit launch id
      genOf s' level unit launch id = (genOf s level unit launch id + 1) % 2 ^ 32 ∧
      chansOf s' level unit = (chansOf s level unit).filter (fun x => !(x.launch == launch && x.id == id)) ∧
      ∀ t ∈ s'.teams, t.launch = launch → ∀ f ∈ t.frags,
        f.wait = some (.nbar level unit id (genOf s level unit launch id)) → f.st ≠ .parked))

/-- TLWAIT, TLREAD and TLSIG (R239 to R241): a counter of the context's own is waited for, read, or raised, never lowered; another's, or
one out of range, raises error 0x1B with INFO 1. The model's choices that it rests on: log entries 21, 44. -/
def Obligations.TimelineResults : Prop :=
  ∀ s t f (d a b : SReg), Runs s t f →
    let n := (getS t a).toNat
    (counterOwner s n = some t.tag →
      (Clear s t f { scalars := [a, b], ordered := true } →
        ((getS t b).toNat ≤ (counter s n).toNat →
          exec (.tlwait a b) s = .next (leave (invalidateAll (issued (.tlwait a b) s t f {}) t.core) t.uid f 4)) ∧
        ((counter s n).toNat < (getS t b).toNat →
          exec (.tlwait a b) s = .next (leave (modTeam (issued (.tlwait a b) s t f {}) t.uid fun u => modFrag u f.num fun x =>
            { x with st := .parked, wait := some (.timeline n (getS t b)) }) t.uid f 4))) ∧
      (Clear s t f { scalars := [d, a] } →
        exec (.tlread d a) s = .next (after (.tlread d a) s t f { scalars := [d, a] } fun u => setS u d (counter s n))) ∧
      (Clear s t f { scalars := [a, b], ordered := true, engines := true, closed := true } → 4096 ≤ n → n < 8192 →
        ∃ s', exec (.tlsig a b) s = .next (leave s' t.uid f 4) ∧
          (counter s' n).toNat = Max.max (counter s n).toNat (getS t b).toNat ∧
          ∀ m, 3280 ≤ m → m ≠ n → counter s' m = counter s m)) ∧
    (counterOwner s n ≠ some t.tag →
      (Clear s t f { scalars := [d, a] } → exec (.tlread d a) s = .next (stopped s t f 0x1B 1)) ∧
      (Clear s t f { scalars := [a, b], ordered := true } → exec (.tlwait a b) s = .next (stopped s t f 0x1B 1)) ∧
      (Clear s t f { scalars := [a, b], ordered := true, engines := true, closed := true } →
        exec (.tlsig a b) s = .next (stopped s t f 0x1B 1))) ∧
    (Clear s t f { scalars := [a, b], ordered := true, engines := true, closed := true } → ¬ (4096 ≤ n ∧ n < 8192) →
      exec (.tlsig a b) s = .next (stopped s t f 0x1B 1))

/-- COPY accepted (R235, R236): the descriptor's command goes to the end of its context's queue, and sd takes the value that the context's
counter will reach; with no lane that acts it takes the counter and nothing is queued. A context of another tag is refused. The model's
choices that it rests on: log entry 22. -/
def Obligations.CopyResults : Prop :=
  ∀ s t f kind fe (d a b : SReg), Runs s t f → Clear s t f { access := true, closed := true, scalars := [d, a, b] } →
    let S := issued (.copy kind fe d a b) s t f {}
    let die := dieOf t.core
    let n := (getS t b).toNat
    let w : Word := tabGet 0 (getDie s die).cctx n
    let mine := w.getLsbD 31 = true ∧ w.setWidth 12 = t.tag
    (n < 768 → mine → t.acts f = false →
      exec (.copy kind fe d a b) s = .next (leave (modTeam S t.uid fun u => setS u d (getCtx s die n).counter) t.uid f 4)) ∧
    (n < 768 → mine → t.acts f = true → (getS t a).toNat % 64 = 0 → ∀ S1 x, readRange S t f (getS t a) 64 = .ok (S1, x) →
      (copyDesc x).ok S1 t kind fe = true → (getCtx S1 die n).queue.length < 32 →
      let c : CopyCmd :=
        { kind, fe, src := (copyDesc x).src, dst := (copyDesc x).dst, len := (copyDesc x).len, rows := (copyDesc x).rows,
          sstride := (copyDesc x).sstride, dstride := (copyDesc x).dstride, index := (copyDesc x).index, pattern := (copyDesc x).pattern,
          tag := t.tag, team := t.uid, launch := t.launch, core := t.core, pc := f.pc, progress := 0, source := none, root := none }
      let S2 := setCtx S1 die n { getCtx S1 die n with queue := (getCtx S1 die n).queue ++ [c] }
      exec (.copy kind fe d a b) s = .next (leave (modTeam S2 t.uid fun u =>
        setS u d ((getCtx S1 die n).counter + BitVec.ofNat 64 ((getCtx S1 die n).queue.length + 1))) t.uid f 4)) ∧
    (768 ≤ n → exec (.copy kind fe d a b) s = .next (stopped s t f 0x1B 1)) ∧
    (n < 768 → ¬ mine → exec (.copy kind fe d a b) s = .next (stopped s t f 0x1B 0))

/-- Matrix commands accepted (R243 to R249, R255, R258 to R265): with the tile in the partition, the team converged, valid types and
operands, no region open where the rule forbids it, and room in the queue, the command is appended and the fragment goes on. Any matrix
command of a team that is not converged raises ILLEGAL_CONVERGENCE, code 0x18, with nothing done (R243), and one whose tile is not in the
partition is illegal, before every check but those of decoding (R51, R245). The model's choices that it rests
on: log entries 10, 13. -/
def Obligations.MatrixAccepted : Prop :=
  (∀ s t f, Runs s t f → Converged t f → t.region = none → (getCore s t.core).matq.length < 4 →
    (∀ i fe a b c e tile sh, productTable i = some (fe, a, b, c, e, tile) → Clear s t f { scalars := [a, b, c, e] } → TileOk s t tile →
      matShape (fieldOf f.fmt 0 4) (fieldOf f.fmt 4 4) (fieldOf f.fmt 8 3) = some sh → sh.path ≠ .hse →
      (∀ r ∈ [a, b], checkOperand s t (getS t r) = .ok ()) → (∀ r ∈ [a, b, c, e], (getS t r).toNat % 16 = 0) →
      (fe = true → 2 ^ 56 ≤ (getS t a).toNat ∧ 2 ^ 56 ≤ (getS t b).toNat) →
      exec i s = .next (leave (matAppended (issued i s t f {}) t.core (newMat i t f (getS t a) (getS t b) (getS t c) (getS t e)))
        t.uid f (bytesOf i))) ∧
    (∀ i a b c e tile sh, productTable i = some (false, a, b, c, e, tile) → Clear s t f { scalars := [a, b, c, e] } → TileOk s t tile →
      matShape (fieldOf f.fmt 0 4) (fieldOf f.fmt 4 4) (fieldOf f.fmt 8 3) = some sh → sh.path = .hse →
      (∀ r ∈ [a, b], checkOperand s t (getS t r) = .ok ()) →
      ∀ S1 x dx S2 y dy, issueHse (issued i s t f {}) t f (fieldOf f.fmt 0 4) (getS t a) = .ok (S1, x, dx) →
      issueHse S1 t f (fieldOf f.fmt 4 4) (getS t b) = .ok (S2, y, dy) → (getCore S2 t.core).matq.length < 4 →
      checkPosition (getS t c) sh.k dx.groups = .ok () → checkPosition (getS t e) sh.k dy.groups = .ok () →
      exec i s = .next (leave (matAppended S2 t.core
        { newMat i t f (getS t a) (getS t b) (getS t c) (getS t e) with descA := x, descB := y }) t.uid f (bytesOf i))) ∧
    (∀ i bsr fe a b c e tile, sparseTable i = some (bsr, fe, a, b, c, e, tile) → Clear s t f { scalars := [a, b, c, e] } →
      TileOk s t tile → sparseFmt bsr f.fmt = true → (getS t a).toNat < 2 ^ 55 → (getS t a).toNat % 64 = 0 →
      checkOperand s t (getS t b) = .ok () → (getS t b).toNat % 16 = 0 → (getS t c).toNat % 16 = 0 → (getS t e).toNat < 2 ^ 32 →
      ∀ S1 x, readRange (issued i s t f {}) t f (getS t a) 64 = .ok (S1, x) → (getCore S1 t.core).matq.length < 4 →
      let d := sparseDesc x
      d.rowptr.toNat % 4 = 0 → d.colidx.toNat % 4 = 0 → d.values.toNat % 16 = 0 → d.zeros = true → d.nrows ≠ 0 → d.ncols ≠ 0 →
      d.form = fieldOf f.fmt 0 4 + (if bsr then 0 else 16) →
      (fe = true → ∀ x ∈ [getS t b, d.rowptr, d.colidx, d.values], 2 ^ 56 ≤ x.toNat) →
      exec i s = .next (leave (matAppended S1 t.core
        { newMat i t f (getS t a) (getS t b) (getS t c) (getS t e) with descA := x }) t.uid f (bytesOf i))) ∧
    (∀ tile, Clear s t f {} → TileOk s t tile →
      exec (.accz tile) s = .next (leave (matAppended (issued (.accz tile) s t f {}) t.core (newMat (.accz tile) t f 0 0 0 0)) t.uid f
        (bytesOf (.accz tile)))) ∧
    (∀ fe a b tile (ty : BitVec 4) k, Clear s t f { scalars := [a, b] } → TileOk s t tile → ty.toNat < 12 → CvtTy.ofCode ty.toNat = some k →
      accldPair (fieldOf f.fmt 8 3) k = true → checkShape (fieldOf f.fmt 8 3) false (getS t b) = .ok () →
      checkAccMem s t fe (getS t a) (getS t b) (tyBytes k) = .ok () →
      exec (.accld fe a b tile ty) s = .next (leave (matAppended (issued (.accld fe a b tile ty) s t f {}) t.core
        (newMat (.accld fe a b tile ty) t f (getS t a) (getS t b) 0 0)) t.uid f (bytesOf (.accld fe a b tile ty)))) ∧
    (∀ fe a b c tile (ty : BitVec 4) sc amax, Clear s t f { scalars := if amax then [a, b, c] else [a, b] } → TileOk s t tile →
      ty.toNat < 15 →
      let i := Instr.accst fe a b c tile ty sc amax
      (amax = true → ((getS t c).toNat < 2 ^ 55 ∨ 2 ^ 56 ≤ (getS t c).toNat) ∧
        ∃ place, checkAtom (issued i s t f {}) t 4 sc (getS t c) = .ok place) →
      (∀ k, CvtTy.ofCode ty.toNat = some k → accstPair (fieldOf f.fmt 8 3) k = true →
        checkShape (fieldOf f.fmt 8 3) false (getS t b) = .ok () → checkAccMem s t fe (getS t a) (getS t b) (tyBytes k) = .ok () →
        exec i s = .next (leave (matAppended (issued i s t f {}) t.core (newMat i t f (getS t a) (getS t b) (getS t c) 0)) t.uid f
          (bytesOf i))) ∧
      (CvtTy.ofCode ty.toNat = none → fieldOf f.fmt 8 3 = 0 → fe = false → amax = false → checkShape 0 true (getS t b) = .ok () →
        checkOperand s t (getS t a) = .ok () →
        ∀ S1 x d, issueHse (issued i s t f {}) t f (ty.toNat - 4) (getS t a) = .ok (S1, x, d) → (getCore S1 t.core).matq.length < 4 →
        (shapeCols (getS t b) + 15) / 16 ≤ d.groups →
        exec i s = .next (leave (matAppended S1 t.core { newMat i t f (getS t a) (getS t b) (getS t c) 0 with descA := x }) t.uid f
          (bytesOf i)))) ∧
    (∀ la wide tile, Clear s t f { pops := 1, pushes := if wide then 2 else 1 } → TileOk s t tile → t.sb.length < 16 →
      let i := Instr.accrd la wide tile
      let q := if wide then 2 else 1
      exec i s = .next (leave (matAppended (withTeam (issued i s t f { pops := 1, pushes := q }) t.uid fun u =>
          pendTop (u.stackOp f 1 q fun _ _ => List.replicate q Entry.zero) f q la true) t.core
        { newMat i t f 0 0 0 0 with lanes := (t.accessors f).map fun l => (l, t.opd l 0, 0), sb := t.nextSb }) t.uid f (bytesOf i))) ∧
    (∀ wide tile, Clear s t f { pops := if wide then 3 else 2 } → TileOk s t tile →
      let i := Instr.accwr wide tile
      let p := if wide then 3 else 2
      let val := fun l => if wide then t.opd2 l 1 else (t.opd l 1).setWidth 64
      PairsAgree t (t.accessors f) (fun l => (t.opd l 0, val l)) →
      exec i s = .next (leave (matAppended (modTeam (issued i s t f { pops := p }) t.uid fun u => u.stackOp f p 0 fun _ _ => []) t.core
        { newMat i t f 0 0 0 0 with lanes := (t.accessors f).map fun l => (l, t.opd l 0, val l) }) t.uid f (bytesOf i))) ∧
    (∀ i fe a b c e tile, productTable i = some (fe, a, b, c, e, tile) → Clear s t f { scalars := [a, b, c, e] } → TileOk s t tile →
      matShape (fieldOf f.fmt 0 4) (fieldOf f.fmt 4 4) (fieldOf f.fmt 8 3) = none → exec i s = .next (stopped s t f 0x15 5))) ∧
  (∀ s t f i n sh, Runs s t f → matTable i = some (n, sh) →
    (TileOk s t n → (∃ l, l < t.width ∧ t.width ≤ 1024 ∧ t.exited.getLsbD l = false ∧ f.active.getLsbD l = false) → Clear s t f sh →
      exec i s = .next (stopped s t f 0x18 0)) ∧
    (¬ TileOk s t n → exec i s = .next (raise s i t f (bytesOf i) (.illop 4))))

/-- IXU commands accepted (R264, R266 to R271): the stream of the descriptor read; pairs for the lanes, with zeros pushed and pending and
the count's scalar awaited; pairs for the scratchpad; the status. The model's choices that it rests on: log entries 14, 37. -/
def Obligations.IxuAccepted : Prop :=
  ∀ s t f, Runs s t f → Converged t f → t.region = none →
    (∀ mode a, Clear s t f { scalars := [a] } → (getS t a).toNat < 2 ^ 55 → (getS t a).toNat % 32 = 0 → ∀ S1 x,
      readRange (issued (.ixset mode a) s t f {}) t f (getS t a) 32 = .ok (S1, x) →
      let q := fun (o n : Nat) => leNat ((x.drop o).take n)
      (∀ o ∈ [0, 8], (q o 8 < 2 ^ 55 ∨ q o 8 / 2 ^ 32 = 0xFF000000) ∧ q o 8 % 4 = 0) → q 0x1C 4 = 0 →
      (S1.teams.filter fun u => u.core == t.core && u.uid != t.uid && holdsIx S1 u).length < 16 →
      exec (.ixset mode a) s = .next (leave (ixAppended S1 t.core t.uid (.set
        { mode, a := BitVec.ofNat 64 (q 0 8), b := BitVec.ofNat 64 (q 8 8), alen := q 0x10 4, blen := q 0x14 4, maxOut := q 0x18 4, pa := 0,
          pb := 0, lastA := none, lastB := none, ended := false }) f.pc) t.uid f (bytesOf (.ixset mode a)))) ∧
    (∀ la d, Clear s t f { pushes := 2, scalars := [d] } → t.sb.length < 16 →
      let i := Instr.ixnext la d
      exec i s = .next (leave (ixAppended (withTeam (issued i s t f { pushes := 2 }) t.uid fun u =>
          scalarAwaited (pendTop (u.stackOp f 0 2 fun _ _ => [Entry.zero, Entry.zero]) f 2 la true) d) t.core t.uid
        (.next t.nextSb d.toNat) f.pc) t.uid f (bytesOf i))) ∧
    (∀ a p, Clear s t f { scalars := [a] } → checkSp s t 8 (getS t a) = .ok p →
      exec (.ixsp a) s = .next (leave (ixAppended (issued (.ixsp a) s t f {}) t.core t.uid (.sp (getS t a) (!t.acts f)) f.pc) t.uid f
        (bytesOf (.ixsp a)))) ∧
    (∀ d, Clear s t f { scalars := [d] } →
      exec (.ixcnt d) s = .next (leave (ixAppended (modTeam (issued (.ixcnt d) s t f {}) t.uid fun u => scalarAwaited u d) t.core t.uid
        (.cnt d.toNat) f.pc) t.uid f (bytesOf (.ixcnt d))))

/-- ACT.OPEN, STEP, CLOSE, ABANDON, STAT, SKIP and RETRY (R369, R371, R376 to R381): with a lane that acts, what the activity's state
allows is done and answered; a step's entry stands in its die's segment. A fragment whose lanes do not act gets F, and meets no open region.
STAT reads the chain's entries and reports count, state and, of a failed activity, its status;
a handle of another tag raises error 0x1B with INFO 2. The model's choices that it rests on: log entry 29. -/
def Obligations.ActivityResults : Prop :=
  (∀ s t f (d a b c e : SReg), Runs s t f → t.acts f = false →
    (Clear s t f { scalars := [d] } → exec (.actOpen d) s = .next (leave (answered (issued (.actOpen d) s t f {}) t.uid d none) t.uid f 4)) ∧
    (Clear s t f { scalars := [d, a, b, c, e] } →
      exec (.actStep d a b c e) s = .next (leave (answered (issued (.actStep d a b c e) s t f {}) t.uid d none) t.uid f 8)) ∧
    (Clear s t f { scalars := [a] } → ∀ i ∈ [Instr.actClose a, .actAbandon a, .actSkip a, .actRetry a],
      exec i s = .next (leave (answered (issued i s t f {}) t.uid 0 none) t.uid f 4))) ∧
  ∀ s t f (d a b c e : SReg), Runs s t f → t.acts f = true → Canonical s →
    (Clear s t f { scalars := [d], closed := true } →
      let S := issued (.actOpen d) s t f {}
      (s.hub.actcfg.getLsbD 31 = true → ∀ n, n < 256 → actAt s t.tag n = none → (∀ m, m < n → actAt s t.tag m ≠ none) →
        let x : Activity :=
          { tag := t.tag, slot := n, gen := nextGen s t.tag n, st := .opened, last := none, prio := ((launchOf s t.launch).map fun l =>
              if l.comp.isSome then l.prio else (tabGet Queue.reset s.hub.queues l.queue).cfg.toNat / 2 ^ 28 % 8).getD 0,
            timeline := none, cret := 0, keyWait := none, running := false, seq := 0 }
        exec (.actOpen d) s = .next (leave (answered (opened S x) t.uid d
          (some (BitVec.ofNat 64 (t.tag.toNat * 2 ^ 20 + x.gen * 2 ^ 8 + n)))) t.uid f 4)) ∧
      (s.hub.actcfg.getLsbD 31 = false ∨ (∀ n, n < 256 → actAt s t.tag n ≠ none) →
        exec (.actOpen d) s = .next (leave (answered S t.uid d none) t.uid f 4))) ∧
    (∀ x, actOf s (getS t a) = some x → x.tag = t.tag → actAt s x.tag x.slot = some x →
      (Clear s t f { scalars := [d, a, b, c, e], closed := true } → ReleaseReady s t → x.st = .opened →
        (getS t b).toNat < 2 ^ 55 → (getS t b).toNat % 64 = 0 →
        let S := writeBackAll (issued (.actStep d a b c e) s t f {}) t.core
        let die := dieOf t.core
        let i := (s.hub.seghead[die]?).getD 0
        EntrySound S (die, i) → Memory.get S.mem (entryAddr s die i + 0x26) = 0 →
        ∃ s', exec (.actStep d a b c e) s = .next (leave (answered s' t.uid d (some (s.hub.pstep + 1))) t.uid f 8) ∧
          s'.hub.pstep = s.hub.pstep + 1 ∧ (actAt s' x.tag x.slot) = some { x with last := some (die, i) } ∧
          (∀ k, k < 64 → Memory.get s'.mem (entryAddr s die i + k) =
            (stepBytes (s.hub.pstep + 1) (getS t e) (getS t b) (getS t c) x s.gtime).getD k 0) ∧
          ∀ k, (k < entryAddr s die i ∨ entryAddr s die i + 64 ≤ k) → Memory.get s'.mem k = Memory.get S.mem k) ∧
      (Clear s t f { scalars := [a], closed := true } →
        (x.st = .opened → (freeChain (issued (.actClose a) s t f {}) x.tag (x.chain s).length x.last).2 = true →
          ∃ s', exec (.actClose a) s = .next (leave (answered s' t.uid 0 (some 0)) t.uid f 4) ∧
          actAt s' x.tag x.slot = none ∧ ∀ g ∈ x.chain s, ∀ k, k < 64 → Memory.get s'.mem (entryAddr s g.1 g.2 + k) = 0) ∧
        (x.st ≠ .opened → exec (.actClose a) s = .next (leave (answered (issued (.actClose a) s t f {}) t.uid 0 none) t.uid f 4)) ∧
        (x.st = .opened → ∀ g, x.last = some g → (getS t a).toNat < 2 ^ 32 →
          let S := issued (.actAbandon a) s t f {}
          (keyLook { S with hub := { S.hub with nextSeq := S.hub.nextSeq + 1 } } x g).2 = some false →
          ∃ s', exec (.actAbandon a) s = .next (leave (answered s' t.uid 0 (some 0)) t.uid f 4) ∧
            actAt s' x.tag x.slot = some { x with timeline := none, st := .walking, running := true, keyWait := none, seq := s.hub.nextSeq } ∧
            Memory.get s'.mem (entryAddr s g.1 g.2 + 0x26) = 2) ∧
        (x.st = .failed → ∃ s', exec (.actRetry a) s = .next (leave (answered s' t.uid 0 (some 0)) t.uid f 4) ∧
          actAt s' x.tag x.slot = some { x with st := .walking, running := true }) ∧
        (x.st = .failed → x.last = none → x.timeline = none →
          ∃ s', exec (.actSkip a) s = .next (leave (answered s' t.uid 0 (some 0)) t.uid f 4) ∧ actAt s' x.tag x.slot = none) ∧
        (x.st = .failed → ∀ g, x.last = some g → entryPrev s g.1 g.2 = none → x.timeline = none →
          EntrySound (issued (.actSkip a) s t f {}) g →
          ∃ s', exec (.actSkip a) s = .next (leave (answered s' t.uid 0 (some 0)) t.uid f 4) ∧ actAt s' x.tag x.slot = none ∧
            ∀ k, k < 64 → Memory.get s'.mem (entryAddr s g.1 g.2 + k) = 0)) ∧
      (Clear s t f { scalars := [d, a], closed := true } →
        let R := readEntries (issued (.actStat d a) s t f {}) x.tag (x.chain s)
        (R.2 = false → exec (.actStat d a) s = .next (leave R.1 t.uid f 4)) ∧
        (R.2 = true → exec (.actStat d a) s = .next (leave (answered R.1 t.uid d (some (BitVec.ofNat 64
          ((x.chain s).length * 2 ^ 40 + (match x.st with
            | .opened => 1
            | .walking => 2
            | .failed => 3
            | .entangled => 4) * 2 ^ 32 + (if x.st = .failed then x.cret.toNat else 0))))) t.uid f 4)))) ∧
    (Clear s t f { scalars := [a], closed := true } → (getS t a).toNat / 2 ^ 20 % 4096 ≠ t.tag.toNat →
      ∀ i ∈ [Instr.actClose a, .actAbandon a, .actSkip a, .actRetry a], exec i s = .next (stopped s t f 0x1B 2))

/-- POOL.TAKE and POOL.GIVE (R386, R387): the page given last, else the lowest never taken, or F when none is left; a page that is not out
is not taken back; a pool of another tag, or not enabled, raises error 0x1B with INFO 3. The instructions of privilege and of other
programs. XPROBE, DBG.RD and DBG.WR belong to tag 0 and raise error 0x1A elsewhere (R312, R415): a probe's word, eight bytes of debug state,
a store to it. CRET reports a compensation's status and retires its team, once its stores to other packages are acknowledged, and is illegal
in another (R383). LAUNCH appends the packet of its owner's to a queue, or sets F; another owner's is refused with code 0x33; one for
another package is sent there (R401, R402). That XPROBE of an address with bit 55 set answers PERM INFO 6 is the model's reading (log entry
51). The model's choices that it rests on: log entries 21, 30, 36, 51, 60. -/
def Obligations.PoolAndSupervisorResults : Prop :=
  (∀ s t f (d a b : SReg), Runs s t f → t.acts f = true → (getS t a).toNat < 64 →
    let n := (getS t a).toNat
    let p := getPool s n
    let k := (getS t b).toNat
    let count := p.ctl.toNat % 2 ^ 24
    let mine := p.ctl.getLsbD 63 = true ∧ p.ctl.toNat / 2 ^ 32 % 4096 = t.tag.toNat
    (Clear s t f { scalars := [d, a], closed := true } →
      let S := issued (.poolTake d a) s t f {}
      (mine → ∀ g r, p.given = g :: r → exec (.poolTake d a) s =
        .next (leave (answered (setPool S n { p with given := r }) t.uid d (some (BitVec.ofNat 64 g))) t.uid f 4)) ∧
      (mine → p.given = [] → p.next ≤ count → exec (.poolTake d a) s =
        .next (leave (answered (setPool S n { p with next := p.next + 1 }) t.uid d (some (BitVec.ofNat 64 p.next))) t.uid f 4)) ∧
      (mine → p.given = [] → count < p.next → exec (.poolTake d a) s = .next (leave (answered S t.uid d none) t.uid f 4)) ∧
      (¬ mine → exec (.poolTake d a) s = .next (stopped s t f 0x1B 3))) ∧
    (Clear s t f { scalars := [a, b], closed := true } →
      let S := issued (.poolGive a b) s t f {}
      (mine → k ≠ 0 → k ≤ count → k < p.next → k ∉ p.given → exec (.poolGive a b) s =
        .next (leave (answered (setPool S n { p with given := k :: p.given }) t.uid 0 (some 0)) t.uid f 4)) ∧
      (mine → k = 0 ∨ count < k ∨ p.next ≤ k ∨ k ∈ p.given →
        exec (.poolGive a b) s = .next (leave (answered S t.uid 0 none) t.uid f 4)) ∧
      (¬ mine → exec (.poolGive a b) s = .next (stopped s t f 0x1B 3)))) ∧
  (∀ s t f (d a b : SReg), Runs s t f →
    (Clear s t f { scalars := [d, a] } →
      (t.tag = 0 → (getS t a).toNat / 2 ^ 55 = 1 →
        exec (.xprobe d a) s = .next (classS s t.uid 0x11 0 6 f.pc f.active (some (getS t a &&& 0x00FFFFFFFFFFF000)))) ∧
      (t.tag = 0 → (getS t a).toNat < 2 ^ 55 → ∀ n, slotOfTag s (BitVec.ofNat 12 (getS t a).toNat) = some n →
        exec (.xprobe d a) s = .next (after (.xprobe d a) s t f { scalars := [d, a] } fun u =>
          setS u d (probeWord s (BitVec.ofNat 12 (getS t a).toNat) ((getS t a).toNat / 4096 * 4096)))) ∧
      (t.tag = 0 → (getS t a).toNat % 8 = 0 → ∀ core v, debugCore s (getS t a) = some core →
        debugRead (issued (.dbgRd d a) s t f {}) ((getS t a).toNat / 2 ^ 60) core ((getS t a).toNat / 2 ^ 50 % 4)
          ((getS t a).toNat / 2 ^ 46 % 16) ((getS t a).toNat % 2 ^ 46) = some v →
        exec (.dbgRd d a) s = .next (after (.dbgRd d a) s t f { scalars := [d, a] } fun u => setS u d v)) ∧
      (t.tag ≠ 0 → exec (.xprobe d a) s = .next (stopped s t f 0x1A 0))) ∧
    (t.tag ≠ 0 → ∀ i ∈ [Instr.dbgRd d a, .dbgWr a b], exec i s = .next (stopped s t f 0x1A 0)) ∧
    (t.tag = 0 → t.acts f = false → Clear s t f { scalars := [a, b] } →
      exec (.dbgWr a b) s = .next (leave (issued (.dbgWr a b) s t f {}) t.uid f 4)) ∧
    (Clear s t f { scalars := [a, b], closed := true } →
      (t.tag = 0 → t.acts f = true → (getS t a).toNat % 8 = 0 → (getS t a).toNat / 2 ^ 60 = 3 → ∀ core, debugCore s (getS t a) = some core →
        let off := (getS t a).toNat % 2 ^ 46
        off < partScr (getCore s core).cpart * 65536 →
        exec (.dbgWr a b) s = .next (leave (spWrite (issued (.dbgWr a b) s t f {}) core off (leBytes 8 (getS t b).toNat) none) t.uid f 4))) ∧
    (t.isComp = false → exec (.cret a) s = .next (raise s (.cret a) t f 4 (.illop 4))) ∧
    (t.isComp = true → Clear s t f { scalars := [a], closed := true, ordered := true, engines := true, steps := false } →
      (s.fabric.msgs.any fun m => m.isStore t.uid) = true → exec (.cret a) s = .next (raise s (.cret a) t f 4 (.park .fabricAck id))) ∧
    (t.isComp = true → Clear s t f { scalars := [a], closed := true, ordered := true, engines := true, steps := false } →
      (s.fabric.msgs.any fun m => m.isStore t.uid) = false →
      ∃ s', exec (.cret a) s = .next s' ∧ teamOf s' t.uid = none ∧
        ∀ l, launchOf s t.launch = some l → ∃ l', launchOf s' t.launch = some l' ∧ l'.compStatus = some (lo32 (getS t a), 0) ∧
          l'.retired = l.retired + 1) ∧
    (t.acts f = true → Clear s t f { scalars := [a, b], closed := true, access := true } → ReleaseReady s t →
      (getS t a).toNat < 2 ^ 55 → (getS t a).toNat % 128 = 0 →
      ∀ S x, readRange (writeBackAll (issued (.launch a b) s t f {}) t.core) t f (getS t a) 128 = .ok (S, x) →
      let own := leNat ((x.drop 0x74).take 2) = t.tag.toNat
      let k := (getS t b).toNat
      let pkg := k / 65536
      let refusedBy := fun (s : State) (z : Bool) => leave (modTeam s t.uid fun u => { u with cc := fBit u.cc (z = true) }) t.uid f 4
      (k < 256 → own →
        exec (.launch a b) s = .next (refusedBy (appendPacket S (.host false) k 0 x).1 (appendPacket S (.host false) k 0 x).2)) ∧
      (k < 256 → ¬ own → exec (.launch a b) s = .next (refusedBy (setQueue S k { getQueue S k with lastErr := 0x33 }) true)) ∧
      (k / 256 % 256 = 1 → k < 2 ^ 24 → (∀ m ∈ s.fabric.msgs, m.isStore t.uid = false) →
        (¬ own → exec (.launch a b) s = .next (refusedBy S true)) ∧
        (own → pkg ≠ S.fabric.fpod.toNat % 256 → exec (.launch a b) s = .next (leave (modTeam
          (podSend S t.uid f.num pkg 0 f.active .packet f.pc) t.uid fun u => modFrag u f.num fun y =>
            { y with st := .parked, wait := some .packet }) t.uid f 4)) ∧
        (own → pkg = S.fabric.fpod.toNat % 256 → exec (.launch a b) s = .next
          (refusedBy (appendPacket S (.peer pkg t.tag) (k % 256) 0 x).1 (appendPacket S (.peer pkg t.tag) (k % 256) 0 x).2)))))

/-- The state store (R389 to R398): what SS.OPEN, LOAD, STORE, SNAP, ROLL, FORK, DROP, INFO and HEADS do to the record that the handle
names, and what they answer. A revoked record answers status 1; a store behind HEAD raises SS_ORDER after its release. The model's choices
that it rests on: log entry 31. -/
def Obligations.StateStoreResults : Prop :=
  ∀ s t f (d a b c e : SReg), Runs s t f → t.acts f = true →
    (Clear s t f { scalars := [d, a], closed := true, access := true } →
      let w := (getS t a).toNat
      let pages := w % 32768
      let snaps := w / 65536 % 64
      w / 2 ^ 60 = 0 → w / 2 ^ 22 % 2 ^ 26 = 0 → w / 32768 % 2 = 0 → snaps ≤ 32 → 1 ≤ pages → pages ≤ 16384 →
      let S := issued (.ssOpen d a) s t f {}
      (s.hub.store.cfg.getLsbD 63 = false → exec (.ssOpen d a) s = .next (leave (storeAnswered S t.uid d (.error 5)) t.uid f 4)) ∧
      (s.hub.store.cfg.getLsbD 63 = true → s.hub.store.freeSlot = none →
        exec (.ssOpen d a) s = .next (leave (storeAnswered S t.uid d (.error 4)) t.uid f 4)) ∧
      (s.hub.store.cfg.getLsbD 63 = true → ∀ j, s.hub.store.freeSlot = some j →
        let g := if (s.hub.store.rec' j).gen < 15 then (s.hub.store.rec' j).gen + 1 else 1
        let r : SsRec :=
          { head := 0, owner := t.tag, user := BitVec.ofNat 12 (w / 2 ^ 48), heads := 0, st := 1, nsnap := snaps, pages, gen := g, stime := 0,
            live := none, snaps := [] }
        exec (.ssOpen d a) s = .next (leave (storeAnswered (putRec S j r) t.uid d
          (.ok (BitVec.ofNat 64 (t.tag.toNat * 2 ^ 20 + g * 2 ^ 16 + j)))) t.uid f 4))) ∧
    (∀ j r, RecordOf s t (getS t a) j r → r.st ≠ 2 →
      (Clear s t f { scalars := [a, b, c, e], closed := true, access := true } → ReleaseReady s t →
        let len := (getS t c).toNat / 2 ^ 32
        let off := (getS t c).toNat % 2 ^ 32
        let pos := (getS t e).toNat
        off % 16 = 0 → len % 16 = 0 → len < 2 ^ 26 → off < 2 ^ 26 → off + len ≤ 4096 * r.pages → pos < 2 ^ 48 → (getS t b).toNat < 2 ^ 55 → (getS t b).toNat % 16 = 0 →
        let S := writeBackAll (issued (.ssStore a b c e) s t f {}) t.core
        (pos < r.head → exec (.ssStore a b c e) s = .next (classS (writeBackAll s t.core) t.uid 0x1C 0 0 f.pc f.active none)) ∧
        (r.head ≤ pos → ∀ S1 x, readRange S t f (getS t b) len = .ok (S1, x) →
          let made := s.hub.store.writeBody (heldRoots s) r.pages (len / 4096 + 2) r.live off x
          (s.hub.store.free < made.1.taken - s.hub.store.taken →
            exec (.ssStore a b c e) s = .next (leave (storeAnswered S1 t.uid 0 (.error 3)) t.uid f 8)) ∧
          (made.1.taken - s.hub.store.taken ≤ s.hub.store.free →
            exec (.ssStore a b c e) s = .next (leave (storeAnswered (putRec (storeOut { S1 with hub := { S1.hub with store := made.1 } }
              (s.hub.store.pageGranules r.pages r.live off len) (made.1.pageGranules r.pages made.2 off len) off x) j
              { r with live := made.2, head := pos, stime := s.gtime }) t.uid 0 (.ok 0)) t.uid f 8)))) ∧
      (Clear s t f { scalars := [a, b, c, e], closed := true, access := true } →
        let len := (getS t c).toNat / 2 ^ 32
        let off := (getS t c).toNat % 2 ^ 32
        off % 16 = 0 → len % 16 = 0 → len < 2 ^ 26 → off < 2 ^ 26 → off + len ≤ 4096 * r.pages → (getS t e).toNat < 2 ^ 48 →
        (getS t b).toNat / 2 ^ 32 = 0xFF000000 →
        (∀ core o, spTarget s t ((getS t b).toNat % 2 ^ 32) = some (core, o) → partScr (getCore s core).cpart * 65536 < o + len) →
        exec (.ssStore a b c e) s = .next (classS s t.uid 0x11 0 0 f.pc f.active (some (getS t b)))) ∧
      (Clear s t f { scalars := [d, a, b, c, e], closed := true, access := true } →
        let len := (getS t c).toNat / 2 ^ 32
        let off := (getS t c).toNat % 2 ^ 32
        let n := (getS t e).toNat
        let die := dieOf t.core
        let w : Word := tabGet 0 (getDie s die).cctx n
        off % 16 = 0 → len % 16 = 0 → len < 2 ^ 26 → off < 2 ^ 26 → off + len ≤ 4096 * r.pages →
        (getS t b).toNat < 2 ^ 32 → (spTarget s t (getS t b).toNat).isSome = true →
        (768 ≤ n → exec (.ssLoad d a b c e) s = .next (stopped s t f 0x1B 1)) ∧
        (n < 768 → w.getLsbD 31 = true → w.setWidth 12 = t.tag → (getCtx s die n).queue.length < 32 →
        let S := issued (.ssLoad d a b c e) s t f {}
        let k : CopyCmd :=
          { kind := .oneD, fe := true, src := BitVec.ofNat 64 off, dst := BitVec.ofNat 64 (0xFF000000 * 2 ^ 32 + (getS t b).toNat), len, rows := 0, sstride := 0,
            dstride := 0, index := 0, pattern := 0, tag := t.tag, team := t.uid, launch := t.launch, core := t.core, pc := f.pc, progress := 0,
            source := some (s.hub.store.readBody r.pages r.live (len / 4096 + 2) off len), root := r.live,
            pages := s.hub.store.pageGranules r.pages r.live off len }
        exec (.ssLoad d a b c e) s = .next (leave (modTeam (setCtx S die n { getCtx s die n with queue := (getCtx s die n).queue ++ [k] })
          t.uid fun u => { setS u d ((getCtx s die n).counter + BitVec.ofNat 64 ((getCtx s die n).queue.length + 1)) with
            cc := fBit u.cc False }) t.uid f 8))) ∧
      (Clear s t f { scalars := [a], closed := true, access := true } →
        let S := issued (.ssSnap a) s t f {}
        let pin := decide ((getS t a).toNat / 2 ^ 32 = 1)
        (getS t a).toNat / 2 ^ 32 ≤ 1 → r.snaps.length < r.nsnap → (∀ x ∈ r.snaps, x.1 ≠ r.head) →
          exec (.ssSnap a) s = .next (leave (storeAnswered (releaseHeld (putRec S j { r with snaps := r.snaps ++ [(r.head, pin, r.live)] }))
            t.uid 0 (.ok 0)) t.uid f 4)) ∧
      (Clear s t f { scalars := [d, a, b], closed := true, access := true } → (getS t b).toNat < 2 ^ 48 →
        let pos := (getS t b).toNat
        ∀ before key pin root later, r.snaps = before ++ (key, pin, root) :: later → key ≤ pos → (∀ x ∈ later, pos < x.1) →
          exec (.ssRoll d a b) s = .next (leave (storeAnswered (releaseHeld (putRec (issued (.ssRoll d a b) s t f {}) j
            { r with live := root, head := key, snaps := before ++ [(key, pin, root)] })) t.uid d (.ok (BitVec.ofNat 64 key))) t.uid f 4) ∧
          ∀ k, s.hub.store.freeSlot = some k →
            let g := if (s.hub.store.rec' k).gen < 15 then (s.hub.store.rec' k).gen + 1 else 1
            exec (.ssFork d a b) s = .next (leave (storeAnswered (putRec (issued (.ssFork d a b) s t f {}) k
              { r with gen := g, head := key, live := root, snaps := [(key, false, root)], stime := 0 }) t.uid d
              (.ok (BitVec.ofNat 64 (r.owner.toNat * 2 ^ 20 + g * 2 ^ 16 + k)))) t.uid f 4)) ∧
      (Clear s t f { scalars := [a], closed := true, access := true } →
        exec (.ssDrop a) s = .next (leave (storeAnswered (releaseHeld (putRec (issued (.ssDrop a) s t f {}) j
          { SsRec.reset with gen := r.gen })) t.uid 0 (.ok 0)) t.uid f 4)) ∧
      (Clear s t f { scalars := [a, b], access := true, steps := false } → t.region = none → (getS t b).toNat < 2 ^ 55 →
        (getS t b).toNat % 256 = 0 → ∀ S1 l,
        locatePieces t f .write (issued (.ssInfo a b) s t f {}) (pieces (getS t b) 256) = .ok (S1, l) →
        exec (.ssInfo a b) s = .next (leave (storeAnswered (writePieces S1 t false f.pc l (headerBytes s.hub.store r)) t.uid 0 (.ok 0))
          t.uid f 4)) ∧
      (Clear s t f { scalars := [d, a, b], access := true } →
        exec (.ssHeads false d a b) s = .next (leave (storeAnswered (issued (.ssHeads false d a b) s t f {}) t.uid d
          (.ok (BitVec.ofNat 64 r.heads.toNat))) t.uid f 4)) ∧
      (Clear s t f { scalars := [d, a, b], access := true, closed := true } → (getS t b).toNat < 65536 →
        exec (.ssHeads true d a b) s = .next (leave (storeAnswered (putRec (issued (.ssHeads true d a b) s t f {}) j
          { r with heads := BitVec.ofNat 16 (getS t b).toNat }) t.uid d (.ok (BitVec.ofNat 64 r.heads.toNat))) t.uid f 4))) ∧
    (∀ j r, RecordOf s t (getS t a) j r → r.st = 2 →
      (Clear s t f { scalars := [d, a, b, c, e], closed := true, access := true } →
        exec (.ssLoad d a b c e) s = .next (leave (modTeam (issued (.ssLoad d a b c e) s t f {}) t.uid fun u =>
          { setS u d (getCtx s (dieOf t.core) ((getS t e).toNat % 1024)).counter with cc := fBit u.cc True }) t.uid f 8)) ∧
      (Clear s t f { scalars := [d, a, b], closed := true, access := true } →
        exec (.ssRoll d a b) s = .next (leave (storeAnswered (issued (.ssRoll d a b) s t f {}) t.uid d (.error 1)) t.uid f 4)) ∧
      (Clear s t f { scalars := [a], closed := true, access := true } →
        exec (.ssDrop a) s = .next (leave (storeAnswered (releaseHeld (putRec (issued (.ssDrop a) s t f {}) j
          { SsRec.reset with gen := r.gen })) t.uid 0 (.error 1)) t.uid f 4)))

/-- A class S fault of a team (R183, R186, R187, R406): where its bench is not frozen and its context RUNNING, a record with the code, the
PC, the lanes and the address, time-stamped, is posted; the context is STOPPED, fatally for the codes of R187, and the bench freezes with
CAUSE 1 and the team's slot; BSEC of a bench that the team has claimed takes the first fault's code and address (R405). A fault of a context
that is STOPPED already is secondary and changes neither. Memory stays. The model's choices that it rests on: log entry 33. -/
def Obligations.StopRecord : Prop :=
  ∀ s t code arg info pc lanes addr n, teamOf s t.uid = some t → Quiet s → ContextAt s n t.tag → code < 256 → arg < 256 → info < 65536 →
    t.bench < (getCore s t.core).benches.length → (getBench s t.core t.bench).bctl.getLsbD 0 = false → t.slot < 16 →
    let s' := classS s t.uid code arg info pc lanes addr
    let r : FaultRec :=
      { tag := t.tag, trapcode := BitVec.ofNat 32 (info * 65536 + arg * 256 + code), pc, team := t.number, core := t.core, bench := t.bench, lanes,
        rprog := t.rprog, extra := addr.getD 0, secondary := decide ((getSlot s n).st = 3), time := s.gtime }
    s'.hub.records = s.hub.records ++ [r] ∧ s'.mem = s.mem ∧
    ((getSlot s n).st = 2 → (getSlot s' n).st = 3 ∧ ((getSlot s' n).fatal = true ↔
      code ∈ [0x01, 0x02, 0x07, 0x08, 0x09, 0x0A, 0x0B, 0x0C, 0x0D, 0x0E, 0x0F, 0x11, 0x12, 0x13, 0x14, 0x15, 0x16, 0x17, 0x18, 0x19, 0x1A,
        0x1B, 0x1C])) ∧
    ((getSlot s n).st = 3 → getSlot s' n = getSlot s n) ∧
    (getBench s' t.core t.bench).bctl.getLsbD 0 = true ∧
    (getBench s' t.core t.bench).bfreeze = BitVec.ofNat 64 (2 ^ 56 + t.slot * 2 ^ 52 + s.gtime.toNat % 2 ^ 48) ∧
    (getBench s' t.core t.bench).bsec = (let x := getBench s t.core t.bench
      if x.claimant = some t.uid ∧ x.bsec.toNat / 2 ^ 56 = 0 then BitVec.ofNat 64 (code * 2 ^ 56 + (addr.getD pc).toNat % 2 ^ 56) else x.bsec) ∧
    ∃ u, teamOf s' t.uid = some u ∧ u.trapcode = r.trapcode ∧ u.lanes = t.lanes ∧ u.frags = t.frags ∧ u.scalars = t.scalars

/-- What ends a wait or writes a result (R3, R49, R90, R183, R184, R200, R230, R241, R283, R302, R445): each event has its effect where its
condition holds, and a unit's only in a cycle whose pulse passes; a region that a chosen fragment closes is closed when its last store has
been replayed. The model's choices that it rests on: log entries 14, 28, 44, 45. -/
def Obligations.TeamEvents : Prop :=
  ∀ s t f, teamOf s t.uid = some t → fragOf t f.num = some f →
    (pulseAt s t.core = true → f.st = .parked → f.wait = some .regionReplays → (∀ r, t.region = some r → r.pendingStores = 0 ∧ r.closing = none) →
      ∃ s', exec (.regionPublish t.uid) s = .next s' ∧ Woken s s' t f) ∧
    (pulseAt s t.core = true → ∀ r, t.region = some r → r.closing = some f.num → r.pendingStores = 0 → f.st = .ready →
      ∃ s' u, exec (.regionPublish t.uid) s = .next s' ∧ teamOf s' t.uid = some u ∧ u.region = none ∧
        (fragOf u f.num).map (·.st) = some .run) ∧
    (∀ r, t.region = some r → 1 ≤ r.pendingStores → exec (.regionPublish t.uid) s = .next s) ∧
    (pulseAt s t.core = false → ∀ i n, (i = Instr.resultWrite t.uid n ∨ i ∈ [Instr.drawerTransfer t.uid f.num, .regionPublish t.uid,
        .waitvWake t.uid f.num, .waitvTimeout t.uid f.num, .tlwaitWake t.uid f.num, .faultRepresent t.uid f.num]) →
      ∃ s', exec i s = .next s' ∧ teamOf s' t.uid = some t) ∧
    (pulseAt s t.core = true → ∀ e ∈ t.sb, e.waiting = false → ∃ s' u, exec (.resultWrite t.uid e.id) s = .next s' ∧ OthersKept s s' t.uid ∧
      teamOf s' t.uid = some u ∧ u.sb = t.sb.filter (fun x => decide (x.id ≠ e.id)) ∧ { u with sb := t.sb, frags := t.frags } = t ∧
      (f.st = .parked → f.wait = some (.pending e.id) → fragOf u f.num = some { f with st := .ready, wait := none })) ∧
    (∀ n, (∀ e ∈ t.sb, e.id = n → e.waiting = true) → ∃ s', exec (.resultWrite t.uid n) s = .next s' ∧ teamOf s' t.uid = some t) ∧
    (pulseAt s t.core = true → f.shelf < 2 → f.shelf < f.depth → ∃ s' u, exec (.drawerTransfer t.uid f.num) s = .next s' ∧ OthersKept s s' t.uid ∧
      teamOf s' t.uid = some u ∧ fragOf u f.num = some { f with shelf := min f.depth (f.shelf + 4) } ∧ { u with frags := t.frags } = t) ∧
    (pulseAt s t.core = true → ∀ line k, f.st = .parked → f.wait = some (.watch line k true) →
      ∃ s', exec (.waitvWake t.uid f.num) s = .next s' ∧ Woken s s' t f) ∧
    (pulseAt s t.core = true → ∀ line b, f.st = .parked → f.wait = some (.watch line 0 b) →
      ∃ s', exec (.waitvTimeout t.uid f.num) s = .next s' ∧ Woken s s' t f) ∧
    (∀ line k, f.wait = some (.watch line (k + 1) false) → ∀ i ∈ [Instr.waitvWake t.uid f.num, .waitvTimeout t.uid f.num],
      ∃ s' u, exec i s = .next s' ∧ teamOf s' t.uid = some u ∧ fragOf u f.num = some f) ∧
    (∀ id v, f.st = .parked → f.wait = some (.timeline id v) →
      (pulseAt s t.core = true → v.toNat ≤ (counter s id).toNat → ∃ s' u, exec (.tlwaitWake t.uid f.num) s = .next s' ∧ (getCore s' t.core).cache = [] ∧
        s'.mem = (invalidateAll s t.core).mem ∧ teamOf s' t.uid = some u ∧
        (fragOf u f.num).map (fun x => (x.st, x.wait, x.pc)) = some (.ready, none, f.pc)) ∧
      ((counter s id).toNat < v.toNat → exec (.tlwaitWake t.uid f.num) s = .next s)) ∧
    (pulseAt s t.core = true → ∀ die, f.st = .parked → f.wait = some (.faultFull die) → ∃ s', exec (.faultRepresent t.uid f.num) s = .next s' ∧ Woken s s' t f) ∧
    (∀ fec la pc passes since n, f.st = .parked → f.wait = some (.fullEmpty fec la pc passes since (n + 1)) →
      exec (.waiterTableRetry t.uid f.num) s = .next s) ∧
    (∀ fec la pc passes since, f.st = .parked → f.wait = some (.fullEmpty fec la pc passes since 0) → pulseAt s t.core = true →
      t.sb.length < 16 →
      (∀ c ∈ s.cores, ∀ w ∈ c.2.feWaiters, w.team ≠ t.uid ∨ w.frag ≠ f.num) → (fePasses s t.uid fec passes).2 = [] →
      ∃ s' u, exec (.waiterTableRetry t.uid f.num) s = .next s' ∧ teamOf s' t.uid = some u ∧
        fragOf u f.num = some { f with st := .ready, wait := none } ∧ u.lanes = ((teamOf (fePasses s t.uid fec passes).1 t.uid).getD t).lanes ∧
        u.sb = t.sb ++ [(⟨t.nextSb, f.num, [(0, f.member, Target.pos f.depth)], pc, la.toNat, false⟩ : SbEntry)]) ∧
    (64 ≤ t.withheld → ∃ s', exec (.issueFloorExempt t.uid) s = .next s' ∧ teamOf s' t.uid = some { t with exempt := true }) ∧
    (mayIssue s t = false → exec (.timerFire t.uid) s = .next s) ∧
    (mayIssue s t = true → runFrag t = some f → f.active ≠ 0 → (∀ r, t.region = some r → r.pendingStores = 0) →
      let dueV := t.timerV.armed = true ∧ t.timerV.deadline.toNat ≤ t.tcyc.toNat
      let dueG := t.timerG.armed = true ∧ t.timerG.deadline.toNat ≤ s.gtime.toNat
      let open' := t.gHeld = 0 ∨ t.trapLoops.length < t.gHeld
      (dueV → exec (.timerFire t.uid) s = .next (takeTrap (setTeam s { t with
        timerV := { t.timerV with armed := false }, gHeld := if dueG then t.trapLoops.length + 1 else t.gHeld }) t.uid 5 0 0 f.pc f.pc f.pc)) ∧
      (¬ dueV → dueG → open' → exec (.timerFire t.uid) s = .next (takeTrap (setTeam s { t with
        timerG := { t.timerG with armed := false }, gHeld := 0 }) t.uid 5 1
          (min 65535 ((s.gtime.toNat - t.timerG.deadline.toNat) / 1000)) f.pc f.pc f.pc)) ∧
      (¬ dueV → ¬ (dueG ∧ open') → exec (.timerFire t.uid) s = .next s))

/-- The commands of a core's units in the order in which they were accepted, in a cycle whose pulse passes (R3, R249, R258 to R263, R267,
R271), and the pairs of a stream of two ascending lists (R266): and gives the places of equal indices, diff those of A that B lacks. A step
of a dense matrix product (R99, R100, R117, R245), with its operands read: element (i, j) of the tile gains the exact sum of an integer
step's products, modulo 2^32; one fused product in FP32 and FP64; in the half types and HSE the exact sum of 16 products, rounded once, then
added. A block of a sparse product does the same to the elements of its block row (R257). ACCRD gives its lane the element, the status word
or 0; ACCLD moves a row into the tile, ACCST a row out of it (R259, R260). The model's choices that it rests on: log entries 13, 37, 53. -/
def Obligations.UnitCommands : Prop :=
  ((∀ s core, (getCore s core).matq = [] ∨ pulseAt s core = false → exec (.matrixExecute core) s = .next s) ∧
  (∀ s core, (getCore s core).ixq = [] ∨ pulseAt s core = false → exec (.ixuExecute core) s = .next s) ∧
  (∀ s core (c : MatCmd) r n, Canonical s → pulseAt s core = true → (getCore s core).matq = c :: r → c.instr = .accz n →
    ∃ s', exec (.matrixExecute core) s = .next s' ∧ (getCore s' core).matq = r ∧ s'.mem = s.mem ∧
      (∀ k, k < 16384 → Memory.get (getCore s' core).pool (tilePool (getCore s core) n.toNat + k) = 0) ∧
      (∀ a, (a < tilePool (getCore s core) n.toNat ∨ tilePool (getCore s core) n.toNat + 16384 ≤ a) →
        Memory.get (getCore s' core).pool a = Memory.get (getCore s core).pool a) ∧
      statusWord s' core n.toNat = 0) ∧
  (∀ s core (c : MatCmd) r n l (i : Word) v, Canonical s → pulseAt s core = true → (getCore s core).matq = c :: r → c.instr = .accwr false n → c.allHelpers = false →
    c.lanes = [(l, i, v)] → i.toNat < 4096 →
    ∃ s', exec (.matrixExecute core) s = .next s' ∧ (getCore s' core).matq = r ∧
      Memory.nat (getCore s' core).pool (tilePool (getCore s core) n.toNat + 4 * i.toNat) 4 = v.toNat % 2 ^ 32 ∧
      (∀ a, (a < tilePool (getCore s core) n.toNat + 4 * i.toNat ∨ tilePool (getCore s core) n.toNat + 4 * i.toNat + 4 ≤ a) →
        Memory.get (getCore s' core).pool a = Memory.get (getCore s core).pool a)) ∧
  (∀ s core (c : MatCmd) r la n t l (i : Word) v e m d x, pulseAt s core = true → (getCore s core).matq = c :: r →
    c.instr = .accrd la false n → c.lanes = [(l, i, v)] → teamOf s c.team = some t → t.isProtected = false →
    t.sb.find? (fun y => y.id == c.sb) = some e → e.targets = [(0, m, .pos d)] → m.getLsbD l = true → t.lanes[l]? = some x →
    let k := getCore s core
    let w : Entry := if i = 0xFFFFFFFF then ⟨statusWord s core n.toNat, none⟩
      else if i.toNat < 4096 then ⟨BitVec.ofNat 32 (Memory.nat k.pool (tilePool k n.toNat + 4 * i.toNat) 4), tileTag s core n.toNat⟩
      else ⟨0, none⟩
    ∃ s' u, exec (.matrixExecute core) s = .next s' ∧ (getCore s' core).matq = r ∧ (getCore s' core).pool = k.pool ∧ s'.mem = s.mem ∧
      teamOf s' c.team = some u ∧ u.lanes[l]? = some { x with stack := listSet x.stack (x.stack.length - d) w } ∧
      ∀ j, j ≠ l → u.lanes[j]? = t.lanes[j]?) ∧
  (∀ s core uid x pc r t, pulseAt s core = true → (getCore s core).ixq = (uid, .set x, pc) :: r → teamOf s uid = some t →
    ∃ s' u, exec (.ixuExecute core) s = .next s' ∧ (getCore s' core).ixq = r ∧ teamOf s' uid = some u ∧ u.ix = some x ∧
      fld u.ixStatus 0 1 = 1 ∧ fld u.ixStatus 32 32 = 0) ∧
  (∀ s core uid (d : SReg) pc r t, pulseAt s core = true → (getCore s core).ixq = (uid, .cnt d.toNat, pc) :: r → teamOf s uid = some t →
    ∃ s' u, exec (.ixuExecute core) s = .next s' ∧ (getCore s' core).ixq = r ∧ teamOf s' uid = some u ∧
      u.scalars = (setS t d t.ixStatus).scalars ∧ u.scalarPend = t.scalarPend.erase d.toNat) ∧
  (∀ a b : List Nat, a.Pairwise (· < ·) → b.Pairwise (· < ·) →
    drawPairs (a.length + b.length + 1) a b (newStream .and a b) =
      ((List.range a.length).filterMap fun i => (b.findIdx? fun y => decide (y = a.getD i 0)).map fun j => (BitVec.ofNat 32 i, BitVec.ofNat 32 j)) ∧
    drawPairs (a.length + b.length + 1) a b (newStream .diff a b) =
      ((List.range a.length).filterMap fun i => if a.getD i 0 ∈ b then none else some (BitVec.ofNat 32 i, absent)))) ∧
  (∀ s t core (c : MatCmd) sh step s1 a b p, Canonical s → matShape (fmtA c.fmt) (fmtB c.fmt) (fmtAcc c.fmt) = some sh → sh.path = .int →
    denseBytes s t c sh step = (s1, .ok (a, b, p)) →
    let s' := (denseStep s t core c sh step).1
    let old := fun (i j : Nat) => (tileElems s1 core (tileOf c.instr) false).getD (64 * i + j) 0
    let x := fun (i k : Nat) => (elemInts (fmtA c.fmt) (a.getD i [])).getD k 0
    let y := fun (k j : Nat) => (elemInts (fmtB c.fmt) (b.getD k [])).getD j 0
    ∀ i j, i < 64 → j < 64 → (tileElems s' core (tileOf c.instr) false).getD (64 * i + j) 0 =
      (BitVec.ofInt 32 ((BitVec.ofNat 32 (old i j)).toInt + ((List.range 16).map fun k => x i k * y k j).sum)).toNat) ∧
  (∀ s t core (c : MatCmd) sh step s1 a b p, Canonical s → matShape (fmtA c.fmt) (fmtB c.fmt) (fmtAcc c.fmt) = some sh →
    sh.path ∈ [.f32, .f64, .half] → denseBytes s t c sh step = (s1, .ok (a, b, p)) →
    let wide := decide (sh.path = .f64)
    let F := operandType (fmtA c.fmt)
    let bytes := F.width / 8
    let at' := fun (z : State) (i j : Nat) => (tileElems z core (tileOf c.instr) wide).getD ((if wide then 32 else 64) * i + j) 0
    let x := fun (i k : Nat) => packedAt (a.getD i []) bytes k
    let y := fun (k j : Nat) => packedAt (b.getD k []) bytes j
    let n := if sh.path = .half then 64 else 32
    ∀ i j, i < n → j < n → (∀ k < sh.kw, finiteBits F (x i k) ∧ finiteBits F (y k j)) →
      finiteBits (if wide then f64F else f32F) (at' s1 i j) →
      if sh.path = .half then ChunkAdded ((List.range 16).map fun k => valueOf F (x i k) * valueOf F (y k j)).sum (at' s1 i j)
        (at' (denseStep s t core c sh step).1 i j)
      else FusedChain F [(x i 0, y 0 j)] (at' s1 i j) (at' (denseStep s t core c sh step).1 i j)) ∧
  (∀ s t core (c : MatCmd) sh step s1 a b p, Canonical s → matShape (fmtA c.fmt) (fmtB c.fmt) (fmtAcc c.fmt) = some sh → sh.path = .hse →
    hseOperands s t c step = (s1, .ok (a, b, p)) →
    let at' := fun (z : State) (i j : Nat) => (tileElems z core (tileOf c.instr) false).getD (64 * i + j) 0
    ∀ i j, i < 64 → j < 64 → ∀ x y : List ℚ, (a.getD i []).map finiteValue = x.map some → (b.getD j []).map finiteValue = y.map some →
      finiteBits f32F (at' s1 i j) →
      ChunkAdded (x.zipWith (· * ·) y).sum (at' s1 i j) (at' (denseStep s t core c sh step).1 i j)) ∧
  (∀ m ∈ [2, 4, 7], ∀ elem micro e, e < 256 → elem.length = 2 * (1 + m) →
    (groupFloats m elem micro e).map finiteValue =
      (List.range 16).map fun j => codeValue m e (micro / 4 ^ (j / 4) % 4) (elemCode m elem 0 j)) ∧
  (∀ s t core (c : MatCmd) bsr d q b S1 ci p0 S2 bs p1, Canonical s → isBsr c.instr = bsr → (bsr = true → q < 4) → q < 32 →
    sparseFmt bsr c.fmt = true →
    let F := operandType (fmtA c.fmt)
    let bytes := F.width / 8
    let wide := decide (fmtA c.fmt = 1)
    let half := decide (fmtA c.fmt = 2 ∨ fmtA c.fmt = 3)
    let n := if half then 64 else 32
    let side := if bsr then (if half then 16 else 8) else 1
    let fe := hasFe c.instr
    unitRange s t fe (d.colidx + BitVec.ofNat 64 (4 * b)) 4 = (S1, .ok (ci, p0)) → leNat ci < d.ncols →
    unitRanges t fe S1 ((d.values + BitVec.ofNat 64 (side * side * bytes * b), side * side * bytes) ::
      (List.range side).map fun k => (c.b + BitVec.ofNat 64 (leNat ci * side + k) * c.c, n * bytes)) = (S2, .ok (bs, p1)) →
    let at' := fun (z : State) (i j : Nat) => (tileElems z core (tileOf c.instr) wide).getD ((if wide then 32 else 64) * i + j) 0
    let v := fun (i k : Nat) => packedAt (bs.getD 0 []) bytes (side * i + k)
    let y := fun (k j : Nat) => packedAt (bs.getD (k + 1) []) bytes j
    ∃ S', sparseEntry s t core c d q b = (S', .ok ()) ∧
      (∀ i j, (i < q * side ∨ q * side + side ≤ i ∨ n ≤ j) → i < 64 → j < (if wide then 32 else 64) → at' S' i j = at' S2 i j) ∧
      ∀ i j, i < side → j < n → (∀ k < side, finiteBits F (v i k) ∧ finiteBits F (y k j)) →
        finiteBits (if wide then f64F else f32F) (at' S2 (q * side + i) j) →
        if half then ChunkAdded ((List.range 16).map fun k => valueOf F (v i k) * valueOf F (y k j)).sum (at' S2 (q * side + i) j)
          (at' S' (q * side + i) j)
        else FusedChain F ((List.range side).map fun k => (v i k, y k j)) (at' S2 (q * side + i) j) (at' S' (q * side + i) j)) ∧
  (∀ s t core (c : MatCmd) r k S b p, Canonical s → r < 64 →
    let wide := decide (fmtAcc c.fmt = 1)
    let kind : CvtTy := if wide then .f64 else if fmtAcc c.fmt = 2 then .i32 else .f32
    let cols := c.b.toNat / 2 ^ 40 % 256 + 1
    let size := tyBytes k
    let stride : DWord := (lo32 c.b).signExtend 64
    let row := if wide then 32 else 64
    let n := tileOf c.instr
    cols ≤ row →
    (unitRange s t (hasFe c.instr) (c.a + BitVec.ofNat 64 r * stride) (cols * size) = (S, .ok (b, p)) →
      ∃ S', accldRow s t core c k r = (S', .ok ()) ∧ S'.mem = S.mem ∧
        (∀ j, j < cols → (tileElems S' core n wide).getD (row * r + j) 0 =
          if kind = k ∨ (kind = .i32 ∧ k = .n32) then packedAt b size j
          else (cvtOne k kind .rn false false (packedAt b size j)).1.toNat % 2 ^ (if wide then 64 else 32)) ∧
        (∀ j, (j < row * r ∨ row * r + cols ≤ j) → (tileElems S' core n wide).getD j 0 = (tileElems S core n wide).getD j 0) ∧
        (statusWord S' core n).toNat % 8 = if r = 0 then 0 else (statusWord S core n).toNat % 8) ∧
    (hasFe c.instr = false →
      accstRow s t core c k r = unitWrite s t c.pc (tileTag s core n) (c.a + BitVec.ofNat 64 r * stride)
        ((List.range cols).flatMap fun j => let x := (tileElems s core n wide).getD (row * r + j) 0
          leBytes size (if kind = k ∨ (kind = .i32 ∧ k = .n32) then x
            else (cvtOne kind k (fmtRnd c.fmt) (fmtSat c.fmt) (fmtFtz c.fmt) x).1.toNat))))

/-- The copy engines (R235 to R238, R295, R296, R354): a turn moves up to 512 bytes of the oldest command of the engine's next ready context;
in memory the destination's bytes become the source's and all others stay; the last byte done, and acknowledged where another package holds
it, the command leaves its queue and the counter advances; CCTX changes only with an empty queue, and a new TAG finds the context as after
reset but for its counter. The Bureau's answers and
replay (R302 to R305, R315): a page found on the second walk makes its entry replay, a page refused frees the entry and refuses its
waiters; the first waiter goes on, and the last one's replay frees the entry. The model's choices that it rests on: log entries 16, 22. -/
def Obligations.CopyAndReplayEvents : Prop :=
  ((∀ s die engine, (∀ k, k < 64 → (getCtx s die (64 * engine + k)).ready = false) → exec (.copyEngineTurn die engine) s = .next s) ∧
  (∀ s die engine k ctx (c : CopyCmd) r S c', k < 64 → ctx = 64 * engine + (tabGet 0 (getDie s die).rr engine + k) % 64 →
    (∀ j, j < k → (getCtx s die (64 * engine + (tabGet 0 (getDie s die).rr engine + j) % 64)).ready = false) →
    (getCtx s die ctx).ready = true → (getCtx s die ctx).queue = c :: r →
    let s0 := setDie s die { getDie s die with rr := tabSet (getDie s die).rr engine ((ctx + 1) % 64) }
    copyMove die ctx (srcSegs s0 die engine c) 512 512 s0 c = (S, c', none) →
    exec (.copyEngineTurn die engine) s = .next (setCtx S die ctx { getCtx S die ctx with queue := c' :: r }) ∧
    { c' with progress := c.progress, kept := c.kept, arrived := c.arrived, tainted := c.tainted } = c ∧
    (c.source = none → c'.progress = min (match c.kind with
      | .twoD | .gather => c.rows * c.len
      | _ => c.len) (c.progress + 512))) ∧
  (∀ s die ctx segs (c : CopyCmd) budget S1 pa otag prot S2 b g, Canonical s → c.progress % c.len < c.len →
    let va := c.dst + (if c.kind = .twoD then BitVec.ofNat 64 (c.progress / c.len) * c.dstride + BitVec.ofNat 64 (c.progress % c.len)
      else BitVec.ofNat 64 c.progress)
    copyPlace s die (ctx / 64) c va .write = (S1, .ok (.global pa otag prot)) →
    let n := min (min budget (64 - va.toNat % 64)) (c.len - c.progress % c.len)
    copyBytes S1 die (ctx / 64) c n = (S2, b, g, none) → b ≠ [] → b.length ≤ n →
    (∀ x ∈ segs, pa + b.length ≤ x.1 ∨ x.1 + x.2 ≤ pa) →
    ∃ S c', copyRun s die ctx segs c budget = (S, c', none) ∧ c'.progress = c.progress + b.length ∧
      (∀ i, i < b.length → Memory.get S.mem (pa + i) = b.getD i 0) ∧
      ∀ a, (a < pa ∨ pa + b.length ≤ a) → Memory.get S.mem a = Memory.get s.mem a) ∧
  (∀ s die engine (c : CopyCmd) n, c.source = none →
    (∀ S1 pa otag prot, c.kind = .oneD → c.kept = [] → 0 < n → n ≤ 64 →
      (c.src + BitVec.ofNat 64 c.progress).toNat % 64 + n ≤ 64 →
      copyPlace s die engine c (c.src + BitVec.ofNat 64 c.progress) .read = (S1, .ok (.global pa otag prot)) →
      (copyBytes s die engine c n).2.1 = (List.range n).map (fun i => Memory.get s.mem (pa + i)) ∧ (copyBytes s die engine c n).2.2.2 = none) ∧
    (c.kind = .zero → copyBytes s die engine c n = (s, List.replicate n 0, none, none)) ∧
    (c.kind = .fill → copyBytes s die engine c n =
      (s, (List.range n).map fun i => BitVec.ofNat 8 (c.pattern.toNat / 256 ^ ((c.progress + i) % 8)), none, none))) ∧
  (∀ s die ctx (c : CopyCmd) r, (getCtx s die ctx).queue = c :: r →
    let total := match c.kind with
      | .twoD | .gather => c.rows * c.len
      | _ => c.len
    let away := ∃ m ∈ s.fabric.msgs, m.req = .copyWrite (768 * die + ctx)
    (total ≤ c.progress → ¬ away → ∃ s', exec (.copyComplete die ctx) s = .next s' ∧ s'.mem = s.mem ∧
      getCtx s' die ctx = { getCtx s die ctx with queue := r, counter := (getCtx s die ctx).counter + 1 }) ∧
    (c.progress < total ∨ away → exec (.copyComplete die ctx) s = .next s)) ∧
  (∀ s die ctx (v : Word), die < 4 → ctx < 768 →
    let old : Word := tabGet 0 (getDie s die).cctx ctx
    let new := v &&& 0x80000FFF
    let held := (getCtx s die ctx).queue ≠ [] ∧ (old.toNat % 4096 ≠ new.toNat % 4096 ∨ (old.getLsbD 31 = true ∧ new.getLsbD 31 = false))
    (held → exec (.cctxWrite die ctx v) s = .next s) ∧
    let S := setDie s die { getDie s die with cctx := tabSet (getDie s die).cctx ctx new }
    (¬ held → old.toNat % 4096 = new.toNat % 4096 → exec (.cctxWrite die ctx v) s = .next S) ∧
    (¬ held → old.toNat % 4096 ≠ new.toNat % 4096 → exec (.cctxWrite die ctx v) s =
      .next (setCtx S die ctx { CopyCtx.reset with counter := (getCtx s die ctx).counter })))) ∧
  (∀ s die idx (e : FbEntry), entryOf s die idx = some e → e.idx = idx →
    (e.state = 1 → (∀ x, rewalk s e = .leaf x → e.waiters ≠ [] →
        ∃ s', exec (.fbresRewalk die idx) s = .next s' ∧ entryOf s' die idx = some { e with state := 3 } ∧ s'.teams = s.teams) ∧
      (∀ level, rewalk s e = .xlate level →
        ∃ s', exec (.fbresRewalk die idx) s = .next s' ∧ entryOf s' die idx = some { e with level } ∧ s'.teams = s.teams) ∧
      (∀ info x, rewalk s e = .perm info x → e.waiters = [] →
        ∃ s', exec (.fbresRewalk die idx) s = .next s' ∧ entryOf s' die idx = none ∧ s'.teams = s.teams) ∧
      (∀ w q p r, e.waiters = [w] → w.kind = .launch q → (getQueue s q).packets = p :: r → p.ltr = 0 → p.sig < 2 ^ 31 →
        ∃ s', exec (.fbresFail die idx) s = .next s' ∧ entryOf s' die idx = none ∧
          getQueue s' q = { getQueue s q with packets := (p :: r).filter (fun k => decide (k.seq ≠ p.seq)), lastErr := 0x31, parked := none })) ∧
    (e.state ≠ 1 → exec (.fbresRewalk die idx) s = .next s ∧ exec (.fbresFail die idx) s = .next s) ∧
    (e.state = 3 → ∀ w r, e.waiters = w :: r →
      (w.kind = .reissue → ∀ t f d k, teamOf s w.team = some t → pulseAt s t.core = true → fragOf t w.frag = some f → f.st = .parked → f.wait = some (.fault d k) →
        ∃ s' u, exec (.waiterReplay die idx) s = .next s' ∧ entryOf s' die idx = (if r = [] then none else some { e with waiters := r }) ∧
          teamOf s' w.team = some u ∧ fragOf u w.frag = some { f with st := .ready, wait := none }) ∧
      (∀ n, w.kind = .copy n → ∃ s', exec (.waiterReplay die idx) s = .next s' ∧ (getCtx s' (n / 768) (n % 768)).stalled = false ∧
        (getCtx s' (n / 768) (n % 768)).queue = (getCtx s (n / 768) (n % 768)).queue)) ∧
    (e.state ≠ 3 → exec (.waiterReplay die idx) s = .next s))

/-- The power market (R280 to R286): at an interval's end, once for each 10 µs of GTIME, each of the 52 quads has the floor of 8 tokens and
what the clearing gives above it, never more than it asks, all of them together never more than the budget; the allowance follows the
grant, a deficit is carried, and the new pulse pattern has the pulses of R285 and comes into force as the next frame of 16 cycles begins.
PBUDGET's TOKENS are held within their limits, its reserved bits ignored. The model's choices that it rests on: log entry 6. -/
def Obligations.PowerResults : Prop :=
  (∀ s, s.gtime.toNat / 10000 = s.hub.interval → exec .powerInterval s = .next s) ∧
  (∀ s, s.gtime.toNat / 10000 ≠ s.hub.interval → (logicalQuads s).Nodup → (logicalQuads s).length = 52 →
    ∃ s', exec .powerInterval s = .next s' ∧ s'.hub.startQuad = (s.hub.startQuad + 1) % 52 ∧ s'.hub.interval = s.gtime.toNat / 10000 ∧
      let grants := clearBids (s.hub.pbudget.toNat % 4096) s.hub.startQuad ((logicalQuads s).map (quadBid s))
      ∀ k, k < 52 → let q := (logicalQuads s).getD k 0
        let g := 8 + ((grants.find? fun y => y.1 == k).map (·.2)).getD 0
        let x := getQuad s q
        getQuad s' q = { x with
          grant := g, allow := BitVec.ofInt 64 (g * 10000000 + min x.allow.toInt 0), charged := 0, lastSpent := x.spent, spent := 0,
          nextPattern := pulsePattern (pulses g (getDie s (q / 14)).therm) }) ∧
  (∀ held s n, (∀ q, (getQuad (tick held s n) q).nextPattern = (getQuad s q).nextPattern) ∧
    (∀ q, (getQuad (tick held s n) q).allow = (getQuad s q).allow ∧ (1 ≤ n → (getQuad (tick held s n) q).charged = 0)) ∧
    (∀ q, (s.gtime.toNat + n) % 16 ≠ 0 → (getQuad (tick held s n) q).pattern = (getQuad s q).pattern) ∧
    (∀ q ∈ s.quads, (s.gtime.toNat + n) % 16 = 0 → (getQuad (tick held s n) q.1).pattern = (getQuad s q.1).nextPattern)) ∧
  (∀ budget start bids, 416 ≤ budget → ((clearBids budget start bids).map (·.2)).sum ≤ budget - 416 ∧
    ∀ x ∈ clearBids budget start bids, 8 + x.2 ≤ (bids.getD x.1 (8, 0)).1) ∧
  (∀ k, k ≤ 16 → (List.range 16).countP (pulsePattern k).getLsbD = k) ∧
  (∀ g, pulses g .tripped = 2 ∧ 2 ≤ pulses g .normal ∧ pulses g .normal ≤ 16 ∧ pulses g .throttled = min (pulses g .normal) 8 ∧
    (2 ≤ g → g ≤ 40 → 16 * g ≤ 40 * pulses g .normal ∧ 40 * pulses g .normal < 16 * g + 40 ∨ pulses g .normal = 2)) ∧
  (∀ s (v : Word), exec (.pbudgetWrite v) s =
    let tokens := v.toNat % 4096
    .next { s with hub := { s.hub with pbudget := if tokens < 416 then 416 else if 3200 < tokens then 3200 else BitVec.ofNat 32 tokens } })

/-- A die's own events and its errors (R209 to R211, R285, R286, R301, R310, R311, R314, R315, R351, R354, R422). The model's choices that
it rests on: log entries 27, 39, 47. -/
def Obligations.DieEvents : Prop :=
  (∀ s die (q : Int) th, die < 4 → (∀ t ∈ s.teams, dieOf t.core = die → ∀ n, slotOfTag s t.tag = some n → (getSlot s n).st ≠ 2) →
    let d := getDie s die
    let long := 2000000 ≤ s.gtime.toNat - d.thermSince.toNat
    th = (match d.therm with
      | .normal => if 420 ≤ q then Therm.tripped else if 380 ≤ q ∧ long then .throttled else .normal
      | .throttled => if 420 ≤ q then .tripped else if q ≤ 368 ∧ long then .normal else .throttled
      | .tripped => if q ≤ 368 ∧ long then .throttled else .tripped) →
    (th = d.therm → exec (.thermalSample die q) s = .next s) ∧
    (th ≠ d.therm → ∃ s', exec (.thermalSample die q) s = .next s' ∧ getDie s' die = { d with therm := th, thermSince := s.gtime } ∧
      ∀ k, k < 14 → getQuad s' (die * 14 + k) = { getQuad s (die * 14 + k) with
        nextPattern := pulsePattern (pulses (getQuad s (die * 14 + k)).grant th) })) ∧
  (∀ s core row, exec (.sramScrub core row .clean) s = .next s ∧
    exec (.sramScrub core row .corrected) s = .next (setCore s core { getCore s core with
      cecnt := if (getCore s core).cecnt = 0xFFFFFFFF then 0xFFFFFFFF else (getCore s core).cecnt + 1 })) ∧
  (∀ s core row, (getCore s core).celog.getLsbD 0 = false →
    let c := getCore s core
    let off := row % 1024 * 4096 + row / 1024 * 128
    let sp := partReg c.cpart * 65536
    sp ≤ off → off < sp + partScr c.cpart * 65536 →
    ∃ s', exec (.sramScrub core row .uncorrectable) s = .next s' ∧ (spPoison s' core (off - sp)).map (·.tag) = some (c.cowner.setWidth 12) ∧
      (getCore s' core).celog.getLsbD 0 = true ∧ fld (getCore s' core).celog 48 4 = 2 ∧ (getCore s' core).pool = c.pool ∧
      ∀ o, o / 128 ≠ (off - sp) / 128 → spPoison s' core o = spPoison s core o) ∧
  (∀ s core x r, (getCore s core).cache = x :: r → (getCore s core).celog.getLsbD 0 = false →
    let s' := coreError s core .cacheData 0
    (cacheLine (getCore s' core) x.line).bind (·.poison) = some { tag := x.tag, source := 0, log := (getCore s' core).celog } ∧
      fld (getCore s' core).celog 48 4 = 4 ∧ fld (getCore s' core).celog 52 12 = x.tag.toNat ∧ s'.mem = s.mem ∧ s'.teams = s.teams) ∧
  (∀ s die x r, (getDie s die).slice = x :: r → x.line < 2 ^ 38 → (getDie s die).delog.getLsbD 0 = false →
    let s' := dieError s die .sliceData 0
    ((getDie s' die).slice.find? fun y => y.line == x.line).bind (·.poison) = some { tag := x.tag, source := 1, log := (getDie s' die).delog } ∧
      fld (getDie s' die).delog 48 4 = 0 ∧ fld (getDie s' die).delog 52 12 = x.tag.toNat ∧ s'.mem = s.mem ∧ s'.teams = s.teams) ∧
  (∀ s die e r n, (getDie s die).fb = e :: r → e.tag ≠ 0 → ContextAt s n e.tag → (getSlot s n).st ∈ [1, 2, 3, 4] →
    (getSlot (dieError s die .faultBuffer 0) n).st = 1 ∧ teamsOfTag (dieError s die .faultBuffer 0) e.tag = []) ∧
  (∀ s core n, s.hub.job = none → (getCore s core).celog.getLsbD 0 = false →
    ∃ j, (coreError s core .issueLogic n).hub.job = some j ∧ j.source = 0 ∧ j.log = (getCore (coreError s core .issueLogic n) core).celog ∧
      (∀ t ∈ s.teams, t.core = core → t.tag ≠ 0 → t.tag ∈ j.tags) ∧ ∀ g ∈ j.tags, ∃ t ∈ s.teams, t.core = core ∧ t.tag = g) ∧
  (∀ s line x, line * 64 < Config.hbmEnd →
    let dn := dieOfPa (line * 64)
    let d := getDie s dn
    exec (.patrolScrub line .clean) s = .next s ∧
    exec (.patrolScrub line .corrected) s = .next (setDie s dn { d with
      decnt := if d.decnt = 0xFFFFFFFF then 0xFFFFFFFF else d.decnt + 1 }) ∧
    (d.slice.find? (fun y => y.line * 64 / Config.frameBytes == line * 64 / Config.frameBytes) = some x → x.prot < 3 →
      ∃ s', exec (.patrolScrub line .uncorrectable) s = .next s' ∧ s'.mem = s.mem ∧ (getDie s' dn).slice = d.slice ∧
        ((getDie s' dn).hbmPoison.find? fun y => y.1 == (if x.prot = 0 then line / 8 * 8 else line)).map (fun y => y.2.tag) =
          some (((d.owners.find? fun y => y.1 == line * 64 / Config.frameBytes).map (·.2)).getD 0))) ∧
  (∀ s frame tag, Canonical s → let die := frame / Config.framesPerDie
    let d := getDie s die
    (d.zeroing.find? fun x => x.1 == frame) = some (frame, tag) →
    ∃ s', exec (.frameZeroDone die frame) s = .next s' ∧
      (∀ a, frame * Config.frameBytes ≤ a → a < (frame + 1) * Config.frameBytes → Memory.get s'.mem a = 0) ∧
      (∀ a, a < frame * Config.frameBytes ∨ (frame + 1) * Config.frameBytes ≤ a → Memory.get s'.mem a = Memory.get s.mem a) ∧
      tabGet 0 (getDie s' die).owners frame = tag ∧ (∀ x ∈ (getDie s' die).zeroing, x.1 ≠ frame) ∧
      ∀ t f, teamOf s t.uid = some t → fragOf t f.num = some f → f.st = .parked → f.wait = some (.zeroing frame) →
        ∃ u, teamOf s' t.uid = some u ∧ fragOf u f.num = some { f with st := .ready, wait := none }) ∧
  (∀ s die (v : DWord), die < 4 →
    let names := fun (e : TlbEntry) => e.t.toNat = v.toNat % 4096 ∧
      (v.getLsbD 62 = true ∨ e.page = (if e.big then v.toNat / 2 ^ 30 % 2 ^ 26 else v.toNat / 2 ^ 21 % 2 ^ 35))
    ((getDie s die).xinv.getLsbD 63 = false → exec (.xinvWrite die v) s = .next s) ∧
    ((getDie s die).xinv.getLsbD 63 = true → ∃ s', exec (.xinvWrite die v) s = .next s' ∧ (getDie s' die).xinv.getLsbD 63 = false ∧
      (∀ c, (getCore s' c).utlb = (getCore s c).utlb.filter fun e => decide ¬ names e) ∧
      (∀ q, (getQuad s' q).tlb = (getQuad s q).tlb.filter fun e => decide ¬ names e) ∧
      ∀ d e, tabGet [] (getDie s' d).etlb e = (tabGet [] (getDie s d).etlb e).filter fun x => decide ¬ names x) ∧
    ((getDie s die).xinv.getLsbD 63 = true → exec (.xinvDone die) s = .next s) ∧
    ((getDie s die).xinv.getLsbD 63 = false → ∃ s', exec (.xinvDone die) s = .next s' ∧
      (getDie s' die).xinv = (getDie s die).xinv ||| (1 <<< 63) ∧ (getDie s' die).removed = [] ∧
      let removed := fun line => ∃ r ∈ (getDie s die).removed, r.1 ≤ line * 64 ∧ line * 64 < r.1 + r.2
      let dirty := fun (c a : Nat) => ∃ x, cacheLine (getCore s c) (a / 64) = some x ∧ x.dirty.getLsbD (a % 64) = true
      (∀ c line x, cacheLine (getCore s c) line = some x → ∃ y, cacheLine (getCore s' c) line = some y ∧ y.valid = x.valid ∧
        y.data = x.data ∧ (removed line → y.dirty = 0) ∧ (¬ removed line → y = x)) ∧
      (Canonical s → ∀ a, (∀ c, ¬ dirty c a) ∨ ¬ removed (a / 64) → Memory.get s'.mem a = Memory.get s.mem a) ∧
      (Canonical s → ∀ c a x, removed (a / 64) → cacheLine (getCore s c) (a / 64) = some x → x.dirty.getLsbD (a % 64) = true →
        (∀ c', c' ≠ c → ¬ dirty c' a) → Memory.get s'.mem a = lineByte x.data (a % 64)))) ∧
  (∀ s die (v : DWord), die < 4 →
    let moved := fun (p : Nat) => p < 14 ∧ v.toNat / 16 ^ p % 16 ≠ (getDie s die).dqmap.toNat / 16 ^ p % 16
    let retired := fun (p : Nat) => ∀ i, i < 4 → (getCore s (die * 56 + 4 * p + i)).cstate.toNat % 4 = 2
    ((∀ p, moved p → retired p) → exec (.dqmapWrite die v) s = .next (setDie s die { getDie s die with dqmap := v &&& (2 ^ 56 - 1) })) ∧
    ((∃ p, moved p ∧ ¬ retired p) → exec (.dqmapWrite die v) s = .next s)) ∧
  (∀ s core (v : Word), core < 224 → let c := getCore s core
    (v.toNat % 4 = 1 → (∀ t ∈ s.teams, t.core ≠ core) → ∃ s', exec (.cstateWrite core v) s = .next s' ∧ getCore s' core = { c with cstate := 2 }) ∧
    (v.toNat % 4 = 1 → (∃ t ∈ s.teams, t.core = core) → exec (.cstateWrite core v) s = .next (setCore s core { c with cstate := 1 })) ∧
    (v.toNat % 4 = 0 → c.cstate.toNat % 4 = 2 → exec (.cstateWrite core v) s = .next (setCore s core { c with cstate := 0 })) ∧
    (2 ≤ v.toNat % 4 → exec (.cstateWrite core v) s = .next s)) ∧
  (∀ s die (v : DWord), die < 4 → let line := v.toNat / 64 % 2 ^ 38
    (dieOfPa (line * 64) = die → line * 64 < Config.hbmEnd → exec (.deinjWrite die v) s =
      .next (setDie s die { getDie s die with deinj := v &&& 0x80000FFFFFFFFFC0 })) ∧
    (dieOfPa (line * 64) ≠ die ∨ Config.hbmEnd ≤ line * 64 → exec (.deinjWrite die v) s = .next s))

/-- Boot and reset (R353, R354, R360): the stages in turn; a failure goes back to ROM with the other image, and after the third ROM goes to
MINIMAL; a cold reset is the state of reset with the ROM at work; a warm reset saves the contexts that run and are not implicated, resets
dies and cores, leaves memory, and terminates the implicated ones. That GTIME is kept over a warm reset and 0 after a cold one is the
model's choice, log entry 7; the values of the cold reset that no rule gives are those of entries 2, 3, 5 and 6. The model's choices that it
rests on: log entries 2, 3, 5, 6, 7, 34, 35, 57, 58. -/
def Obligations.BootEvents : Prop :=
  (∀ s, (s.hub.bootState = 0 → ∀ i ∈ [Instr.bootFirmwareVerified, .bootStage2Fetched, .bootVerified, .bootTimeout], exec i s = .next s) ∧
    (s.hub.bootState = 0 → romStep s = { s with hub := { s.hub with bootState := if 3 ≤ s.hub.bootFails then 5 else 1 } }) ∧
    (s.hub.bootState ≠ 0 → romStep s = s) ∧
    (s.hub.bootState = 1 → exec .bootFirmwareVerified s = .next { s with hub := { s.hub with bootState := 2 } }) ∧
    (s.hub.bootState = 2 → exec .bootStage2Fetched s = .next { s with hub := { s.hub with bootState := 3 } }) ∧
    (s.hub.bootState = 3 → exec .bootVerified s = .next { s with hub := { s.hub with bootState := 4, bootFails := 0 } }) ∧
    (4 ≤ s.hub.bootState → ∀ i ∈ [Instr.bootFirmwareVerified, .bootStage2Fetched, .bootVerified, .bootTimeout], exec i s = .next s)) ∧
  (∀ s reason, 1 ≤ s.hub.bootState → s.hub.bootState ≤ 3 →
    let h := { s.hub with bootFails := s.hub.bootFails + 1, bootImage := 1 - s.hub.bootImage, bootState := 0 }
    exec (.bootFailure reason) s = .next { s with hub := { h with bootReason := reason % 256 } } ∧
    exec .bootTimeout s = .next { s with hub := { h with bootReason := 4 } }) ∧
  (∀ s, ∃ s', exec .coldReset s = .next s' ∧ s'.hub.bootState = 1 ∧
    { s' with agenda := [], free := 0, hub := { s'.hub with bootState := 0 } } = State.reset) ∧
  (∀ s, s.hub.job = none → (∀ p ∈ s.hub.slots, ¬ (p.2.cxctl.getLsbD 31 = true ∧ (p.2.st = 2 ∨ p.2.st = 3))) → (∀ d ∈ s.dies, d.2.fb = []) →
    ∃ s', exec (.warmReset []) s = .next s' ∧ s'.mem = s.mem ∧ s'.cores = [] ∧ s'.quads = [] ∧ s'.gtime = s.gtime ∧ s'.teams = s.teams ∧
      s'.hub.job = none ∧ s'.fabric.msgs = [] ∧
      s'.hub.slots = s.hub.slots ∧ s'.hub.timelines = s.hub.timelines ∧ s'.hub.records = s.hub.records ∧
      ∀ d, (getDie s' d).dqmap = Die.reset.dqmap ∧ (getDie s' d).therm = .normal ∧ (getDie s' d).slice = [] ∧
        (getDie s' d).owners = (getDie s d).owners ∧ (getDie s' d).cctx = (getDie s d).cctx) ∧
  (∀ s tags, s.hub.job = none → (∀ d ∈ s.dies, d.2.fb = []) →
    (∀ p ∈ s.hub.slots, p.2.cxctl.getLsbD 31 = true → p.2.st = 2 ∨ p.2.st = 3 → p.2.cxctl.setWidth 12 ∈ tags) →
    ∃ s', exec (.warmReset tags) s = .next s' ∧ s'.hub.job = none ∧
      ∀ n tag, ContextAt s n tag → tag ∈ tags → (getSlot s n).st ∈ [1, 2, 3, 4] → (getSlot s' n).st = 1 ∧ teamsOfTag s' tag = []) ∧
  (∀ s j n r, s.hub.job = some j → j.todo = n :: r → (getSlot s n).leaving = false →
    let S := preempt s n
    let put := fun (j : ResetJob) => ({ S with hub := { S.hub with job := some j } } : State)
    ((getSlot S n).st = 4 → resetStep s = put { j with todo := r, saved := j.saved ++ [n] }) ∧
    ((getSlot S n).st = 3 → (getSlot S n).leaving = false → resetStep s = put { j with todo := r, tags := j.tags ++ [slotTag S n] }))

/-- Contexts (R253, R349, R350, R352, R355, R356): CXCTL makes a slot LOADED or FREE while it has not run; pre-emption with no command and
no request in flight saves the teams and frees the cores; resume lets a stopped context go on, and the period of a launch whose watchdog has
fired restarts once; termination leaves the slot LOADED, with nothing of the context and its record written; a VF's reset terminates its
context, empties its queues and disowns its frames. The model's choices that it rests on: log entries 32, 33. -/
def Obligations.ContextEvents : Prop :=
  (∀ s n (v : Word), n < 256 → let x := getSlot s n
    let taken := ∃ p ∈ s.hub.slots, p.1 ≠ n ∧ p.2.cxctl.getLsbD 31 = true ∧ p.2.cxctl.toNat % 4096 = v.toNat % 4096
    (x.st < 2 → (v.getLsbD 31 = true → ¬ taken) → exec (.cxctlWrite n v) s = .next (setSlot s n { x with
      cxctl := v &&& 0xBF000FFF, st := if v.getLsbD 31 then 1 else 0 })) ∧
    (2 ≤ x.st ∨ (v.getLsbD 31 = true ∧ taken) → exec (.cxctlWrite n v) s = .next s)) ∧
  (∀ s n tag, ContextAt s n tag → Canonical s → let x := getSlot s n
    let kept := fun (t : Team) => (t.uid, t.lanes, t.scalars, t.cc, t.calls, t.loops, t.frags.map fun f => (f.num, f.pc, f.st, f.depth, f.active))
    (x.st = 3 → x.fatal = false → ∃ s', exec (.cxcmdResume n) s = .next s' ∧
      getSlot s' n = { x with st := if (teamsOfTag s tag).isEmpty then 1 else 2, leaving := false } ∧ s'.teams = s.teams ∧ s'.mem = s.mem ∧
      s'.hub.launches = (s.hub.launches.map fun l => if l.tag = tag then
        { l with awaits := false, elapsed := if l.fired = true ∧ l.again = false then 0 else l.elapsed, again := l.again || l.fired } else l) ∧
      ∀ c, (getCore s c).cowner.getLsbD 31 = true → (getCore s c).cowner.setWidth 12 = tag →
        ∀ b ∈ (getCore s' c).benches, b.bctl.getLsbD 0 = false ∧ b.claimant = none) ∧
    (x.st ∈ [0, 1, 2, 5] ∨ (x.st = 3 ∧ x.fatal = true) → exec (.cxcmdResume n) s = .next s) ∧
    (x.st ∈ [0, 1, 4, 5] ∨ (x.st = 3 ∧ x.fatal = true) → exec (.cxcmdPreempt n) s = .next s) ∧
    (x.st = 2 → Quiet s → (∀ c ∈ coresOf s tag, (getCore s c).matq = [] ∧ (getCore s c).ixq = []) →
      (∀ t ∈ teamsOfTag s tag, ∀ m ∈ s.fabric.msgs, m.isOf t.uid = false) →
      ∃ s', exec (.cxcmdPreempt n) s = .next s' ∧ getSlot s' n = { x with st := 4, leaving := false } ∧ teamsOfTag s' tag = [] ∧
        (∀ c, ¬ ((getCore s' c).cowner.getLsbD 31 = true ∧ (getCore s' c).cowner.setWidth 12 = tag)) ∧
        ∃ v ∈ s'.hub.saved, v.slot = n ∧ v.tag = tag ∧ v.teams.map kept = (teamsOfTag s tag).map kept) ∧
    (x.st ∈ [1, 2, 3, 4] → ∃ s', exec (.cxcmdTerminate n) s = .next s' ∧
      getSlot s' n = { x with st := 1, fatal := false, leaving := false, fabric := false } ∧ teamsOfTag s' tag = [] ∧
      (∀ a ∈ s'.hub.acts, a.tag ≠ tag) ∧ (∀ l ∈ s'.hub.launches, l.tag ≠ tag) ∧ (∀ v ∈ s'.hub.saved, v.tag ≠ tag) ∧
      (∀ b ∈ s'.hub.bindings, b.1 ≠ tag) ∧ Memory.get s'.mem (x.term.toNat / 64 % 2 ^ 38 * 64) = 0x25)) ∧
  (∀ s vf n tag, ContextAt s n tag → (getSlot s n).st ∈ [1, 2, 3, 4] →
    (s.hub.slots.filter fun p => p.2.cxctl.getLsbD 31 && decide (p.2.cxctl.toNat / 2 ^ 24 % 64 = vf)) = [(n, getSlot s n)] →
    ∃ s', exec (.vfReset vf) s = .next s' ∧ (getSlot s' n).st = 1 ∧ teamsOfTag s' tag = [] ∧
      (∀ d ∈ s'.dies, ∀ o ∈ d.2.owners, o.2 ≠ tag) ∧
      ∀ q, (getQueue s q).cfg.setWidth 12 = tag → (getQueue s q).cfg.getLsbD 31 = true →
        (getQueue s' q).packets = [] ∧ (getQueue s' q).cfg.getLsbD 31 = false)

/-- Launches (R342 to R350, R359, R360): a packet is appended or refused; dispatch checks the image's header and makes the launch; a
placed team starts with its arguments, its lanes and one fragment at the entry; completion ends the launch and advances its SIG; the
watchdog stops the context once and terminates it next; QCFG's guarded fields change only in an idle queue. The model's choices that it
rests on: log entry 36. -/
def Obligations.LaunchEvents : Prop :=
  (∀ s q off data, q < 256 → let x := getQueue s q
    (∀ posted, data.length ≠ 128 ∨ off % 128 ≠ 0 ∨ posted = true →
      exec (.launchPacketWrite (.host posted) q off data) s = .next (setQueue s q { x with lastErr := 0x31 })) ∧
    (∀ fn posted, fn ≠ 0 → x.cfg.toNat / 2 ^ 22 % 64 = fn →
      exec (.launchPacketWrite (.vf fn posted) ((List.range q).filter fun k => decide ((getQueue s k).cfg.toNat / 2 ^ 22 % 64 = fn)).length off data) s =
        exec (.launchPacketWrite (.host posted) q off data) s) ∧
    (∀ fn posted n, (fn = 0 ∨ ((List.range 256).filter fun k => decide ((getQueue s k).cfg.toNat / 2 ^ 22 % 64 = fn)).length ≤ n) →
      exec (.launchPacketWrite (.vf fn posted) n off data) s = .next s) ∧
    (∀ pkg tag, data.length = 128 → off % 128 = 0 → x.cfg.getLsbD 31 = true →
      (∀ e ∈ s.hub.acl, ¬ (e.2.getLsbD 63 = true ∧ e.2.toNat / 2 ^ 48 % 256 = pkg ∧ e.2.toNat % 256 = q ∧
        (e.2.toNat / 2 ^ 36 % 4096 = tag.toNat ∨ e.2.toNat / 2 ^ 36 % 4096 = 0xFFF))) →
      exec (.launchPacketWrite (.peer pkg tag) q off data) s = .next (setQueue s q { x with lastErr := 0x33 })) ∧
    (data.length = 128 → off % 128 = 0 → x.cfg.getLsbD 31 = false → exec (.launchPacketWrite (.host false) q off data) s = .next s) ∧
    (data.length = 128 → off % 128 = 0 → x.cfg.getLsbD 31 = true → leNat ((data.drop 0x74).take 2) % 4096 ≠ x.cfg.toNat % 4096 →
      exec (.launchPacketWrite (.host false) q off data) s = .next (setQueue s q { x with lastErr := 0x33 })) ∧
    (data.length = 128 → off % 128 = 0 → x.cfg.getLsbD 31 = true → leNat ((data.drop 0x74).take 2) % 4096 = x.cfg.toNat % 4096 →
      x.packets.length < 64 → leNat (data.drop 0x78) = 0 →
      ∃ s' p, exec (.launchPacketWrite (.host false) q off data) s = .next s' ∧
        getQueue s' q = { x with packets := x.packets ++ [p], accepted := x.accepted + 1 } ∧
        p.image = BitVec.ofNat 64 (leNat (data.take 8)) ∧ p.args = BitVec.ofNat 64 (leNat ((data.drop 0x18).take 8)) ∧
        p.teams = leNat ((data.drop 8).take 4) ∧ p.tsize = leNat ((data.drop 12).take 2) ∧ p.seq = s.hub.nextSeq ∧ p.tappend = s.gtime)) ∧
  (∀ s, (s.hub.bootState ≠ 4 → exec .launchDispatch s = .next s ∧ ∀ l, exec (.teamPlace l) s = .next s) ∧
    (s.hub.bootState = 4 → bestCandidate s = none → exec .launchDispatch s = .next s) ∧
    (s.hub.bootState = 4 → ∀ q p r, bestCandidate s = some (.queue q) → candLaunch s (.queue q) = none → (getQueue s q).packets = p :: r →
      let refused := fun (S : State) (st : Nat) => setQueue S q { getQueue S q with
        packets := (p :: r).filter (fun k => decide (k.seq ≠ p.seq)), lastErr := st }
      (∀ S, readHeader s (BitVec.ofNat 12 p.owner) p.image = (S, .refused) → p.ltr = 0 → p.sig < 2 ^ 31 →
        exec .launchDispatch s = .next (refused S 0x31)) ∧
      ∀ S b, readHeader s (BitVec.ofNat 12 p.owner) p.image = (S, .got b) →
        (∀ st, (headerOf b).refusal = some st → p.ltr = 0 → p.sig < 2 ^ 31 → exec .launchDispatch s = .next (refused S st)) ∧
        ((headerOf b).refusal = none → p.ok S (headerOf b) = false → p.ltr = 0 → p.sig < 2 ^ 31 →
          exec .launchDispatch s = .next (refused S 0x31)) ∧
        ((headerOf b).refusal = none → p.ok S (headerOf b) = true → (p.flags ||| (headerOf b).flags) / 4 % 2 = 0 →
          ∃ s', exec .launchDispatch s = .next s' ∧ ∃ l ∈ s'.hub.launches, l.id = s.hub.nextLaunch ∧ l.queue = q ∧
            l.tag = BitVec.ofNat 12 p.owner ∧ l.base = p.image ∧ l.entry = (headerOf b).entry ∧ l.stackDecl = (headerOf b).stackDecl ∧
            l.localsDecl = (headerOf b).localsDecl ∧ l.placed ≤ 1))) ∧
  (∀ s l c bench, s.hub.bootState = 4 → (bestCandidate s).bind (candLaunch s) = some l → launchOf s l.id = some l → l.flags / 4 % 2 = 0 →
    l.placed < l.pkt.teams → l.comp = none → (∀ t ∈ s.teams, t.uid < s.hub.nextUid) → (getBench s c bench).btrace.getLsbD 63 = false →
    ((dieOrder s).findSome? fun d => placeIn s l d) = some (c, bench) →
    ∃ s' u, exec (.teamPlace l.id) s = .next s' ∧ teamOf s' s.hub.nextUid = some u ∧ u.core = c ∧ u.bench = bench ∧ u.tag = l.tag ∧
      u.number = l.placed ∧ u.width = l.lanes ∧ u.lanes.length = l.lanes ∧ u.scalars = [0, l.pkt.args] ++ l.pkt.inline ++ List.replicate 22 0 ∧
      (∃ f, u.frags = [f] ∧ f.num = 0 ∧ f.pc = l.base + BitVec.ofNat 64 l.entry ∧ f.st = .ready ∧ f.depth = 0 ∧ f.fmt = 0 ∧
        f.member = fullMask l.lanes ∧ f.active = fullMask l.lanes) ∧
      u.cc = 0 ∧ u.fpsf = 0 ∧ u.loops = [] ∧ u.calls = [] ∧ (getCore s' c).tenancy = some l.id ∧
      ∃ l', launchOf s' l.id = some l' ∧ l'.placed = l.placed + 1) ∧
  (∀ s l, launchOf s l.id = some l → l.comp = none → launchOver s l = true → l.pkt.ltr = 0 →
    ∃ s', exec (.launchComplete l.id) s = .next s' ∧ launchOf s' l.id = none ∧
      (2 ^ 31 ≤ l.pkt.sig → l.pkt.sig < 2 ^ 32 → 4096 ≤ l.pkt.sig % 8192 → counter s (l.pkt.sig % 8192) ≠ BitVec.allOnes 64 →
        counter s' (l.pkt.sig % 8192) = counter s (l.pkt.sig % 8192) + 1)) ∧
  (∀ s l n, launchOf s l.id = some l → slotOfTag s l.tag = some n → (getSlot s n).st = 2 → l.tfirst ≠ none → (∃ t ∈ s.teams, t.launch = l.id) →
    (l.elapsed < (if l.pkt.period = 0 then 100000 else l.pkt.period) * 1000 → exec (.watchdogFire l.id) s = .next s) ∧
    ((if l.pkt.period = 0 then 100000 else l.pkt.period) * 1000 ≤ l.elapsed →
      (l.fired = false → ∃ s' l', exec (.watchdogFire l.id) s = .next s' ∧ (getSlot s' n).st = 3 ∧ (getSlot s' n).fatal = false ∧
        launchOf s' l.id = some l' ∧ l'.fired = true ∧ l'.elapsed = 0 ∧
        s'.hub.records.getLast?.map (fun r => (r.trapcode, r.extra, r.tag)) = some (0x24, l.pkt.ltr, l.tag)) ∧
      (l.fired = true → exec (.watchdogFire l.id) s = .next (terminate s n
        { cause := 0x24, info := 0, source := 6, log := 0, pc := 0, team := 0xFFFFFFFF, whereWord := 0, launchImage := l.pkt.image })))) ∧
  (∀ s q (v : Word), q < 256 → let x := getQueue s q
    let new := v &&& 0xFFC00FFF
    let busy := x.packets ≠ [] ∨ ∃ t ∈ s.teams, ∃ l ∈ s.hub.launches, l.id = t.launch ∧ l.comp = none ∧ l.queue = q
    let guarded := x.cfg.toNat % 4096 ≠ new.toNat % 4096 ∨ x.cfg.toNat / 2 ^ 22 % 64 ≠ new.toNat / 2 ^ 22 % 64 ∨
      (x.cfg.getLsbD 31 = true ∧ new.getLsbD 31 = false)
    (guarded → busy → exec (.qcfgWrite q v) s = .next s) ∧
    (¬ (guarded ∧ busy) → x.cfg.toNat % 4096 = new.toNat % 4096 → exec (.qcfgWrite q v) s = .next (setQueue s q { x with cfg := new })) ∧
    (¬ (guarded ∧ busy) → x.cfg.toNat % 4096 ≠ new.toNat % 4096 →
      exec (.qcfgWrite q v) s = .next (setQueue s q { x with cfg := new, lastErr := 0, accepted := 0 })))

/-- Compensation and key waits (R370, R378 to R380, R382, R385: none goes on while the context is SAVED): a key is held by a later entry of
another activity of the context, and the hub reads the entry and, where it has a key, those entries, until one is not sound (R373, R379);
and the registers of activities, pools and the state store (R370, R386, R388, R389). The model's choices that it rests on: log entries 29,
30, 31. -/
def Obligations.HubEvents : Prop :=
  (∀ s l a e g, launchOf s l.id = some l → l.comp = some e → launchOver s l = true → a.last = some e →
    s.hub.acts.find? (fun a => a.running && l.comp.isSome && a.last == l.comp) = some a → actAt s a.tag a.slot = some a →
    l.compStatus = some g → g.1 ≠ 0 → walkPaused s l.tag = false →
    EntrySound (entryPut (contextIdle (endLaunch (endTenancies s l.id) l 0) l.tag) e 0x38 (leBytes 4 g.1.toNat)) e →
    ∃ s', exec (.compensationDone l.id) s = .next s' ∧ launchOf s' l.id = none ∧
      actAt s' a.tag a.slot = some { a with running := false, cret := g.1, st := .failed } ∧
      s'.hub.records.getLast?.map (fun r => (r.tag, r.trapcode, r.pc)) =
        some (a.tag, BitVec.ofNat 32 (g.2 % 65536 * 65536 + 0x23), BitVec.ofNat 64 (a.tag.toNat * 2 ^ 20 + a.gen * 2 ^ 8 + a.slot))) ∧
  (∀ s l tag slot n, slotOfTag s tag = some n → (getSlot s n).st = 4 →
    (launchOf s l.id = some l → l.tag = tag → exec (.compensationDone l.id) s = .next s) ∧
    exec (.keyWaitEnd tag slot) s = .next s ∧ exec (.keyWaitTimeout tag slot) s = .next s) ∧
  (∀ s tag, (∀ n, slotOfTag s tag = some n → (getSlot s n).st ≠ 4) → slotOfTag s tag ≠ none → walkPaused s tag = false) ∧
  (∀ s a e k, Canonical s → actAt s a.tag a.slot = some a → a.st = .walking → a.last = some e → a.keyWait = some k →
    walkPaused s a.tag = false →
    ((keyLook s a e).2 = some false → ∃ s', exec (.keyWaitEnd a.tag a.slot) s = .next s' ∧
      actAt s' a.tag a.slot = some { a with keyWait := none, running := true } ∧ Memory.get s'.mem (entryAddr s e.1 e.2 + 0x26) = 2) ∧
    ((keyLook s a e).2 = some true → exec (.keyWaitEnd a.tag a.slot) s = .next s) ∧
    ((keyLook s a e).2 = some true → EntrySound (keyLook s a e).1 e → s.hub.actcfg.toNat % 2 ^ 20 * 1000 ≤ k → ∃ s', exec (.keyWaitTimeout a.tag a.slot) s = .next s' ∧
      actAt s' a.tag a.slot = some { a with st := .entangled, keyWait := none } ∧
      s'.hub.records.getLast?.map (fun r => (r.tag, r.trapcode)) = some (a.tag, 0x22)) ∧
    (k < s.hub.actcfg.toNat % 2 ^ 20 * 1000 → exec (.keyWaitTimeout a.tag a.slot) s = .next s)) ∧
  (∀ s (a : Activity) e, let key := fun (g : Nat × Nat) => Memory.nat s.mem (entryAddr s g.1 g.2 + 8) 8
    let made := fun (g : Nat × Nat) => Memory.nat s.mem (entryAddr s g.1 g.2) 8
    let others := (s.hub.acts.filter fun b => decide (b.tag = a.tag ∧ b.slot ≠ a.slot)).flatMap fun b => b.chain s
    let found := (readEntries s a.tag (e :: if key e = 0 then [] else others)).2
    (found = false → (keyLook s a e).2 = none) ∧
    (found = true → (keyLook s a e).2 = some (decide (key e ≠ 0) && others.any fun g => decide (key g = key e ∧ made e < made g)))) ∧
  (∀ s tag e r, readEntries s tag [] = (s, true) ∧
    (EntrySound s e → readEntries s tag (e :: r) = readEntries (homeTouch s (entryAddr s e.1 e.2 / 64) 0 0 true) tag r) ∧
    (¬ EntrySound s e → (readEntries s tag (e :: r)).2 = false)) ∧
  (∀ s (v : Word), let tmo := max 1 (min (v.toNat % 2 ^ 20) 1000000)
    let on := v.getLsbD 31 = true ∨ (s.hub.actcfg.getLsbD 31 = true ∧ (s.hub.acts ≠ [] ∨ ∃ n ∈ s.hub.segused, n ≠ 0))
    (on → exec (.actcfgWrite v) s = .next { s with hub := { s.hub with actcfg := BitVec.ofNat 32 (2 ^ 31 + tmo) } }) ∧
    (¬ on → exec (.actcfgWrite v) s = .next { s with hub := { s.hub with actcfg := BitVec.ofNat 32 tmo } })) ∧
  (∀ s n (v : DWord), n < 64 → let p := getPool s n
    (p.ctl.getLsbD 63 = true → v.getLsbD 63 = true → exec (.poolctlWrite n v) s = .next s) ∧
    (p.ctl.getLsbD 63 = false ∨ v.getLsbD 63 = false → p.ctl.toNat / 2 ^ 32 % 4096 = v.toNat / 2 ^ 32 % 4096 →
      exec (.poolctlWrite n v) s = .next (setPool s n { p with ctl := v &&& 0xF0000FFF00FFFFFF, given := [], next := 1 })) ∧
    (p.ctl.getLsbD 63 = false ∨ v.getLsbD 63 = false → p.ctl.toNat / 2 ^ 32 % 4096 ≠ v.toNat / 2 ^ 32 % 4096 →
      let base := p.list.toNat / 64 % 2 ^ 38 * 64
      exec (.poolctlWrite n v) s = .next (setPool { s with mem := Memory.clear s.mem base (base + 64 + 4 * (p.ctl.toNat % 2 ^ 24)) } n { p with ctl := v &&& 0xF0000FFF00FFFFFF, given := [], next := 1 }))) ∧
  (∀ s (v : DWord), let st := s.hub.store
    (st.cfg.getLsbD 63 = true → (v.getLsbD 63 = true ∨ ∃ x ∈ st.recs, x.2.st ≠ 0) → exec (.sscfgWrite v) s = .next s) ∧
    (st.cfg.getLsbD 63 = true → v.getLsbD 63 = false → (∀ x ∈ st.recs, x.2.st = 0) → exec (.sscfgWrite v) s =
      .next { s with hub := { s.hub with store := { st with cfg := st.cfg &&& 0x1FFFF, free := 0 } } }) ∧
    (st.cfg.getLsbD 63 = false → v.getLsbD 63 = false → exec (.sscfgWrite v) s =
      .next { s with hub := { s.hub with store := { st with cfg := v &&& 0x1FFFF } } }) ∧
    (st.cfg.getLsbD 63 = false → v.getLsbD 63 = true →
      let slots := max 1 (min (v.toNat % 2 ^ 17) 65536)
      let base := st.base.toNat / 2 ^ 21 % 2 ^ 23 * 2 ^ 21
      exec (.sscfgWrite v) s = .next { s with
        mem := Memory.clear s.mem base (base + 256 * slots)
        hub := { s.hub with store := { st with cfg := v &&& 0x800000000001FFFF, free := st.gran.toNat - ((256 * slots + 4095) / 4096 +
          (264 * slots + 4095) / 4096 + (4 * st.gran.toNat + 4095) / 4096) } } }))

/-- The fabric and the host (R431 to R443), and REGISTER_WRITE (R340), which always completes: it does to a register what the register's own
event does, and nothing at an address that is not a word's or that holds no register. The model's choices that it rests on: log entries 26,
40, 41. -/
def Obligations.FabricEvents : Prop :=
  (∀ s link (up : Bool) peer, link < 18 → let v : DWord := tabGet 0 s.fabric.tlink link
    let set := fun (x : DWord) => { s with fabric := { s.fabric with tlink := tabSet s.fabric.tlink link x } }
    exec (.laneSwap link) s = .next (set (v ||| (1 <<< 62))) ∧
    (v.toNat / 2 ^ 32 % 65536 ≠ 65535 → exec (.linkLevelRetry link) s = .next (set (v + (1 <<< 32)))) ∧
    (v.toNat / 2 ^ 32 % 65536 = 65535 → exec (.linkLevelRetry link) s = .next s) ∧
    exec (.linkTrained link up peer) s = .next (set ((v &&& 0x4000FFFF00000000) |||
      BitVec.ofNat 64 ((if up then 2 ^ 63 else 0) + peer % 256 * 2 ^ 48)))) ∧
  (∀ s c (v : DWord), c < 16 → let p := tabGet PodChan.reset s.fabric.pod c
    let tag : Tag := BitVec.ofNat 12 (v.toNat / 2 ^ 48)
    let ids := [v.toNat / 2 ^ 16 % 8192, v.toNat / 2 ^ 32 % 8192]
    let ok := ∀ n ∈ ids, 4096 ≤ n ∧ counterOwner s n = some tag
    ((p.cfg.getLsbD 63 = true ∧ v.getLsbD 63 = true) ∨ ¬ ok → exec (.pbcfgWrite c v) s = .next s) ∧
    (¬ (p.cfg.getLsbD 63 = true ∧ v.getLsbD 63 = true) → ok → v.getLsbD 63 = true → exec (.pbcfgWrite c v) s =
      .next { s with fabric := { s.fabric with pod := tabSet s.fabric.pod c (⟨v &&& 0x8FFF1FFF1FFF00FF,
        counter s (v.toNat / 2 ^ 16 % 8192), counter s (v.toNat / 2 ^ 32 % 8192), 0⟩ : PodChan) } }) ∧
    (¬ (p.cfg.getLsbD 63 = true ∧ v.getLsbD 63 = true) → ok → v.getLsbD 63 = false → exec (.pbcfgWrite c v) s =
      .next { s with fabric := { s.fabric with pod := tabSet s.fabric.pod c { p with cfg := v &&& 0x8FFF1FFF1FFF00FF } } }) ∧
    (p.cfg.getLsbD 63 = true → let arrive := p.cfg.toNat / 2 ^ 16 % 8192
      let release := p.cfg.toNat / 2 ^ 32 % 8192
      ((counter s arrive).toNat < p.a0.toNat + p.gen + 1 → exec (.podBarrierRelease c) s = .next s) ∧
      (p.a0.toNat + p.gen + 1 ≤ (counter s arrive).toNat → 4096 ≤ release → p.b0.toNat + p.gen + 1 < 2 ^ 64 →
        ∃ s', exec (.podBarrierRelease c) s = .next s' ∧ (tabGet PodChan.reset s'.fabric.pod c) = { p with gen := p.gen + 1 } ∧
          (counter s' release).toNat = max (counter s release).toNat (p.b0.toNat + p.gen + 1)))) ∧
  (∀ s pkg stag (va : DWord) b g pa e, Canonical s → podAdmit s pkg stag = some g → (∀ x ∈ s.fabric.peers, ¬ (x.pkg = pkg ∧ x.stag = stag)) → b ≠ [] → va.toNat % 2 ^ 47 % 64 + b.length ≤ 64 →
    heldBehind (getDie s (homeDie s g)) g (va.toNat % 2 ^ 47 / 2 ^ 21) pkg stag = false →
    translateWalk s g (BitVec.ofNat 64 (va.toNat % 2 ^ 47)) .write = .ok pa e → pa < Config.hbmEnd → pa % 64 = va.toNat % 2 ^ 47 % 64 →
    ∃ s', exec (.podAccess pkg stag va (.write b)) s = .next s' ∧ (∀ k, k < b.length → Memory.get s'.mem (pa + k) = b.getD k 0) ∧
      ∀ a, (a < pa ∨ pa + b.length ≤ a) → Memory.get s'.mem a = Memory.get s.mem a) ∧
  (∀ s pkg stag va op, (∀ x ∈ s.fabric.peers, ¬ (x.pkg = pkg ∧ x.stag = stag)) → podAdmit s pkg stag = none →
    exec (.podAccess pkg stag va op) s = .next s) ∧
  (∀ s t, teamOf s t.uid = some t →
    let late := fun (m : PodMsg) => m.team == t.uid && decide (10000000 ≤ s.gtime.toNat - m.time.toNat)
    ((∀ m ∈ s.fabric.msgs, late m = false) → exec (.fabricAckTimeout t.uid) s = .next s) ∧
    ∀ k m n, s.fabric.msgs.findIdx? late = some k → s.fabric.msgs[k]? = some m → m.req = .store → ContextAt s n t.tag →
      exec (.fabricAckTimeout t.uid) s = .next (classS (setSlot { s with fabric := { s.fabric with msgs := s.fabric.msgs.eraseIdx k } } n
        { getSlot s n with fabric := true }) t.uid 0x11 0 8 m.pc m.lanes (some m.va))) ∧
  (∀ s m r t, s.fabric.msgs = m :: r → teamOf s m.team = some t →
    let S := { s with fabric := { s.fabric with msgs := r } }
    (m.req = .store → (∀ b, podAnswer s 0 (.done b) = S) ∧
      (∀ i, podAnswer s 0 (.perm i) = classS S m.team 0x11 0 i m.pc m.lanes (some m.va)) ∧
      podAnswer s 0 .tail = classS S m.team 0x12 0 0 m.pc m.lanes (some m.va)) ∧
    (∀ sd va b, m.req = .acc (.sld sd va) [] → b.length = 8 → 1 ≤ sd → sd < 32 → t.scalars.length = 32 →
      (∃ u, teamOf (podAnswer s 0 (.data b false)) m.team = some u ∧ getS u (BitVec.ofNat 5 sd) = BitVec.ofNat 64 (leNat b) ∧
        u.scalarPend = t.scalarPend.erase sd) ∧
      podAnswer s 0 (.data b true) = poisonKill S t 0x21 m.pc [fabricPoison t.tag] (some m.va)) ∧
    (∀ refused, m.req = .packet → ∃ u, teamOf (podAnswer s 0 (.done refused)) m.team = some u ∧
      u.cc = fBit t.cc (refused = true) ∧ ∀ f, fragOf t m.frag = some f → f.st = .parked → f.wait = some .packet →
        fragOf u m.frag = some { f with st := .ready, wait := none })) ∧
  (∀ s fn, Canonical s → let w : Word := tabGet 0 s.fabric.hbar2 fn
    fn < 64 →
    (w.getLsbD 31 = false → ∀ off op n v, exec (.hostAccess fn off op) s = .next s ∧ exec (.rdmaCompletion fn n v) s = .next s) ∧
    (w.getLsbD 31 = true → ∀ off b pa e, off < 2 ^ 40 → b ≠ [] → off % 64 + b.length ≤ 64 →
      translateWalk s (w.setWidth 12) (BitVec.ofNat 64 off) .write = .ok pa e → pa < Config.hbmEnd → pa % 64 = off % 64 →
      ∃ s', exec (.hostAccess fn off (.write b)) s = .next s' ∧ (∀ k, k < b.length → Memory.get s'.mem (pa + k) = b.getD k 0) ∧
        ∀ a, (a < pa ∨ pa + b.length ≤ a) → Memory.get s'.mem a = Memory.get s.mem a) ∧
    (w.getLsbD 31 = true → ∀ off b, 2 ^ 40 < off + b.length → exec (.hostAccess fn off (.write b)) s = .next s) ∧
    (w.getLsbD 31 = true → ∀ off b pa e, off + b.length ≤ 2 ^ 40 → 64 < off % 64 + b.length → off % 64 + b.length ≤ 128 →
      translateWalk s (w.setWidth 12) (BitVec.ofNat 64 off) .write = .ok pa e → pa < Config.hbmEnd →
      let next := translateWalk s (w.setWidth 12) (BitVec.ofNat 64 (off + (64 - off % 64))) .write
      (∀ p x, next ≠ .ok p x) → (∀ r o, next ≠ .zero r o) → exec (.hostAccess fn off (.write b)) s = .next s) ∧
    (w.getLsbD 31 = true → ∀ n (v : DWord), 4096 ≤ n → n < 8192 → counterOwner s n = some (w.setWidth 12) →
      ∃ s', exec (.rdmaCompletion fn n v) s = .next s' ∧ (counter s' n).toNat = max (counter s n).toNat v.toNat ∧ s'.mem = s.mem)) ∧
  (∀ s (v : DWord), let does := fun (pa : Nat) (i : Instr) => ∃ s', exec (.registerWrite pa v) s = .next s' ∧ exec i s = .next s'
    (∀ pa, ∃ s', exec (.registerWrite pa v) s = .next s' ∧ (pa % 4 ≠ 0 ∨ pa / 8 * 8 < regBase → s' = s)) ∧
    (∀ q, q < 256 → does (hubBase + 0x1000 + 16 * q) (.qcfgWrite q (lo32 v))) ∧
    (∀ d, d < 4 → does (dieBase + 0x100000 * d) (.dqmapWrite d v) ∧ does (dieBase + 0x100000 * d + 8) (.xinvWrite d v) ∧
      does (dieBase + 0x100000 * d + 0x30) (.deinjWrite d v)) ∧
    does (hubBase + 0x18) (.pbudgetWrite (lo32 v)) ∧ does (hubBase + 0x30) (.actcfgWrite (lo32 v)) ∧ does (hubBase + 0x80) (.sscfgWrite v) ∧
    (∀ c, c < 224 → does (regBase + 0x1000 * c + 8) (.cstateWrite c (lo32 v))) ∧
    (∀ n, n < 64 → does (hubBase + 0x2000 + 32 * n) (.poolctlWrite n v)) ∧
    (∀ n, n < 16 → does (hubBase + 0xA100 + 16 * n) (.pbcfgWrite n v)) ∧
    exec (.registerWrite (hubBase + 0xA000) v) s = .next { s with fabric := { s.fabric with fpod := v &&& 0x800000000000FFFF } } ∧
    ∀ n, n < 256 → exec (.registerWrite (hubBase + 0x4000 + 64 * n + 32) v) s = .next (setSlot s n { getSlot s n with
      term := v &&& 0x00000FFFFFFFFFC0 }))

/-- Benches (R403 to R412): a halt, a broadcast or a comparator that hits freezes a bench with its cause, and a halt or a hit stops the
context, resumably; a freeze with BCAST set calls the context's other benches, and a call freezes a bench that still holds teams of it; a
frozen bench stays as it is; only a tag-0 team claims a bench; a sample is made once the period's pulses have passed, waits among 64
records at most, and goes to the ring in memory. The model's choices that it rests on: log entry 38. -/
def Obligations.BenchEvents : Prop :=
  ∀ s c b, c < 224 → b < 4 → Quiet s → Canonical s → b < (getCore s c).benches.length →
    let x := getBench s c b
    let cause := fun (n slot comp : Nat) => BitVec.ofNat 64 (n * 2 ^ 56 + slot * 2 ^ 52 + comp * 2 ^ 49 + s.gtime.toNat % 2 ^ 48)
    let stops := fun (s' : State) => s'.mem = s.mem ∧ ∀ n, (getCore s c).cowner.getLsbD 31 = true →
      ContextAt s n ((getCore s c).cowner.setWidth 12) → (getSlot s n).st = 2 → (getSlot s' n).st = 3 ∧ (getSlot s' n).fatal = false
    (x.bctl.getLsbD 0 = true → exec (.benchHalt c b) s = .next s) ∧
    (x.bctl.getLsbD 0 = false → ∃ s', exec (.benchHalt c b) s = .next s' ∧ (getBench s' c b).bctl = x.bctl ||| 1 ∧
      (getBench s' c b).bfreeze = cause 3 0 0 ∧ stops s' ∧
      (x.bctl.getLsbD 2 = true → (getCore s c).cowner.getLsbD 31 = true → ∀ t ∈ s.teams, t.tag = (getCore s c).cowner.setWidth 12 → ¬ (t.core = c ∧ t.bench = b) →
        t.bench < (getCore s t.core).benches.length → (getBench s' t.core t.bench).called = some t.tag) ∧
      (x.bctl.getLsbD 2 = false ∨ (getCore s c).cowner.getLsbD 31 = false → ∀ k j, (getBench s' k j).called = (getBench s k j).called)) ∧
    (∀ t, teamOf s t.uid = some t → x.claimant = none →
      (t.tag = 0 → ∃ s', exec (.benchClaim c b t.uid) s = .next s' ∧ (getBench s' c b).claimant = some t.uid) ∧
      (t.tag ≠ 0 → ∃ s', exec (.benchClaim c b t.uid) s = .next s' ∧ (getBench s' c b).claimant = none)) ∧
    (x.called = none → exec (.haltBroadcast c b) s = .next s) ∧
    (∀ tag, x.called = some tag → let S := setBench s c b { x with called := none }
      ((x.bctl.getLsbD 0 = true ∨ ∀ t ∈ s.teams, ¬ (t.core = c ∧ t.bench = b ∧ t.tag = tag)) → exec (.haltBroadcast c b) s = .next S) ∧
      (x.bctl.getLsbD 0 = false → (∃ t ∈ s.teams, t.core = c ∧ t.bench = b ∧ t.tag = tag) →
        ∃ s', exec (.haltBroadcast c b) s = .next s' ∧ (getBench s' c b).bctl.getLsbD 0 = true ∧ (getBench s' c b).bfreeze = cause 4 0 0 ∧
          (getBench s' c b).called = none ∧ s'.hub.slots = s.hub.slots)) ∧
    (∀ t k, teamOf s t.uid = some t → t.core = c → t.bench = b → t.slot < 16 → hitOf s t = some k →
      (mayIssue s t = false → exec (.comparatorHit t.uid k) s = .next s) ∧
      (x.bctl.getLsbD 0 = false → mayIssue s t = true → ∃ s', exec (.comparatorHit t.uid k) s = .next s' ∧ (getBench s' c b).bctl.getLsbD 0 = true ∧
        (getBench s' c b).bfreeze = cause 2 t.slot k ∧ stops s') ∧
      ∀ j, j ≠ k → exec (.comparatorHit t.uid j) s = .next s) ∧
    (let period := x.bsample.toNat % 2 ^ 32
      let size := fld x.btrace 56 5
      (period = 0 ∨ x.pulses < period → exec (.benchSample c b) s = .next s) ∧
      (period ≠ 0 → period ≤ x.pulses → 6 ≤ size → size ≤ 24 →
        (x.recs.length < 64 → ∃ s' r, exec (.benchSample c b) s = .next s' ∧ s'.mem = s.mem ∧
          getBench s' c b = { x with pulses := x.pulses - period, recs := x.recs ++ [r] } ∧ r.length = 32 ∧ r.getD 0 0 = 1 ∧
          leNat ((r.drop 16).take 8) = s.gtime.toNat ∧
          ((∀ t ∈ s.teams, ¬ (t.core = c ∧ t.bench = b)) → r.getD 1 0 = 0xFF) ∧
          ∀ t ∈ s.teams, t.core = c → t.bench = b → (∀ u ∈ s.teams, u.core = c → u.bench = b → u = t) →
            r.getD 1 0 = BitVec.ofNat 8 t.slot ∧ leNat ((r.drop 4).take 2) = t.tag.toNat) ∧
        (64 ≤ x.recs.length → fld x.btrptr 32 32 ≠ 0xFFFFFFFF → ∃ s', exec (.benchSample c b) s = .next s' ∧ s'.mem = s.mem ∧
          getBench s' c b = { x with pulses := x.pulses - period, btrptr := x.btrptr + 0x100000000 })) ∧
      ∀ r rest, x.recs = r :: rest → r.length = 32 → 6 ≤ size → size ≤ 24 →
        let pa := fld x.btrace 6 38 * 64 + fld x.btrptr 0 32 % 2 ^ size * 32
        let S := recordOut s c b
        (getBench S c b).recs = rest ∧ fld (getBench S c b).btrptr 0 32 = (fld x.btrptr 0 32 + 1) % 2 ^ 32 ∧
          (∀ i, i < 32 → Memory.get S.mem (pa + i) = r.getD i 0) ∧
          ∀ a, (a < pa ∨ pa + 32 ≤ a) → Memory.get S.mem a = Memory.get s.mem a)

/-- A step runs the instruction that the bytes at the PC decode to (R42, R60, R81, R84, R283): where the machine turns to a team, whose
fragment by R81 fetches, and the power scheduler does not withhold the instruction, the step is exec of the decoded instruction, or the
ILLOP trap of a pattern that is none, with the team as the current one; the launch's first issue is noted once the quad has been charged.
The model's choices that it rests on: log entries 8, 36. -/
def Obligations.StepRunsDecoded : Prop :=
  ∀ s uid t0 S t f S', (nextChoice (settle s)).1 = .issue uid → teamOf (started s) uid = some t0 → mayIssue (started s) t0 = true →
    Chosen (started s) t0 S f → teamOf S uid = some t → Fetches S t f S' →
    let S1 := { S' with cur := some t.uid }
    (∀ i n, decode (parcelsAt S' t f.pc) = .ok i n → withheldNow S' t f i = false →
      step s = runInstr i t.uid S1 ∧ ∀ s', exec i S1 = .next s' → step s = .next (noteIssue S1 t.uid s')) ∧
    (∀ i n, decode (parcelsAt S' t f.pc) = .ok i n → withheldNow S' t f i = true → step s = .next S') ∧
    (∀ raw c n, decode (parcelsAt S' t f.pc) = .illegal raw c n →
      step s = execIllop raw.form (illopCause S1 t.uid raw c).code (BitVec.ofNat 16 raw.first) (BitVec.ofNat 16 raw.arg) (BitVec.ofNat 32 raw.f32) n S1 ∧
        (c ≠ .laNotLL → illopCause S1 t.uid raw c = c))

/-- Words written out from the encoding tables decode to the instructions they stand for (R42 to R47, R52 to R59): one of each format,
with a window, a scale, a condition, an offset and scalars; and of the 256 parcels with op7 0 only 0x0000 is BRKZ. The model's choices
that it rests on: log entry 11. -/
def Obligations.SpecWordsDecode : Prop :=
  decode [0x4522] = .ok (.fdiv 2 .rz) 1 ∧
  decode [0x9034, 0x0043] = .ok (.ldW 3 .w32 2 3) 2 ∧
  decode [0xD004, 0x0043, 0x0040, 0x0000] = .ok (.ldL 0 .w32 2 3 64) 4 ∧
  decode [0x840B, 0x000A] = .ok (.brcW .mz 10) 2 ∧
  decode [0xC700, 0x000A, 0x000A, 0x0000] = .ok (.loop 10 10) 4 ∧
  decode [0x8102, 0x1864] = .ok (.ssub 6 4 3) 2 ∧
  decode [0x3E02] = .ok (.cmp .lt) 1 ∧ decode [0x3F0A] = .ok (.fcmp .un) 1 ∧
  decode [0x7F12] = .illegal ⟨0, 0x7F12, 0x12, 0⟩ .emulation 1 ∧
  ∀ k : BitVec 8, decode [BitVec.ofNat 16 k.toNat] = (if k = 0 then .ok .brkz 1 else .illegal ⟨0, k.toNat, k.toNat, 0⟩ .mustBeZero 1)

/-- Decoding an encoded instruction gives it back with its length, whatever follows it: every encoded instruction with every operand that
its encoding admits (R42 to R56). Each pattern that decodes stands for one instruction and is its encoding: no bit of it is left out (R42,
R57). The model's choices that it rests on: log entry 11. -/
def Obligations.EncodingAgrees : Prop :=
  (∀ (i : Instr) (rest : List Parcel), i.encoded = true → WellFormed i = true → decode (encode i ++ rest) = .ok i (encode i).length) ∧
  (∀ (ps : List Parcel) (i : Instr) (n : Nat), decode ps = .ok i n →
    i.encoded = true ∧ WellFormed i = true ∧ n = (encode i).length ∧ encode i = ps.take n)

/-- Every step answers a next state: no state stops the machine. The model's choices that it rests on: log entry 8. -/
def Obligations.StepAnswersNext : Prop :=
  ∀ s, ∃ s', step s = .next s'

/-- What reset leaves where the rules give a value (R282, R313, R341, R354, R370, R374, R403, R422): and every memory in its canonical
form. -/
def Obligations.ResetState : Prop :=
  Canonical State.reset ∧ State.reset.hub.pbudget = 0xC80 ∧ State.reset.hub.actcfg = 0x3E8 ∧ State.reset.hub.pstep = 0 ∧
  State.reset.hub.bootState = 0 ∧ State.reset.teams = [] ∧ State.reset.hub.launches = [] ∧ State.reset.hub.store.cfg = 0 ∧
  (∀ d, (getDie State.reset d).dqmap = 0x00FCBA9876543210 ∧ (getDie State.reset d).xinv = 0x8000000000000000 ∧
    (getDie State.reset d).deinj = 0 ∧ (getDie State.reset d).owners = []) ∧
  (∀ c b, (getBench State.reset c b).bctl = 4 ∧ (getBench State.reset c b).bfreeze = 0) ∧
  (∀ n, (getSlot State.reset n).cxctl = 0 ∧ (getSlot State.reset n).st = 0) ∧ ∀ q, (getQueue State.reset q).cfg = 0

/-- Every step keeps every memory in its canonical form: addresses ascend, and no byte is listed that an unlisted address reads as. The
model's choices that it rests on: log entries 2, 4. -/
def Obligations.CanonicalKept : Prop :=
  ∀ s s', Canonical s → step s = .next s' → Canonical s'
end

