-- ==== Sys2Proof/Laws/Issue.lean ====
section
/-! SUPPORT. Issuing an instruction: when the checks pass, and what issue then comes to. -/

namespace Sys2Proof.Machine

theorem need_true {b : Bool} {e : Stop} (h : b = true) : need b e = .ok () := by simp [need, h]

/-- The checks pass when nothing keeps the instruction from issuing. -/
theorem checks_ok {s : State} {t : Team} {f : Frag} {sh : Shape} (h : Clear s t f sh) : checks s t f sh = .ok () := by
  obtain ⟨h1, h2, h3, h4, h5, h6, h7, h8, h9, h10⟩ := h
  have hloc : (sh.locals.flatMap fun k => t.pendingLoc f k) = [] := by
    rw [List.flatMap_eq_nil_iff]; intro k hk
    simpa using List.all_eq_true.mp h4 k hk
  have hsc : (sh.scalars.find? fun r => t.scalarPend.contains r.toNat) = none := by
    rw [List.find?_eq_none]; intro k hk
    simpa using List.all_eq_true.mp h5 k hk
  have hps : (if sh.moves then [] else t.poisonIn f sh.pops) = [] := by
    rcases h7 with h | h <;> simp [h]
  unfold checks
  simp only [hloc, hsc, hps, List.append_nil, h8, h9, h10]
  have hany : ((t.pendingTop f sh.pops).any fun e => e.frag == f.num && decide (0 < e.window)) = false := by
    rw [List.any_eq_false]; intro e he
    have := List.all_eq_true.mp h3 e he
    simp only [Bool.and_eq_true, Bool.not_eq_true'] at this
    simp [this.2]
  have hp : (if sh.retarget then [] else t.pendingTop f sh.pops) = [] := by
    cases hr : sh.retarget
    · have : t.pendingTop f sh.pops = [] := by
        rw [List.eq_nil_iff_forall_not_mem]; intro e he
        have := List.all_eq_true.mp h3 e he
        simp [hr] at this
      simpa using this
    · rfl
  rw [hp, hany, need_true (by simpa using h1), need_true (by simpa using h2)]
  cases hreg : t.region with
  | none => simp [need]; rfl
  | some r =>
    simp only [regionAllows, hreg, Option.all_some, Bool.and_eq_true, Bool.not_eq_true'] at h6
    obtain ⟨⟨a, b⟩, c⟩ := h6
    simp only [need, a, b, c, Bool.not_false, if_true]
    rfl

/-- An instruction that nothing keeps from issuing comes to its own effect on the state in which it has issued. -/
theorem issue_clear {i : Instr} {s : State} {t : Team} {f : Frag} {sh : Shape} {limits : Team → Run Unit}
    {body : State → Team → Frag → Run State} (hr : Runs s t f) (hc : Clear s t f sh) (hl : limits t = .ok ()) :
    issue i sh limits body s = match body (issued i s t f sh) t f with
      | .ok s' => .next (if sh.steps then leave s' t.uid f (bytesOf i) else s')
      | .error e => .next (raise s i t f (bytesOf i) e) := by
  obtain ⟨h1, h2, h3, h4⟩ := hr
  unfold issue
  rw [h1]
  simp only [Option.bind_some, h2, h3, hl, checks_ok hc]
  rfl

end Sys2Proof.Machine
end

