-- ==== Sys2Proof/Laws/Memory.lean ====
section
/-! SUPPORT. Byte memories and tables: every operation keeps the canonical form; reading after writing. -/

namespace Sys2Proof.Machine

/-- The bound of a canonical memory may be lowered. -/
theorem Memory.above_mono {m : List Host.Cell} {lo lo' : Nat} (h : lo' ≤ lo) (hm : Memory.above lo m = true) :
    Memory.above lo' m = true := by
  cases m with
  | nil => rfl
  | cons c r =>
    obtain ⟨k, v⟩ := c
    simp only [Memory.above, Bool.and_eq_true, decide_eq_true_eq] at *
    exact ⟨⟨by omega, hm.1.2⟩, hm.2⟩

/-- What lies below the bound reads as an unlisted address. -/
theorem Memory.get_below {m : List Host.Cell} {lo a : Nat} (hm : Memory.above lo m = true) (h : a < lo) :
    Memory.get m a = Memory.dflt := by
  cases m with
  | nil => rfl
  | cons c r =>
    obtain ⟨k, v⟩ := c
    simp only [Memory.above, Bool.and_eq_true, decide_eq_true_eq] at hm
    have h1 : k ≠ a := by omega
    have h2 : a < k := by omega
    simp [Memory.get, h1, h2]

/-- One byte written keeps the form above a bound that the byte respects. -/
theorem Memory.above_set {m : List Host.Cell} {lo a : Nat} {b : Byte} (hm : Memory.above lo m = true) (h : lo ≤ a) :
    Memory.above lo (Memory.set m a b) = true := by
  induction m generalizing lo with
  | nil => unfold Memory.set; split <;> simp_all [Memory.above]
  | cons c r ih =>
    obtain ⟨k, v⟩ := c
    simp only [Memory.above, Bool.and_eq_true, decide_eq_true_eq] at hm
    obtain ⟨⟨h1, h2⟩, h3⟩ := hm
    unfold Memory.set
    split
    · split
      · simp [Memory.above, h1, h2, h3]
      · simp only [Memory.above, Bool.and_eq_true, decide_eq_true_eq]; exact ⟨⟨h, by assumption⟩, ⟨by omega, h2⟩, h3⟩
    · split
      · subst a
        split
        · exact Memory.above_mono (by omega) h3
        · simp only [Memory.above, Bool.and_eq_true, decide_eq_true_eq]; exact ⟨⟨h, by assumption⟩, h3⟩
      · simp only [Memory.above, Bool.and_eq_true, decide_eq_true_eq]; exact ⟨⟨h1, h2⟩, ih h3 (by omega)⟩

/-- One byte written keeps the canonical form. -/
theorem Memory.wf_set {m : List Host.Cell} (hm : Memory.wf m = true) (a : Nat) (b : Byte) : Memory.wf (Memory.set m a b) = true :=
  Memory.above_set hm (Nat.zero_le a)

/-- Bytes written keep the canonical form. -/
theorem Memory.wf_write {m : List Host.Cell} (hm : Memory.wf m = true) (a : Nat) (l : List Byte) :
    Memory.wf (Memory.write m a l) = true := by
  induction l generalizing m a with
  | nil => exact hm
  | cons b bs ih => exact ih (Memory.wf_set hm a b) (a + 1)

/-- Entries filtered keep the form. -/
theorem Memory.above_filter {m : List Host.Cell} {lo : Nat} (p : Host.Cell → Bool) (hm : Memory.above lo m = true) :
    Memory.above lo (m.filter p) = true := by
  induction m generalizing lo with
  | nil => rfl
  | cons c r ih =>
    obtain ⟨k, v⟩ := c
    simp only [Memory.above, Bool.and_eq_true, decide_eq_true_eq] at hm
    rw [List.filter_cons]
    split
    · simp only [Memory.above, Bool.and_eq_true, decide_eq_true_eq]; exact ⟨hm.1, ih hm.2⟩
    · exact Memory.above_mono (by omega) (ih hm.2)

/-- A range cleared keeps the canonical form. -/
theorem Memory.wf_clear {m : List Host.Cell} (hm : Memory.wf m = true) (lo hi : Nat) : Memory.wf (Memory.clear m lo hi) = true :=
  Memory.above_filter _ hm

/-- Two memories one above the other are one memory. -/
theorem Memory.above_append {m n : List Host.Cell} {lo hi : Nat} (hm : Memory.above lo m = true) (hlt : ∀ c ∈ m, c.1 < hi)
    (hlo : lo ≤ hi) (hn : Memory.above hi n = true) : Memory.above lo (m ++ n) = true := by
  induction m generalizing lo with
  | nil => exact Memory.above_mono hlo hn
  | cons c r ih =>
    obtain ⟨k, v⟩ := c
    simp only [Memory.above, Bool.and_eq_true, decide_eq_true_eq, List.cons_append] at *
    have := hlt (k, v) (by simp)
    exact ⟨hm.1, ih hm.2 (fun c hc => hlt c (by simp [hc])) (by omega)⟩

/-- The entries of bytes from a on are a memory from a on. -/
theorem Memory.above_cells (a : Nat) (l : List Byte) : Memory.above a (Memory.cells a l) = true := by
  induction l generalizing a with
  | nil => rfl
  | cons b bs ih =>
    unfold Memory.cells
    split
    · exact Memory.above_mono (by omega) (ih (a + 1))
    · simp only [Memory.above, Bool.and_eq_true, decide_eq_true_eq]; exact ⟨⟨Nat.le_refl a, by assumption⟩, ih (a + 1)⟩

/-- Their addresses lie below the end of the bytes. -/
theorem Memory.cells_lt {a : Nat} {l : List Byte} {c : Host.Cell} (h : c ∈ Memory.cells a l) : a ≤ c.1 ∧ c.1 < a + l.length := by
  induction l generalizing a with
  | nil => simp [Memory.cells] at h
  | cons b bs ih =>
    unfold Memory.cells at h
    split at h
    · have := ih h; simp only [List.length_cons]; omega
    · rcases List.mem_cons.mp h with rfl | h
      · simp
      · have := ih h; simp only [List.length_cons]; omega

/-- What lies at or above a bound, filtered, is a memory from that bound on. -/
theorem Memory.above_from {m : List Host.Cell} {lo hi : Nat} (hm : Memory.above lo m = true) :
    Memory.above hi (m.filter fun c => decide (hi ≤ c.1)) = true := by
  induction m generalizing lo with
  | nil => rfl
  | cons c r ih =>
    obtain ⟨k, v⟩ := c
    simp only [Memory.above, Bool.and_eq_true, decide_eq_true_eq] at hm
    rw [List.filter_cons]
    split
    · rename_i h
      simp only [decide_eq_true_eq] at h
      simp only [Memory.above, Bool.and_eq_true, decide_eq_true_eq]; exact ⟨⟨h, hm.1.2⟩, Memory.above_filter _ hm.2⟩
    · exact ih hm.2

/-- Bytes spliced in keep the canonical form. -/
theorem Memory.wf_splice {m : List Host.Cell} (hm : Memory.wf m = true) (a : Nat) (l : List Byte) :
    Memory.wf (Memory.splice m a l) = true := by
  unfold Memory.splice Memory.wf
  rw [List.append_assoc]
  refine Memory.above_append (hi := a) (Memory.above_filter _ hm) ?_ (Nat.zero_le a) ?_
  · intro c hc; simpa using (List.mem_filter.mp hc).2
  · refine Memory.above_append (hi := a + l.length) (Memory.above_cells a l) (fun c hc => (Memory.cells_lt hc).2) (by omega) ?_
    exact Memory.above_from hm

/-- A byte written reads back. -/
theorem Memory.get_set_self {m : List Host.Cell} {lo a : Nat} {b : Byte} (hm : Memory.above lo m = true) :
    Memory.get (Memory.set m a b) a = b := by
  induction m generalizing lo with
  | nil => unfold Memory.set; split <;> simp_all [Memory.get]
  | cons c r ih =>
    obtain ⟨k, v⟩ := c
    simp only [Memory.above, Bool.and_eq_true, decide_eq_true_eq] at hm
    unfold Memory.set
    split
    · have h1 : k ≠ a := by omega
      split
      · simp_all [Memory.get]
      · simp [Memory.get]
    · split
      · subst a
        split
        · rename_i h; rw [Memory.get_below hm.2 (by omega), h]
        · simp [Memory.get]
      · have h1 : k ≠ a := by omega
        have h2 : ¬ a < k := by omega
        simp [Memory.get, h1, h2, ih hm.2]

/-- Every other byte reads as before. -/
theorem Memory.get_set_other {m : List Host.Cell} {lo a x : Nat} {b : Byte} (hm : Memory.above lo m = true) (hx : x ≠ a) :
    Memory.get (Memory.set m a b) x = Memory.get m x := by
  induction m generalizing lo with
  | nil =>
    have : a ≠ x := fun e => hx e.symm
    unfold Memory.set; split <;> simp [Memory.get, this]
  | cons c r ih =>
    obtain ⟨k, v⟩ := c
    simp only [Memory.above, Bool.and_eq_true, decide_eq_true_eq] at hm
    have hax : a ≠ x := fun e => hx e.symm
    unfold Memory.set
    split
    · rename_i hak
      split
      · rfl
      · by_cases hxa : x < a
        · have h1 : k ≠ x := by omega
          have h2 : x < k := by omega
          simp [Memory.get, hax, hxa, h1, h2]
        · rw [Memory.get]; simp only [hax, if_false, hxa]
    · split
      · subst a
        split
        · by_cases hxk : x < k
          · rw [Memory.get_below hm.2 (by omega)]; simp [Memory.get, hax, hxk]
          · simp [Memory.get, hax, hxk]
        · simp [Memory.get, hax]
      · by_cases h1 : k = x
        · simp [Memory.get, h1]
        · simp [Memory.get, h1, ih hm.2]

/-- The read of a byte after a write of one byte. -/
theorem Memory.get_set {m : List Host.Cell} (hm : Memory.wf m = true) (a x : Nat) (b : Byte) :
    Memory.get (Memory.set m a b) x = if x = a then b else Memory.get m x := by
  split
  · rename_i h; subst h; exact Memory.get_set_self hm
  · rename_i h; exact Memory.get_set_other hm h

/-- The read of a byte after a write of several. -/
theorem Memory.get_write {m : List Host.Cell} (hm : Memory.wf m = true) (a x : Nat) (l : List Byte) :
    Memory.get (Memory.write m a l) x = if a ≤ x ∧ x < a + l.length then l.getD (x - a) 0 else Memory.get m x := by
  induction l generalizing m a with
  | nil =>
    have : ¬ (a ≤ x ∧ x < a + ([] : List Byte).length) := by simp
    rw [if_neg this]; rfl
  | cons b bs ih =>
    rw [Memory.write, ih (Memory.wf_set hm a b), Memory.get_set hm]
    by_cases h : x = a
    · subst h
      have h1 : ¬ (x + 1 ≤ x ∧ x < x + 1 + bs.length) := by omega
      have h2 : x ≤ x ∧ x < x + (b :: bs).length := by simp
      rw [if_neg h1, if_pos rfl, if_pos h2]; simp
    · rw [if_neg h]
      by_cases h1 : a + 1 ≤ x ∧ x < a + 1 + bs.length
      · have h2 : a ≤ x ∧ x < a + (b :: bs).length := by simp only [List.length_cons]; omega
        obtain ⟨n, hn⟩ : ∃ n, x - a = n + 1 := ⟨x - a - 1, by omega⟩
        have hn' : x - (a + 1) = n := by omega
        rw [if_pos h1, if_pos h2, hn, hn']; simp
      · have h2 : ¬ (a ≤ x ∧ x < a + (b :: bs).length) := by simp only [List.length_cons]; omega
        rw [if_neg h1, if_neg h2]

/-- A filtered memory: what passes reads as before, what does not reads as unlisted. -/
theorem Memory.get_filter {m : List Host.Cell} {lo x : Nat} (p : Nat → Bool) (hm : Memory.above lo m = true) :
    Memory.get (m.filter fun c => p c.1) x = if p x then Memory.get m x else Memory.dflt := by
  induction m generalizing lo with
  | nil => simp [Memory.get]
  | cons c r ih =>
    obtain ⟨k, v⟩ := c
    simp only [Memory.above, Bool.and_eq_true, decide_eq_true_eq] at hm
    rw [List.filter_cons]
    by_cases hk : p k = true
    · simp only [hk, if_true]
      rw [Memory.get, Memory.get]
      by_cases h1 : k = x
      · subst h1; simp [hk]
      · simp only [h1, if_false]
        by_cases h2 : x < k
        · simp [h2]
        · simp only [h2, if_false]; exact ih hm.2
    · simp only [hk, if_false]
      rw [if_neg (by simpa using hk), ih hm.2]
      by_cases h1 : k = x
      · subst h1; simp [hk]
      · by_cases h2 : x < k
        · rw [Memory.get_below hm.2 (by omega), Memory.get, if_neg h1, if_pos h2]
        · rw [Memory.get, if_neg h1, if_neg h2]

/-- A range cleared reads as unlisted, every other byte as before. -/
theorem Memory.get_clear {m : List Host.Cell} (hm : Memory.wf m = true) (lo hi x : Nat) :
    Memory.get (Memory.clear m lo hi) x = if lo ≤ x ∧ x < hi then Memory.dflt else Memory.get m x := by
  have := Memory.get_filter (x := x) (fun a => decide (a < lo) || decide (hi ≤ a)) hm
  unfold Memory.clear
  rw [this]
  by_cases h : lo ≤ x ∧ x < hi
  · have h1 : ¬ x < lo := by omega
    have h2 : ¬ hi ≤ x := by omega
    simp [h, h1, h2]
  · have h1 : x < lo ∨ hi ≤ x := by omega
    rw [if_neg h, if_pos (by simpa using h1)]

/-- Every memory is in its canonical form at reset. -/
theorem reset_canonical : Canonical State.reset := by
  refine ⟨rfl, ?_, ?_⟩ <;> intro x hx <;> cases hx

/-- A table entry set reads back, the others as before; whatever the order of the table's keys. -/
theorem tabGet_tabSet {α : Type} (dflt : α) (t : Tab α) (n k : Nat) (x : α) :
    tabGet dflt (tabSet t n x) k = if k = n then x else tabGet dflt t k := by
  induction t with
  | nil =>
    by_cases h : k = n
    · simp [tabSet, tabGet, h]
    · have : n ≠ k := fun e => h e.symm
      simp [tabSet, tabGet, h, this]
  | cons c r ih =>
    obtain ⟨m, v⟩ := c
    unfold tabSet
    split
    · subst m
      by_cases h : k = n
      · simp [tabGet, h]
      · have : n ≠ k := fun e => h e.symm
        simp [tabGet, h, this]
    · split
      · by_cases h : k = n
        · simp [tabGet, h]
        · have : n ≠ k := fun e => h e.symm
          rw [tabGet, if_neg this, if_neg h]
      · rw [tabGet, tabGet, ih]
        by_cases h : m = k
        · have : k ≠ n := by omega
          simp [h, this]
        · simp [h]

/-- Element n of a list set, where it has one. -/
theorem getElem?_listSet {α : Type} (l : List α) (n k : Nat) (x : α) :
    (listSet l n x)[k]? = if k = n ∧ n < l.length then some x else l[k]? := by
  induction l generalizing n k with
  | nil => simp [listSet]
  | cons y r ih =>
    cases n with
    | zero => cases k <;> simp [listSet]
    | succ n =>
      cases k with
      | zero => simp [listSet]
      | succ k => simp [listSet, ih]

/-- A list keeps its length when an element is set. -/
theorem length_listSet {α : Type} (l : List α) (n : Nat) (x : α) : (listSet l n x).length = l.length := by
  induction l generalizing n with
  | nil => rfl
  | cons y r ih => cases n <;> simp [listSet, ih]

end Sys2Proof.Machine
end

