-- ==== Sys2Proof/Laws/State.lean ====
section
/-! SUPPORT. What each update of the state, the hub and a team leaves alone, field by field, and what an access reads after it. -/

namespace Sys2Proof.Machine

@[simp] theorem setTeam_agenda (s : State) (t : Team) : (setTeam s t).agenda = s.agenda := rfl
@[simp] theorem setTeam_free (s : State) (t : Team) : (setTeam s t).free = s.free := rfl
@[simp] theorem setTeam_cur (s : State) (t : Team) : (setTeam s t).cur = s.cur := rfl
@[simp] theorem setTeam_regq (s : State) (t : Team) : (setTeam s t).regq = s.regq := rfl
@[simp] theorem setTeam_gtime (s : State) (t : Team) : (setTeam s t).gtime = s.gtime := rfl
@[simp] theorem setTeam_cores (s : State) (t : Team) : (setTeam s t).cores = s.cores := rfl
@[simp] theorem setTeam_quads (s : State) (t : Team) : (setTeam s t).quads = s.quads := rfl
@[simp] theorem setTeam_dies (s : State) (t : Team) : (setTeam s t).dies = s.dies := rfl
@[simp] theorem setTeam_mem (s : State) (t : Team) : (setTeam s t).mem = s.mem := rfl
@[simp] theorem setTeam_hub (s : State) (t : Team) : (setTeam s t).hub = s.hub := rfl
@[simp] theorem setTeam_fabric (s : State) (t : Team) : (setTeam s t).fabric = s.fabric := rfl

@[simp] theorem modTeam_agenda (s : State) (uid : Nat) (g : Team → Team) : (modTeam s uid g).agenda = s.agenda := rfl
@[simp] theorem modTeam_free (s : State) (uid : Nat) (g : Team → Team) : (modTeam s uid g).free = s.free := rfl
@[simp] theorem modTeam_cur (s : State) (uid : Nat) (g : Team → Team) : (modTeam s uid g).cur = s.cur := rfl
@[simp] theorem modTeam_regq (s : State) (uid : Nat) (g : Team → Team) : (modTeam s uid g).regq = s.regq := rfl
@[simp] theorem modTeam_gtime (s : State) (uid : Nat) (g : Team → Team) : (modTeam s uid g).gtime = s.gtime := rfl
@[simp] theorem modTeam_cores (s : State) (uid : Nat) (g : Team → Team) : (modTeam s uid g).cores = s.cores := rfl
@[simp] theorem modTeam_quads (s : State) (uid : Nat) (g : Team → Team) : (modTeam s uid g).quads = s.quads := rfl
@[simp] theorem modTeam_dies (s : State) (uid : Nat) (g : Team → Team) : (modTeam s uid g).dies = s.dies := rfl
@[simp] theorem modTeam_mem (s : State) (uid : Nat) (g : Team → Team) : (modTeam s uid g).mem = s.mem := rfl
@[simp] theorem modTeam_hub (s : State) (uid : Nat) (g : Team → Team) : (modTeam s uid g).hub = s.hub := rfl
@[simp] theorem modTeam_fabric (s : State) (uid : Nat) (g : Team → Team) : (modTeam s uid g).fabric = s.fabric := rfl

@[simp] theorem setCore_agenda (s : State) (c : Nat) (x : Core) : (setCore s c x).agenda = s.agenda := rfl
@[simp] theorem setCore_free (s : State) (c : Nat) (x : Core) : (setCore s c x).free = s.free := rfl
@[simp] theorem setCore_cur (s : State) (c : Nat) (x : Core) : (setCore s c x).cur = s.cur := rfl
@[simp] theorem setCore_regq (s : State) (c : Nat) (x : Core) : (setCore s c x).regq = s.regq := rfl
@[simp] theorem setCore_gtime (s : State) (c : Nat) (x : Core) : (setCore s c x).gtime = s.gtime := rfl
@[simp] theorem setCore_teams (s : State) (c : Nat) (x : Core) : (setCore s c x).teams = s.teams := rfl
@[simp] theorem setCore_quads (s : State) (c : Nat) (x : Core) : (setCore s c x).quads = s.quads := rfl
@[simp] theorem setCore_dies (s : State) (c : Nat) (x : Core) : (setCore s c x).dies = s.dies := rfl
@[simp] theorem setCore_mem (s : State) (c : Nat) (x : Core) : (setCore s c x).mem = s.mem := rfl
@[simp] theorem setCore_hub (s : State) (c : Nat) (x : Core) : (setCore s c x).hub = s.hub := rfl
@[simp] theorem setCore_fabric (s : State) (c : Nat) (x : Core) : (setCore s c x).fabric = s.fabric := rfl

@[simp] theorem setBench_agenda (s : State) (c b : Nat) (x : Bench) : (setBench s c b x).agenda = s.agenda := rfl
@[simp] theorem setBench_free (s : State) (c b : Nat) (x : Bench) : (setBench s c b x).free = s.free := rfl
@[simp] theorem setBench_cur (s : State) (c b : Nat) (x : Bench) : (setBench s c b x).cur = s.cur := rfl
@[simp] theorem setBench_regq (s : State) (c b : Nat) (x : Bench) : (setBench s c b x).regq = s.regq := rfl
@[simp] theorem setBench_gtime (s : State) (c b : Nat) (x : Bench) : (setBench s c b x).gtime = s.gtime := rfl
@[simp] theorem setBench_teams (s : State) (c b : Nat) (x : Bench) : (setBench s c b x).teams = s.teams := rfl
@[simp] theorem setBench_quads (s : State) (c b : Nat) (x : Bench) : (setBench s c b x).quads = s.quads := rfl
@[simp] theorem setBench_dies (s : State) (c b : Nat) (x : Bench) : (setBench s c b x).dies = s.dies := rfl
@[simp] theorem setBench_mem (s : State) (c b : Nat) (x : Bench) : (setBench s c b x).mem = s.mem := rfl
@[simp] theorem setBench_hub (s : State) (c b : Nat) (x : Bench) : (setBench s c b x).hub = s.hub := rfl
@[simp] theorem setBench_fabric (s : State) (c b : Nat) (x : Bench) : (setBench s c b x).fabric = s.fabric := rfl

@[simp] theorem setQuad_agenda (s : State) (q : Nat) (x : Quad) : (setQuad s q x).agenda = s.agenda := rfl
@[simp] theorem setQuad_free (s : State) (q : Nat) (x : Quad) : (setQuad s q x).free = s.free := rfl
@[simp] theorem setQuad_cur (s : State) (q : Nat) (x : Quad) : (setQuad s q x).cur = s.cur := rfl
@[simp] theorem setQuad_regq (s : State) (q : Nat) (x : Quad) : (setQuad s q x).regq = s.regq := rfl
@[simp] theorem setQuad_gtime (s : State) (q : Nat) (x : Quad) : (setQuad s q x).gtime = s.gtime := rfl
@[simp] theorem setQuad_teams (s : State) (q : Nat) (x : Quad) : (setQuad s q x).teams = s.teams := rfl
@[simp] theorem setQuad_cores (s : State) (q : Nat) (x : Quad) : (setQuad s q x).cores = s.cores := rfl
@[simp] theorem setQuad_dies (s : State) (q : Nat) (x : Quad) : (setQuad s q x).dies = s.dies := rfl
@[simp] theorem setQuad_mem (s : State) (q : Nat) (x : Quad) : (setQuad s q x).mem = s.mem := rfl
@[simp] theorem setQuad_hub (s : State) (q : Nat) (x : Quad) : (setQuad s q x).hub = s.hub := rfl
@[simp] theorem setQuad_fabric (s : State) (q : Nat) (x : Quad) : (setQuad s q x).fabric = s.fabric := rfl

@[simp] theorem charge_agenda (s : State) (core pJ : Nat) : (charge s core pJ).agenda = s.agenda := rfl
@[simp] theorem charge_free (s : State) (core pJ : Nat) : (charge s core pJ).free = s.free := rfl
@[simp] theorem charge_cur (s : State) (core pJ : Nat) : (charge s core pJ).cur = s.cur := rfl
@[simp] theorem charge_regq (s : State) (core pJ : Nat) : (charge s core pJ).regq = s.regq := rfl
@[simp] theorem charge_gtime (s : State) (core pJ : Nat) : (charge s core pJ).gtime = s.gtime := rfl
@[simp] theorem charge_teams (s : State) (core pJ : Nat) : (charge s core pJ).teams = s.teams := rfl
@[simp] theorem charge_cores (s : State) (core pJ : Nat) : (charge s core pJ).cores = s.cores := rfl
@[simp] theorem charge_dies (s : State) (core pJ : Nat) : (charge s core pJ).dies = s.dies := rfl
@[simp] theorem charge_mem (s : State) (core pJ : Nat) : (charge s core pJ).mem = s.mem := rfl
@[simp] theorem charge_hub (s : State) (core pJ : Nat) : (charge s core pJ).hub = s.hub := rfl
@[simp] theorem charge_fabric (s : State) (core pJ : Nat) : (charge s core pJ).fabric = s.fabric := rfl

@[simp] theorem setDie_agenda (s : State) (d : Nat) (x : Die) : (setDie s d x).agenda = s.agenda := rfl
@[simp] theorem setDie_free (s : State) (d : Nat) (x : Die) : (setDie s d x).free = s.free := rfl
@[simp] theorem setDie_cur (s : State) (d : Nat) (x : Die) : (setDie s d x).cur = s.cur := rfl
@[simp] theorem setDie_regq (s : State) (d : Nat) (x : Die) : (setDie s d x).regq = s.regq := rfl
@[simp] theorem setDie_gtime (s : State) (d : Nat) (x : Die) : (setDie s d x).gtime = s.gtime := rfl
@[simp] theorem setDie_teams (s : State) (d : Nat) (x : Die) : (setDie s d x).teams = s.teams := rfl
@[simp] theorem setDie_cores (s : State) (d : Nat) (x : Die) : (setDie s d x).cores = s.cores := rfl
@[simp] theorem setDie_quads (s : State) (d : Nat) (x : Die) : (setDie s d x).quads = s.quads := rfl
@[simp] theorem setDie_mem (s : State) (d : Nat) (x : Die) : (setDie s d x).mem = s.mem := rfl
@[simp] theorem setDie_hub (s : State) (d : Nat) (x : Die) : (setDie s d x).hub = s.hub := rfl
@[simp] theorem setDie_fabric (s : State) (d : Nat) (x : Die) : (setDie s d x).fabric = s.fabric := rfl

@[simp] theorem setCtx_agenda (s : State) (die ctx : Nat) (x : CopyCtx) : (setCtx s die ctx x).agenda = s.agenda := rfl
@[simp] theorem setCtx_free (s : State) (die ctx : Nat) (x : CopyCtx) : (setCtx s die ctx x).free = s.free := rfl
@[simp] theorem setCtx_cur (s : State) (die ctx : Nat) (x : CopyCtx) : (setCtx s die ctx x).cur = s.cur := rfl
@[simp] theorem setCtx_regq (s : State) (die ctx : Nat) (x : CopyCtx) : (setCtx s die ctx x).regq = s.regq := rfl
@[simp] theorem setCtx_gtime (s : State) (die ctx : Nat) (x : CopyCtx) : (setCtx s die ctx x).gtime = s.gtime := rfl
@[simp] theorem setCtx_teams (s : State) (die ctx : Nat) (x : CopyCtx) : (setCtx s die ctx x).teams = s.teams := rfl
@[simp] theorem setCtx_cores (s : State) (die ctx : Nat) (x : CopyCtx) : (setCtx s die ctx x).cores = s.cores := rfl
@[simp] theorem setCtx_quads (s : State) (die ctx : Nat) (x : CopyCtx) : (setCtx s die ctx x).quads = s.quads := rfl
@[simp] theorem setCtx_mem (s : State) (die ctx : Nat) (x : CopyCtx) : (setCtx s die ctx x).mem = s.mem := rfl
@[simp] theorem setCtx_hub (s : State) (die ctx : Nat) (x : CopyCtx) : (setCtx s die ctx x).hub = s.hub := rfl
@[simp] theorem setCtx_fabric (s : State) (die ctx : Nat) (x : CopyCtx) : (setCtx s die ctx x).fabric = s.fabric := rfl

@[simp] theorem setSlot_agenda (s : State) (n : Nat) (x : Slot) : (setSlot s n x).agenda = s.agenda := rfl
@[simp] theorem setSlot_free (s : State) (n : Nat) (x : Slot) : (setSlot s n x).free = s.free := rfl
@[simp] theorem setSlot_cur (s : State) (n : Nat) (x : Slot) : (setSlot s n x).cur = s.cur := rfl
@[simp] theorem setSlot_regq (s : State) (n : Nat) (x : Slot) : (setSlot s n x).regq = s.regq := rfl
@[simp] theorem setSlot_gtime (s : State) (n : Nat) (x : Slot) : (setSlot s n x).gtime = s.gtime := rfl
@[simp] theorem setSlot_teams (s : State) (n : Nat) (x : Slot) : (setSlot s n x).teams = s.teams := rfl
@[simp] theorem setSlot_cores (s : State) (n : Nat) (x : Slot) : (setSlot s n x).cores = s.cores := rfl
@[simp] theorem setSlot_quads (s : State) (n : Nat) (x : Slot) : (setSlot s n x).quads = s.quads := rfl
@[simp] theorem setSlot_dies (s : State) (n : Nat) (x : Slot) : (setSlot s n x).dies = s.dies := rfl
@[simp] theorem setSlot_mem (s : State) (n : Nat) (x : Slot) : (setSlot s n x).mem = s.mem := rfl
@[simp] theorem setSlot_fabric (s : State) (n : Nat) (x : Slot) : (setSlot s n x).fabric = s.fabric := rfl

@[simp] theorem setLaunch_agenda (s : State) (l : Launch) : (setLaunch s l).agenda = s.agenda := rfl
@[simp] theorem setLaunch_free (s : State) (l : Launch) : (setLaunch s l).free = s.free := rfl
@[simp] theorem setLaunch_cur (s : State) (l : Launch) : (setLaunch s l).cur = s.cur := rfl
@[simp] theorem setLaunch_regq (s : State) (l : Launch) : (setLaunch s l).regq = s.regq := rfl
@[simp] theorem setLaunch_gtime (s : State) (l : Launch) : (setLaunch s l).gtime = s.gtime := rfl
@[simp] theorem setLaunch_teams (s : State) (l : Launch) : (setLaunch s l).teams = s.teams := rfl
@[simp] theorem setLaunch_cores (s : State) (l : Launch) : (setLaunch s l).cores = s.cores := rfl
@[simp] theorem setLaunch_quads (s : State) (l : Launch) : (setLaunch s l).quads = s.quads := rfl
@[simp] theorem setLaunch_dies (s : State) (l : Launch) : (setLaunch s l).dies = s.dies := rfl
@[simp] theorem setLaunch_mem (s : State) (l : Launch) : (setLaunch s l).mem = s.mem := rfl
@[simp] theorem setLaunch_fabric (s : State) (l : Launch) : (setLaunch s l).fabric = s.fabric := rfl

@[simp] theorem setQueue_agenda (s : State) (q : Nat) (x : Queue) : (setQueue s q x).agenda = s.agenda := rfl
@[simp] theorem setQueue_free (s : State) (q : Nat) (x : Queue) : (setQueue s q x).free = s.free := rfl
@[simp] theorem setQueue_cur (s : State) (q : Nat) (x : Queue) : (setQueue s q x).cur = s.cur := rfl
@[simp] theorem setQueue_regq (s : State) (q : Nat) (x : Queue) : (setQueue s q x).regq = s.regq := rfl
@[simp] theorem setQueue_gtime (s : State) (q : Nat) (x : Queue) : (setQueue s q x).gtime = s.gtime := rfl
@[simp] theorem setQueue_teams (s : State) (q : Nat) (x : Queue) : (setQueue s q x).teams = s.teams := rfl
@[simp] theorem setQueue_cores (s : State) (q : Nat) (x : Queue) : (setQueue s q x).cores = s.cores := rfl
@[simp] theorem setQueue_quads (s : State) (q : Nat) (x : Queue) : (setQueue s q x).quads = s.quads := rfl
@[simp] theorem setQueue_dies (s : State) (q : Nat) (x : Queue) : (setQueue s q x).dies = s.dies := rfl
@[simp] theorem setQueue_mem (s : State) (q : Nat) (x : Queue) : (setQueue s q x).mem = s.mem := rfl
@[simp] theorem setQueue_fabric (s : State) (q : Nat) (x : Queue) : (setQueue s q x).fabric = s.fabric := rfl

@[simp] theorem setPool_agenda (s : State) (n : Nat) (p : Pool) : (setPool s n p).agenda = s.agenda := rfl
@[simp] theorem setPool_free (s : State) (n : Nat) (p : Pool) : (setPool s n p).free = s.free := rfl
@[simp] theorem setPool_cur (s : State) (n : Nat) (p : Pool) : (setPool s n p).cur = s.cur := rfl
@[simp] theorem setPool_regq (s : State) (n : Nat) (p : Pool) : (setPool s n p).regq = s.regq := rfl
@[simp] theorem setPool_gtime (s : State) (n : Nat) (p : Pool) : (setPool s n p).gtime = s.gtime := rfl
@[simp] theorem setPool_teams (s : State) (n : Nat) (p : Pool) : (setPool s n p).teams = s.teams := rfl
@[simp] theorem setPool_cores (s : State) (n : Nat) (p : Pool) : (setPool s n p).cores = s.cores := rfl
@[simp] theorem setPool_quads (s : State) (n : Nat) (p : Pool) : (setPool s n p).quads = s.quads := rfl
@[simp] theorem setPool_dies (s : State) (n : Nat) (p : Pool) : (setPool s n p).dies = s.dies := rfl
@[simp] theorem setPool_mem (s : State) (n : Nat) (p : Pool) : (setPool s n p).mem = s.mem := rfl
@[simp] theorem setPool_fabric (s : State) (n : Nat) (p : Pool) : (setPool s n p).fabric = s.fabric := rfl

@[simp] theorem setBoot_agenda (s : State) (n : Nat) : (setBoot s n).agenda = s.agenda := rfl
@[simp] theorem setBoot_free (s : State) (n : Nat) : (setBoot s n).free = s.free := rfl
@[simp] theorem setBoot_cur (s : State) (n : Nat) : (setBoot s n).cur = s.cur := rfl
@[simp] theorem setBoot_regq (s : State) (n : Nat) : (setBoot s n).regq = s.regq := rfl
@[simp] theorem setBoot_gtime (s : State) (n : Nat) : (setBoot s n).gtime = s.gtime := rfl
@[simp] theorem setBoot_teams (s : State) (n : Nat) : (setBoot s n).teams = s.teams := rfl
@[simp] theorem setBoot_cores (s : State) (n : Nat) : (setBoot s n).cores = s.cores := rfl
@[simp] theorem setBoot_quads (s : State) (n : Nat) : (setBoot s n).quads = s.quads := rfl
@[simp] theorem setBoot_dies (s : State) (n : Nat) : (setBoot s n).dies = s.dies := rfl
@[simp] theorem setBoot_mem (s : State) (n : Nat) : (setBoot s n).mem = s.mem := rfl
@[simp] theorem setBoot_fabric (s : State) (n : Nat) : (setBoot s n).fabric = s.fabric := rfl

@[simp] theorem setLink_agenda (s : State) (l : Nat) (v : DWord) : (setLink s l v).agenda = s.agenda := by unfold setLink; split <;> rfl
@[simp] theorem setLink_free (s : State) (l : Nat) (v : DWord) : (setLink s l v).free = s.free := by unfold setLink; split <;> rfl
@[simp] theorem setLink_cur (s : State) (l : Nat) (v : DWord) : (setLink s l v).cur = s.cur := by unfold setLink; split <;> rfl
@[simp] theorem setLink_regq (s : State) (l : Nat) (v : DWord) : (setLink s l v).regq = s.regq := by unfold setLink; split <;> rfl
@[simp] theorem setLink_gtime (s : State) (l : Nat) (v : DWord) : (setLink s l v).gtime = s.gtime := by unfold setLink; split <;> rfl
@[simp] theorem setLink_teams (s : State) (l : Nat) (v : DWord) : (setLink s l v).teams = s.teams := by unfold setLink; split <;> rfl
@[simp] theorem setLink_cores (s : State) (l : Nat) (v : DWord) : (setLink s l v).cores = s.cores := by unfold setLink; split <;> rfl
@[simp] theorem setLink_quads (s : State) (l : Nat) (v : DWord) : (setLink s l v).quads = s.quads := by unfold setLink; split <;> rfl
@[simp] theorem setLink_dies (s : State) (l : Nat) (v : DWord) : (setLink s l v).dies = s.dies := by unfold setLink; split <;> rfl
@[simp] theorem setLink_mem (s : State) (l : Nat) (v : DWord) : (setLink s l v).mem = s.mem := by unfold setLink; split <;> rfl
@[simp] theorem setLink_hub (s : State) (l : Nat) (v : DWord) : (setLink s l v).hub = s.hub := by unfold setLink; split <;> rfl

@[simp] theorem noteLineWrite_agenda (s : State) (line : Nat) (ws : List Nat) : (noteLineWrite s line ws).agenda = s.agenda := rfl
@[simp] theorem noteLineWrite_free (s : State) (line : Nat) (ws : List Nat) : (noteLineWrite s line ws).free = s.free := rfl
@[simp] theorem noteLineWrite_cur (s : State) (line : Nat) (ws : List Nat) : (noteLineWrite s line ws).cur = s.cur := rfl
@[simp] theorem noteLineWrite_regq (s : State) (line : Nat) (ws : List Nat) : (noteLineWrite s line ws).regq = s.regq := rfl
@[simp] theorem noteLineWrite_gtime (s : State) (line : Nat) (ws : List Nat) : (noteLineWrite s line ws).gtime = s.gtime := rfl
@[simp] theorem noteLineWrite_cores (s : State) (line : Nat) (ws : List Nat) : (noteLineWrite s line ws).cores = s.cores := rfl
@[simp] theorem noteLineWrite_quads (s : State) (line : Nat) (ws : List Nat) : (noteLineWrite s line ws).quads = s.quads := rfl
@[simp] theorem noteLineWrite_dies (s : State) (line : Nat) (ws : List Nat) : (noteLineWrite s line ws).dies = s.dies := rfl
@[simp] theorem noteLineWrite_mem (s : State) (line : Nat) (ws : List Nat) : (noteLineWrite s line ws).mem = s.mem := rfl
@[simp] theorem noteLineWrite_hub (s : State) (line : Nat) (ws : List Nat) : (noteLineWrite s line ws).hub = s.hub := rfl
@[simp] theorem noteLineWrite_fabric (s : State) (line : Nat) (ws : List Nat) : (noteLineWrite s line ws).fabric = s.fabric := rfl

@[simp] theorem enter_agenda (s : State) (i : Instr) (t : Team) (f : Frag) (sh : Shape) (len : Nat) : (enter i s t f sh len).agenda = s.agenda := rfl
@[simp] theorem enter_free (s : State) (i : Instr) (t : Team) (f : Frag) (sh : Shape) (len : Nat) : (enter i s t f sh len).free = s.free := rfl
@[simp] theorem enter_cur (s : State) (i : Instr) (t : Team) (f : Frag) (sh : Shape) (len : Nat) : (enter i s t f sh len).cur = s.cur := rfl
@[simp] theorem enter_regq (s : State) (i : Instr) (t : Team) (f : Frag) (sh : Shape) (len : Nat) : (enter i s t f sh len).regq = s.regq := rfl
@[simp] theorem enter_gtime (s : State) (i : Instr) (t : Team) (f : Frag) (sh : Shape) (len : Nat) : (enter i s t f sh len).gtime = s.gtime := rfl
@[simp] theorem enter_cores (s : State) (i : Instr) (t : Team) (f : Frag) (sh : Shape) (len : Nat) : (enter i s t f sh len).cores = s.cores := rfl
@[simp] theorem enter_dies (s : State) (i : Instr) (t : Team) (f : Frag) (sh : Shape) (len : Nat) : (enter i s t f sh len).dies = s.dies := rfl
@[simp] theorem enter_mem (s : State) (i : Instr) (t : Team) (f : Frag) (sh : Shape) (len : Nat) : (enter i s t f sh len).mem = s.mem := rfl
@[simp] theorem enter_hub (s : State) (i : Instr) (t : Team) (f : Frag) (sh : Shape) (len : Nat) : (enter i s t f sh len).hub = s.hub := rfl
@[simp] theorem enter_fabric (s : State) (i : Instr) (t : Team) (f : Frag) (sh : Shape) (len : Nat) : (enter i s t f sh len).fabric = s.fabric := rfl

@[simp] theorem setSlot_hub_bootState (s : State) (n : Nat) (x : Slot) : (setSlot s n x).hub.bootState = s.hub.bootState := rfl
@[simp] theorem setSlot_hub_bootImage (s : State) (n : Nat) (x : Slot) : (setSlot s n x).hub.bootImage = s.hub.bootImage := rfl
@[simp] theorem setSlot_hub_bootFails (s : State) (n : Nat) (x : Slot) : (setSlot s n x).hub.bootFails = s.hub.bootFails := rfl
@[simp] theorem setSlot_hub_bootReason (s : State) (n : Nat) (x : Slot) : (setSlot s n x).hub.bootReason = s.hub.bootReason := rfl
@[simp] theorem setSlot_hub_pbudget (s : State) (n : Nat) (x : Slot) : (setSlot s n x).hub.pbudget = s.hub.pbudget := rfl
@[simp] theorem setSlot_hub_hlog (s : State) (n : Nat) (x : Slot) : (setSlot s n x).hub.hlog = s.hub.hlog := rfl
@[simp] theorem setSlot_hub_pstep (s : State) (n : Nat) (x : Slot) : (setSlot s n x).hub.pstep = s.hub.pstep := rfl
@[simp] theorem setSlot_hub_queues (s : State) (n : Nat) (x : Slot) : (setSlot s n x).hub.queues = s.hub.queues := rfl
@[simp] theorem setSlot_hub_acl (s : State) (n : Nat) (x : Slot) : (setSlot s n x).hub.acl = s.hub.acl := rfl
@[simp] theorem setSlot_hub_tlown (s : State) (n : Nat) (x : Slot) : (setSlot s n x).hub.tlown = s.hub.tlown := rfl
@[simp] theorem setSlot_hub_timelines (s : State) (n : Nat) (x : Slot) : (setSlot s n x).hub.timelines = s.hub.timelines := rfl
@[simp] theorem setSlot_hub_channels (s : State) (n : Nat) (x : Slot) : (setSlot s n x).hub.channels = s.hub.channels := rfl
@[simp] theorem setSlot_hub_gens (s : State) (n : Nat) (x : Slot) : (setSlot s n x).hub.gens = s.hub.gens := rfl
@[simp] theorem setSlot_hub_launches (s : State) (n : Nat) (x : Slot) : (setSlot s n x).hub.launches = s.hub.launches := rfl
@[simp] theorem setSlot_hub_nextLaunch (s : State) (n : Nat) (x : Slot) : (setSlot s n x).hub.nextLaunch = s.hub.nextLaunch := rfl
@[simp] theorem setSlot_hub_nextSeq (s : State) (n : Nat) (x : Slot) : (setSlot s n x).hub.nextSeq = s.hub.nextSeq := rfl
@[simp] theorem setSlot_hub_nextUid (s : State) (n : Nat) (x : Slot) : (setSlot s n x).hub.nextUid = s.hub.nextUid := rfl
@[simp] theorem setSlot_hub_bindings (s : State) (n : Nat) (x : Slot) : (setSlot s n x).hub.bindings = s.hub.bindings := rfl
@[simp] theorem setSlot_hub_records (s : State) (n : Nat) (x : Slot) : (setSlot s n x).hub.records = s.hub.records := rfl
@[simp] theorem setSlot_hub_saved (s : State) (n : Nat) (x : Slot) : (setSlot s n x).hub.saved = s.hub.saved := rfl
@[simp] theorem setSlot_hub_actcfg (s : State) (n : Nat) (x : Slot) : (setSlot s n x).hub.actcfg = s.hub.actcfg := rfl
@[simp] theorem setSlot_hub_actseg (s : State) (n : Nat) (x : Slot) : (setSlot s n x).hub.actseg = s.hub.actseg := rfl
@[simp] theorem setSlot_hub_seghead (s : State) (n : Nat) (x : Slot) : (setSlot s n x).hub.seghead = s.hub.seghead := rfl
@[simp] theorem setSlot_hub_segused (s : State) (n : Nat) (x : Slot) : (setSlot s n x).hub.segused = s.hub.segused := rfl
@[simp] theorem setSlot_hub_acts (s : State) (n : Nat) (x : Slot) : (setSlot s n x).hub.acts = s.hub.acts := rfl
@[simp] theorem setSlot_hub_actgen (s : State) (n : Nat) (x : Slot) : (setSlot s n x).hub.actgen = s.hub.actgen := rfl
@[simp] theorem setSlot_hub_pools (s : State) (n : Nat) (x : Slot) : (setSlot s n x).hub.pools = s.hub.pools := rfl
@[simp] theorem setSlot_hub_store (s : State) (n : Nat) (x : Slot) : (setSlot s n x).hub.store = s.hub.store := rfl
@[simp] theorem setSlot_hub_startQuad (s : State) (n : Nat) (x : Slot) : (setSlot s n x).hub.startQuad = s.hub.startQuad := rfl
@[simp] theorem setSlot_hub_interval (s : State) (n : Nat) (x : Slot) : (setSlot s n x).hub.interval = s.hub.interval := rfl
@[simp] theorem setSlot_hub_job (s : State) (n : Nat) (x : Slot) : (setSlot s n x).hub.job = s.hub.job := rfl

@[simp] theorem setLaunch_hub_bootState (s : State) (l : Launch) : (setLaunch s l).hub.bootState = s.hub.bootState := rfl
@[simp] theorem setLaunch_hub_bootImage (s : State) (l : Launch) : (setLaunch s l).hub.bootImage = s.hub.bootImage := rfl
@[simp] theorem setLaunch_hub_bootFails (s : State) (l : Launch) : (setLaunch s l).hub.bootFails = s.hub.bootFails := rfl
@[simp] theorem setLaunch_hub_bootReason (s : State) (l : Launch) : (setLaunch s l).hub.bootReason = s.hub.bootReason := rfl
@[simp] theorem setLaunch_hub_pbudget (s : State) (l : Launch) : (setLaunch s l).hub.pbudget = s.hub.pbudget := rfl
@[simp] theorem setLaunch_hub_hlog (s : State) (l : Launch) : (setLaunch s l).hub.hlog = s.hub.hlog := rfl
@[simp] theorem setLaunch_hub_pstep (s : State) (l : Launch) : (setLaunch s l).hub.pstep = s.hub.pstep := rfl
@[simp] theorem setLaunch_hub_queues (s : State) (l : Launch) : (setLaunch s l).hub.queues = s.hub.queues := rfl
@[simp] theorem setLaunch_hub_slots (s : State) (l : Launch) : (setLaunch s l).hub.slots = s.hub.slots := rfl
@[simp] theorem setLaunch_hub_acl (s : State) (l : Launch) : (setLaunch s l).hub.acl = s.hub.acl := rfl
@[simp] theorem setLaunch_hub_tlown (s : State) (l : Launch) : (setLaunch s l).hub.tlown = s.hub.tlown := rfl
@[simp] theorem setLaunch_hub_timelines (s : State) (l : Launch) : (setLaunch s l).hub.timelines = s.hub.timelines := rfl
@[simp] theorem setLaunch_hub_channels (s : State) (l : Launch) : (setLaunch s l).hub.channels = s.hub.channels := rfl
@[simp] theorem setLaunch_hub_gens (s : State) (l : Launch) : (setLaunch s l).hub.gens = s.hub.gens := rfl
@[simp] theorem setLaunch_hub_nextLaunch (s : State) (l : Launch) : (setLaunch s l).hub.nextLaunch = s.hub.nextLaunch := rfl
@[simp] theorem setLaunch_hub_nextSeq (s : State) (l : Launch) : (setLaunch s l).hub.nextSeq = s.hub.nextSeq := rfl
@[simp] theorem setLaunch_hub_nextUid (s : State) (l : Launch) : (setLaunch s l).hub.nextUid = s.hub.nextUid := rfl
@[simp] theorem setLaunch_hub_bindings (s : State) (l : Launch) : (setLaunch s l).hub.bindings = s.hub.bindings := rfl
@[simp] theorem setLaunch_hub_records (s : State) (l : Launch) : (setLaunch s l).hub.records = s.hub.records := rfl
@[simp] theorem setLaunch_hub_saved (s : State) (l : Launch) : (setLaunch s l).hub.saved = s.hub.saved := rfl
@[simp] theorem setLaunch_hub_actcfg (s : State) (l : Launch) : (setLaunch s l).hub.actcfg = s.hub.actcfg := rfl
@[simp] theorem setLaunch_hub_actseg (s : State) (l : Launch) : (setLaunch s l).hub.actseg = s.hub.actseg := rfl
@[simp] theorem setLaunch_hub_seghead (s : State) (l : Launch) : (setLaunch s l).hub.seghead = s.hub.seghead := rfl
@[simp] theorem setLaunch_hub_segused (s : State) (l : Launch) : (setLaunch s l).hub.segused = s.hub.segused := rfl
@[simp] theorem setLaunch_hub_acts (s : State) (l : Launch) : (setLaunch s l).hub.acts = s.hub.acts := rfl
@[simp] theorem setLaunch_hub_actgen (s : State) (l : Launch) : (setLaunch s l).hub.actgen = s.hub.actgen := rfl
@[simp] theorem setLaunch_hub_pools (s : State) (l : Launch) : (setLaunch s l).hub.pools = s.hub.pools := rfl
@[simp] theorem setLaunch_hub_store (s : State) (l : Launch) : (setLaunch s l).hub.store = s.hub.store := rfl
@[simp] theorem setLaunch_hub_startQuad (s : State) (l : Launch) : (setLaunch s l).hub.startQuad = s.hub.startQuad := rfl
@[simp] theorem setLaunch_hub_interval (s : State) (l : Launch) : (setLaunch s l).hub.interval = s.hub.interval := rfl
@[simp] theorem setLaunch_hub_job (s : State) (l : Launch) : (setLaunch s l).hub.job = s.hub.job := rfl

@[simp] theorem setQueue_hub_bootState (s : State) (q : Nat) (x : Queue) : (setQueue s q x).hub.bootState = s.hub.bootState := rfl
@[simp] theorem setQueue_hub_bootImage (s : State) (q : Nat) (x : Queue) : (setQueue s q x).hub.bootImage = s.hub.bootImage := rfl
@[simp] theorem setQueue_hub_bootFails (s : State) (q : Nat) (x : Queue) : (setQueue s q x).hub.bootFails = s.hub.bootFails := rfl
@[simp] theorem setQueue_hub_bootReason (s : State) (q : Nat) (x : Queue) : (setQueue s q x).hub.bootReason = s.hub.bootReason := rfl
@[simp] theorem setQueue_hub_pbudget (s : State) (q : Nat) (x : Queue) : (setQueue s q x).hub.pbudget = s.hub.pbudget := rfl
@[simp] theorem setQueue_hub_hlog (s : State) (q : Nat) (x : Queue) : (setQueue s q x).hub.hlog = s.hub.hlog := rfl
@[simp] theorem setQueue_hub_pstep (s : State) (q : Nat) (x : Queue) : (setQueue s q x).hub.pstep = s.hub.pstep := rfl
@[simp] theorem setQueue_hub_slots (s : State) (q : Nat) (x : Queue) : (setQueue s q x).hub.slots = s.hub.slots := rfl
@[simp] theorem setQueue_hub_acl (s : State) (q : Nat) (x : Queue) : (setQueue s q x).hub.acl = s.hub.acl := rfl
@[simp] theorem setQueue_hub_tlown (s : State) (q : Nat) (x : Queue) : (setQueue s q x).hub.tlown = s.hub.tlown := rfl
@[simp] theorem setQueue_hub_timelines (s : State) (q : Nat) (x : Queue) : (setQueue s q x).hub.timelines = s.hub.timelines := rfl
@[simp] theorem setQueue_hub_channels (s : State) (q : Nat) (x : Queue) : (setQueue s q x).hub.channels = s.hub.channels := rfl
@[simp] theorem setQueue_hub_gens (s : State) (q : Nat) (x : Queue) : (setQueue s q x).hub.gens = s.hub.gens := rfl
@[simp] theorem setQueue_hub_launches (s : State) (q : Nat) (x : Queue) : (setQueue s q x).hub.launches = s.hub.launches := rfl
@[simp] theorem setQueue_hub_nextLaunch (s : State) (q : Nat) (x : Queue) : (setQueue s q x).hub.nextLaunch = s.hub.nextLaunch := rfl
@[simp] theorem setQueue_hub_nextSeq (s : State) (q : Nat) (x : Queue) : (setQueue s q x).hub.nextSeq = s.hub.nextSeq := rfl
@[simp] theorem setQueue_hub_nextUid (s : State) (q : Nat) (x : Queue) : (setQueue s q x).hub.nextUid = s.hub.nextUid := rfl
@[simp] theorem setQueue_hub_bindings (s : State) (q : Nat) (x : Queue) : (setQueue s q x).hub.bindings = s.hub.bindings := rfl
@[simp] theorem setQueue_hub_records (s : State) (q : Nat) (x : Queue) : (setQueue s q x).hub.records = s.hub.records := rfl
@[simp] theorem setQueue_hub_saved (s : State) (q : Nat) (x : Queue) : (setQueue s q x).hub.saved = s.hub.saved := rfl
@[simp] theorem setQueue_hub_actcfg (s : State) (q : Nat) (x : Queue) : (setQueue s q x).hub.actcfg = s.hub.actcfg := rfl
@[simp] theorem setQueue_hub_actseg (s : State) (q : Nat) (x : Queue) : (setQueue s q x).hub.actseg = s.hub.actseg := rfl
@[simp] theorem setQueue_hub_seghead (s : State) (q : Nat) (x : Queue) : (setQueue s q x).hub.seghead = s.hub.seghead := rfl
@[simp] theorem setQueue_hub_segused (s : State) (q : Nat) (x : Queue) : (setQueue s q x).hub.segused = s.hub.segused := rfl
@[simp] theorem setQueue_hub_acts (s : State) (q : Nat) (x : Queue) : (setQueue s q x).hub.acts = s.hub.acts := rfl
@[simp] theorem setQueue_hub_actgen (s : State) (q : Nat) (x : Queue) : (setQueue s q x).hub.actgen = s.hub.actgen := rfl
@[simp] theorem setQueue_hub_pools (s : State) (q : Nat) (x : Queue) : (setQueue s q x).hub.pools = s.hub.pools := rfl
@[simp] theorem setQueue_hub_store (s : State) (q : Nat) (x : Queue) : (setQueue s q x).hub.store = s.hub.store := rfl
@[simp] theorem setQueue_hub_startQuad (s : State) (q : Nat) (x : Queue) : (setQueue s q x).hub.startQuad = s.hub.startQuad := rfl
@[simp] theorem setQueue_hub_interval (s : State) (q : Nat) (x : Queue) : (setQueue s q x).hub.interval = s.hub.interval := rfl
@[simp] theorem setQueue_hub_job (s : State) (q : Nat) (x : Queue) : (setQueue s q x).hub.job = s.hub.job := rfl

@[simp] theorem setPool_hub_bootState (s : State) (n : Nat) (p : Pool) : (setPool s n p).hub.bootState = s.hub.bootState := rfl
@[simp] theorem setPool_hub_bootImage (s : State) (n : Nat) (p : Pool) : (setPool s n p).hub.bootImage = s.hub.bootImage := rfl
@[simp] theorem setPool_hub_bootFails (s : State) (n : Nat) (p : Pool) : (setPool s n p).hub.bootFails = s.hub.bootFails := rfl
@[simp] theorem setPool_hub_bootReason (s : State) (n : Nat) (p : Pool) : (setPool s n p).hub.bootReason = s.hub.bootReason := rfl
@[simp] theorem setPool_hub_pbudget (s : State) (n : Nat) (p : Pool) : (setPool s n p).hub.pbudget = s.hub.pbudget := rfl
@[simp] theorem setPool_hub_hlog (s : State) (n : Nat) (p : Pool) : (setPool s n p).hub.hlog = s.hub.hlog := rfl
@[simp] theorem setPool_hub_pstep (s : State) (n : Nat) (p : Pool) : (setPool s n p).hub.pstep = s.hub.pstep := rfl
@[simp] theorem setPool_hub_queues (s : State) (n : Nat) (p : Pool) : (setPool s n p).hub.queues = s.hub.queues := rfl
@[simp] theorem setPool_hub_slots (s : State) (n : Nat) (p : Pool) : (setPool s n p).hub.slots = s.hub.slots := rfl
@[simp] theorem setPool_hub_acl (s : State) (n : Nat) (p : Pool) : (setPool s n p).hub.acl = s.hub.acl := rfl
@[simp] theorem setPool_hub_tlown (s : State) (n : Nat) (p : Pool) : (setPool s n p).hub.tlown = s.hub.tlown := rfl
@[simp] theorem setPool_hub_timelines (s : State) (n : Nat) (p : Pool) : (setPool s n p).hub.timelines = s.hub.timelines := rfl
@[simp] theorem setPool_hub_channels (s : State) (n : Nat) (p : Pool) : (setPool s n p).hub.channels = s.hub.channels := rfl
@[simp] theorem setPool_hub_gens (s : State) (n : Nat) (p : Pool) : (setPool s n p).hub.gens = s.hub.gens := rfl
@[simp] theorem setPool_hub_launches (s : State) (n : Nat) (p : Pool) : (setPool s n p).hub.launches = s.hub.launches := rfl
@[simp] theorem setPool_hub_nextLaunch (s : State) (n : Nat) (p : Pool) : (setPool s n p).hub.nextLaunch = s.hub.nextLaunch := rfl
@[simp] theorem setPool_hub_nextSeq (s : State) (n : Nat) (p : Pool) : (setPool s n p).hub.nextSeq = s.hub.nextSeq := rfl
@[simp] theorem setPool_hub_nextUid (s : State) (n : Nat) (p : Pool) : (setPool s n p).hub.nextUid = s.hub.nextUid := rfl
@[simp] theorem setPool_hub_bindings (s : State) (n : Nat) (p : Pool) : (setPool s n p).hub.bindings = s.hub.bindings := rfl
@[simp] theorem setPool_hub_records (s : State) (n : Nat) (p : Pool) : (setPool s n p).hub.records = s.hub.records := rfl
@[simp] theorem setPool_hub_saved (s : State) (n : Nat) (p : Pool) : (setPool s n p).hub.saved = s.hub.saved := rfl
@[simp] theorem setPool_hub_actcfg (s : State) (n : Nat) (p : Pool) : (setPool s n p).hub.actcfg = s.hub.actcfg := rfl
@[simp] theorem setPool_hub_actseg (s : State) (n : Nat) (p : Pool) : (setPool s n p).hub.actseg = s.hub.actseg := rfl
@[simp] theorem setPool_hub_seghead (s : State) (n : Nat) (p : Pool) : (setPool s n p).hub.seghead = s.hub.seghead := rfl
@[simp] theorem setPool_hub_segused (s : State) (n : Nat) (p : Pool) : (setPool s n p).hub.segused = s.hub.segused := rfl
@[simp] theorem setPool_hub_acts (s : State) (n : Nat) (p : Pool) : (setPool s n p).hub.acts = s.hub.acts := rfl
@[simp] theorem setPool_hub_actgen (s : State) (n : Nat) (p : Pool) : (setPool s n p).hub.actgen = s.hub.actgen := rfl
@[simp] theorem setPool_hub_store (s : State) (n : Nat) (p : Pool) : (setPool s n p).hub.store = s.hub.store := rfl
@[simp] theorem setPool_hub_startQuad (s : State) (n : Nat) (p : Pool) : (setPool s n p).hub.startQuad = s.hub.startQuad := rfl
@[simp] theorem setPool_hub_interval (s : State) (n : Nat) (p : Pool) : (setPool s n p).hub.interval = s.hub.interval := rfl
@[simp] theorem setPool_hub_job (s : State) (n : Nat) (p : Pool) : (setPool s n p).hub.job = s.hub.job := rfl

@[simp] theorem setFrag_uid (u : Team) (g : Frag) : (setFrag u g).uid = u.uid := rfl
@[simp] theorem setFrag_tag (u : Team) (g : Frag) : (setFrag u g).tag = u.tag := rfl
@[simp] theorem setFrag_launch (u : Team) (g : Frag) : (setFrag u g).launch = u.launch := rfl
@[simp] theorem setFrag_number (u : Team) (g : Frag) : (setFrag u g).number = u.number := rfl
@[simp] theorem setFrag_teams (u : Team) (g : Frag) : (setFrag u g).teams = u.teams := rfl
@[simp] theorem setFrag_age (u : Team) (g : Frag) : (setFrag u g).age = u.age := rfl
@[simp] theorem setFrag_core (u : Team) (g : Frag) : (setFrag u g).core = u.core := rfl
@[simp] theorem setFrag_bench (u : Team) (g : Frag) : (setFrag u g).bench = u.bench := rfl
@[simp] theorem setFrag_slot (u : Team) (g : Frag) : (setFrag u g).slot = u.slot := rfl
@[simp] theorem setFrag_group (u : Team) (g : Frag) : (setFrag u g).group = u.group := rfl
@[simp] theorem setFrag_width (u : Team) (g : Frag) : (setFrag u g).width = u.width := rfl
@[simp] theorem setFrag_isProtected (u : Team) (g : Frag) : (setFrag u g).isProtected = u.isProtected := rfl
@[simp] theorem setFrag_stackDecl (u : Team) (g : Frag) : (setFrag u g).stackDecl = u.stackDecl := rfl
@[simp] theorem setFrag_localsDecl (u : Team) (g : Frag) : (setFrag u g).localsDecl = u.localsDecl := rfl
@[simp] theorem setFrag_base (u : Team) (g : Frag) : (setFrag u g).base = u.base := rfl
@[simp] theorem setFrag_isCoresident (u : Team) (g : Frag) : (setFrag u g).isCoresident = u.isCoresident := rfl
@[simp] theorem setFrag_isPersistent (u : Team) (g : Frag) : (setFrag u g).isPersistent = u.isPersistent := rfl
@[simp] theorem setFrag_isComp (u : Team) (g : Frag) : (setFrag u g).isComp = u.isComp := rfl
@[simp] theorem setFrag_lanes (u : Team) (g : Frag) : (setFrag u g).lanes = u.lanes := rfl
@[simp] theorem setFrag_scalars (u : Team) (g : Frag) : (setFrag u g).scalars = u.scalars := rfl
@[simp] theorem setFrag_cc (u : Team) (g : Frag) : (setFrag u g).cc = u.cc := rfl
@[simp] theorem setFrag_fpsf (u : Team) (g : Frag) : (setFrag u g).fpsf = u.fpsf := rfl
@[simp] theorem setFrag_uhvec (u : Team) (g : Frag) : (setFrag u g).uhvec = u.uhvec := rfl
@[simp] theorem setFrag_helpers (u : Team) (g : Frag) : (setFrag u g).helpers = u.helpers := rfl
@[simp] theorem setFrag_exited (u : Team) (g : Frag) : (setFrag u g).exited = u.exited := rfl
@[simp] theorem setFrag_loops (u : Team) (g : Frag) : (setFrag u g).loops = u.loops := rfl
@[simp] theorem setFrag_calls (u : Team) (g : Frag) : (setFrag u g).calls = u.calls := rfl
@[simp] theorem setFrag_sb (u : Team) (g : Frag) : (setFrag u g).sb = u.sb := rfl
@[simp] theorem setFrag_nextSb (u : Team) (g : Frag) : (setFrag u g).nextSb = u.nextSb := rfl
@[simp] theorem setFrag_scalarPend (u : Team) (g : Frag) : (setFrag u g).scalarPend = u.scalarPend := rfl
@[simp] theorem setFrag_region (u : Team) (g : Frag) : (setFrag u g).region = u.region := rfl
@[simp] theorem setFrag_tcyc (u : Team) (g : Frag) : (setFrag u g).tcyc = u.tcyc := rfl
@[simp] theorem setFrag_timerV (u : Team) (g : Frag) : (setFrag u g).timerV = u.timerV := rfl
@[simp] theorem setFrag_timerG (u : Team) (g : Frag) : (setFrag u g).timerG = u.timerG := rfl
@[simp] theorem setFrag_gHeld (u : Team) (g : Frag) : (setFrag u g).gHeld = u.gHeld := rfl
@[simp] theorem setFrag_trapcode (u : Team) (g : Frag) : (setFrag u g).trapcode = u.trapcode := rfl
@[simp] theorem setFrag_emuop (u : Team) (g : Frag) : (setFrag u g).emuop = u.emuop := rfl
@[simp] theorem setFrag_emuf16 (u : Team) (g : Frag) : (setFrag u g).emuf16 = u.emuf16 := rfl
@[simp] theorem setFrag_emui32 (u : Team) (g : Frag) : (setFrag u g).emui32 = u.emui32 := rfl
@[simp] theorem setFrag_emupc (u : Team) (g : Frag) : (setFrag u g).emupc = u.emupc := rfl
@[simp] theorem setFrag_trapLoops (u : Team) (g : Frag) : (setFrag u g).trapLoops = u.trapLoops := rfl
@[simp] theorem setFrag_rprog (u : Team) (g : Frag) : (setFrag u g).rprog = u.rprog := rfl
@[simp] theorem setFrag_held (u : Team) (g : Frag) : (setFrag u g).held = u.held := rfl
@[simp] theorem setFrag_removed (u : Team) (g : Frag) : (setFrag u g).removed = u.removed := rfl
@[simp] theorem setFrag_heldIx (u : Team) (g : Frag) : (setFrag u g).heldIx = u.heldIx := rfl
@[simp] theorem setFrag_ix (u : Team) (g : Frag) : (setFrag u g).ix = u.ix := rfl
@[simp] theorem setFrag_ixStatus (u : Team) (g : Frag) : (setFrag u g).ixStatus = u.ixStatus := rfl
@[simp] theorem setFrag_pwrprio (u : Team) (g : Frag) : (setFrag u g).pwrprio = u.pwrprio := rfl
@[simp] theorem setFrag_withheld (u : Team) (g : Frag) : (setFrag u g).withheld = u.withheld := rfl
@[simp] theorem setFrag_exempt (u : Team) (g : Frag) : (setFrag u g).exempt = u.exempt := rfl
@[simp] theorem setFrag_pages (u : Team) (g : Frag) : (setFrag u g).pages = u.pages := rfl
@[simp] theorem setFrag_replay (u : Team) (g : Frag) : (setFrag u g).replay = u.replay := rfl

@[simp] theorem modFrag_uid (u : Team) (n : Nat) (g : Frag → Frag) : (modFrag u n g).uid = u.uid := rfl
@[simp] theorem modFrag_tag (u : Team) (n : Nat) (g : Frag → Frag) : (modFrag u n g).tag = u.tag := rfl
@[simp] theorem modFrag_launch (u : Team) (n : Nat) (g : Frag → Frag) : (modFrag u n g).launch = u.launch := rfl
@[simp] theorem modFrag_number (u : Team) (n : Nat) (g : Frag → Frag) : (modFrag u n g).number = u.number := rfl
@[simp] theorem modFrag_teams (u : Team) (n : Nat) (g : Frag → Frag) : (modFrag u n g).teams = u.teams := rfl
@[simp] theorem modFrag_age (u : Team) (n : Nat) (g : Frag → Frag) : (modFrag u n g).age = u.age := rfl
@[simp] theorem modFrag_core (u : Team) (n : Nat) (g : Frag → Frag) : (modFrag u n g).core = u.core := rfl
@[simp] theorem modFrag_bench (u : Team) (n : Nat) (g : Frag → Frag) : (modFrag u n g).bench = u.bench := rfl
@[simp] theorem modFrag_slot (u : Team) (n : Nat) (g : Frag → Frag) : (modFrag u n g).slot = u.slot := rfl
@[simp] theorem modFrag_group (u : Team) (n : Nat) (g : Frag → Frag) : (modFrag u n g).group = u.group := rfl
@[simp] theorem modFrag_width (u : Team) (n : Nat) (g : Frag → Frag) : (modFrag u n g).width = u.width := rfl
@[simp] theorem modFrag_isProtected (u : Team) (n : Nat) (g : Frag → Frag) : (modFrag u n g).isProtected = u.isProtected := rfl
@[simp] theorem modFrag_stackDecl (u : Team) (n : Nat) (g : Frag → Frag) : (modFrag u n g).stackDecl = u.stackDecl := rfl
@[simp] theorem modFrag_localsDecl (u : Team) (n : Nat) (g : Frag → Frag) : (modFrag u n g).localsDecl = u.localsDecl := rfl
@[simp] theorem modFrag_base (u : Team) (n : Nat) (g : Frag → Frag) : (modFrag u n g).base = u.base := rfl
@[simp] theorem modFrag_isCoresident (u : Team) (n : Nat) (g : Frag → Frag) : (modFrag u n g).isCoresident = u.isCoresident := rfl
@[simp] theorem modFrag_isPersistent (u : Team) (n : Nat) (g : Frag → Frag) : (modFrag u n g).isPersistent = u.isPersistent := rfl
@[simp] theorem modFrag_isComp (u : Team) (n : Nat) (g : Frag → Frag) : (modFrag u n g).isComp = u.isComp := rfl
@[simp] theorem modFrag_lanes (u : Team) (n : Nat) (g : Frag → Frag) : (modFrag u n g).lanes = u.lanes := rfl
@[simp] theorem modFrag_scalars (u : Team) (n : Nat) (g : Frag → Frag) : (modFrag u n g).scalars = u.scalars := rfl
@[simp] theorem modFrag_cc (u : Team) (n : Nat) (g : Frag → Frag) : (modFrag u n g).cc = u.cc := rfl
@[simp] theorem modFrag_fpsf (u : Team) (n : Nat) (g : Frag → Frag) : (modFrag u n g).fpsf = u.fpsf := rfl
@[simp] theorem modFrag_uhvec (u : Team) (n : Nat) (g : Frag → Frag) : (modFrag u n g).uhvec = u.uhvec := rfl
@[simp] theorem modFrag_helpers (u : Team) (n : Nat) (g : Frag → Frag) : (modFrag u n g).helpers = u.helpers := rfl
@[simp] theorem modFrag_exited (u : Team) (n : Nat) (g : Frag → Frag) : (modFrag u n g).exited = u.exited := rfl
@[simp] theorem modFrag_loops (u : Team) (n : Nat) (g : Frag → Frag) : (modFrag u n g).loops = u.loops := rfl
@[simp] theorem modFrag_calls (u : Team) (n : Nat) (g : Frag → Frag) : (modFrag u n g).calls = u.calls := rfl
@[simp] theorem modFrag_sb (u : Team) (n : Nat) (g : Frag → Frag) : (modFrag u n g).sb = u.sb := rfl
@[simp] theorem modFrag_nextSb (u : Team) (n : Nat) (g : Frag → Frag) : (modFrag u n g).nextSb = u.nextSb := rfl
@[simp] theorem modFrag_scalarPend (u : Team) (n : Nat) (g : Frag → Frag) : (modFrag u n g).scalarPend = u.scalarPend := rfl
@[simp] theorem modFrag_region (u : Team) (n : Nat) (g : Frag → Frag) : (modFrag u n g).region = u.region := rfl
@[simp] theorem modFrag_tcyc (u : Team) (n : Nat) (g : Frag → Frag) : (modFrag u n g).tcyc = u.tcyc := rfl
@[simp] theorem modFrag_timerV (u : Team) (n : Nat) (g : Frag → Frag) : (modFrag u n g).timerV = u.timerV := rfl
@[simp] theorem modFrag_timerG (u : Team) (n : Nat) (g : Frag → Frag) : (modFrag u n g).timerG = u.timerG := rfl
@[simp] theorem modFrag_gHeld (u : Team) (n : Nat) (g : Frag → Frag) : (modFrag u n g).gHeld = u.gHeld := rfl
@[simp] theorem modFrag_trapcode (u : Team) (n : Nat) (g : Frag → Frag) : (modFrag u n g).trapcode = u.trapcode := rfl
@[simp] theorem modFrag_emuop (u : Team) (n : Nat) (g : Frag → Frag) : (modFrag u n g).emuop = u.emuop := rfl
@[simp] theorem modFrag_emuf16 (u : Team) (n : Nat) (g : Frag → Frag) : (modFrag u n g).emuf16 = u.emuf16 := rfl
@[simp] theorem modFrag_emui32 (u : Team) (n : Nat) (g : Frag → Frag) : (modFrag u n g).emui32 = u.emui32 := rfl
@[simp] theorem modFrag_emupc (u : Team) (n : Nat) (g : Frag → Frag) : (modFrag u n g).emupc = u.emupc := rfl
@[simp] theorem modFrag_trapLoops (u : Team) (n : Nat) (g : Frag → Frag) : (modFrag u n g).trapLoops = u.trapLoops := rfl
@[simp] theorem modFrag_rprog (u : Team) (n : Nat) (g : Frag → Frag) : (modFrag u n g).rprog = u.rprog := rfl
@[simp] theorem modFrag_held (u : Team) (n : Nat) (g : Frag → Frag) : (modFrag u n g).held = u.held := rfl
@[simp] theorem modFrag_removed (u : Team) (n : Nat) (g : Frag → Frag) : (modFrag u n g).removed = u.removed := rfl
@[simp] theorem modFrag_heldIx (u : Team) (n : Nat) (g : Frag → Frag) : (modFrag u n g).heldIx = u.heldIx := rfl
@[simp] theorem modFrag_ix (u : Team) (n : Nat) (g : Frag → Frag) : (modFrag u n g).ix = u.ix := rfl
@[simp] theorem modFrag_ixStatus (u : Team) (n : Nat) (g : Frag → Frag) : (modFrag u n g).ixStatus = u.ixStatus := rfl
@[simp] theorem modFrag_pwrprio (u : Team) (n : Nat) (g : Frag → Frag) : (modFrag u n g).pwrprio = u.pwrprio := rfl
@[simp] theorem modFrag_withheld (u : Team) (n : Nat) (g : Frag → Frag) : (modFrag u n g).withheld = u.withheld := rfl
@[simp] theorem modFrag_exempt (u : Team) (n : Nat) (g : Frag → Frag) : (modFrag u n g).exempt = u.exempt := rfl
@[simp] theorem modFrag_pages (u : Team) (n : Nat) (g : Frag → Frag) : (modFrag u n g).pages = u.pages := rfl
@[simp] theorem modFrag_replay (u : Team) (n : Nat) (g : Frag → Frag) : (modFrag u n g).replay = u.replay := rfl

@[simp] theorem setS_uid (u : Team) (r : SReg) (v : DWord) : (setS u r v).uid = u.uid := by unfold setS; split <;> rfl
@[simp] theorem setS_tag (u : Team) (r : SReg) (v : DWord) : (setS u r v).tag = u.tag := by unfold setS; split <;> rfl
@[simp] theorem setS_launch (u : Team) (r : SReg) (v : DWord) : (setS u r v).launch = u.launch := by unfold setS; split <;> rfl
@[simp] theorem setS_number (u : Team) (r : SReg) (v : DWord) : (setS u r v).number = u.number := by unfold setS; split <;> rfl
@[simp] theorem setS_teams (u : Team) (r : SReg) (v : DWord) : (setS u r v).teams = u.teams := by unfold setS; split <;> rfl
@[simp] theorem setS_age (u : Team) (r : SReg) (v : DWord) : (setS u r v).age = u.age := by unfold setS; split <;> rfl
@[simp] theorem setS_core (u : Team) (r : SReg) (v : DWord) : (setS u r v).core = u.core := by unfold setS; split <;> rfl
@[simp] theorem setS_bench (u : Team) (r : SReg) (v : DWord) : (setS u r v).bench = u.bench := by unfold setS; split <;> rfl
@[simp] theorem setS_slot (u : Team) (r : SReg) (v : DWord) : (setS u r v).slot = u.slot := by unfold setS; split <;> rfl
@[simp] theorem setS_group (u : Team) (r : SReg) (v : DWord) : (setS u r v).group = u.group := by unfold setS; split <;> rfl
@[simp] theorem setS_width (u : Team) (r : SReg) (v : DWord) : (setS u r v).width = u.width := by unfold setS; split <;> rfl
@[simp] theorem setS_isProtected (u : Team) (r : SReg) (v : DWord) : (setS u r v).isProtected = u.isProtected := by unfold setS; split <;> rfl
@[simp] theorem setS_stackDecl (u : Team) (r : SReg) (v : DWord) : (setS u r v).stackDecl = u.stackDecl := by unfold setS; split <;> rfl
@[simp] theorem setS_localsDecl (u : Team) (r : SReg) (v : DWord) : (setS u r v).localsDecl = u.localsDecl := by unfold setS; split <;> rfl
@[simp] theorem setS_base (u : Team) (r : SReg) (v : DWord) : (setS u r v).base = u.base := by unfold setS; split <;> rfl
@[simp] theorem setS_isCoresident (u : Team) (r : SReg) (v : DWord) : (setS u r v).isCoresident = u.isCoresident := by unfold setS; split <;> rfl
@[simp] theorem setS_isPersistent (u : Team) (r : SReg) (v : DWord) : (setS u r v).isPersistent = u.isPersistent := by unfold setS; split <;> rfl
@[simp] theorem setS_isComp (u : Team) (r : SReg) (v : DWord) : (setS u r v).isComp = u.isComp := by unfold setS; split <;> rfl
@[simp] theorem setS_lanes (u : Team) (r : SReg) (v : DWord) : (setS u r v).lanes = u.lanes := by unfold setS; split <;> rfl
@[simp] theorem setS_cc (u : Team) (r : SReg) (v : DWord) : (setS u r v).cc = u.cc := by unfold setS; split <;> rfl
@[simp] theorem setS_fpsf (u : Team) (r : SReg) (v : DWord) : (setS u r v).fpsf = u.fpsf := by unfold setS; split <;> rfl
@[simp] theorem setS_uhvec (u : Team) (r : SReg) (v : DWord) : (setS u r v).uhvec = u.uhvec := by unfold setS; split <;> rfl
@[simp] theorem setS_helpers (u : Team) (r : SReg) (v : DWord) : (setS u r v).helpers = u.helpers := by unfold setS; split <;> rfl
@[simp] theorem setS_exited (u : Team) (r : SReg) (v : DWord) : (setS u r v).exited = u.exited := by unfold setS; split <;> rfl
@[simp] theorem setS_loops (u : Team) (r : SReg) (v : DWord) : (setS u r v).loops = u.loops := by unfold setS; split <;> rfl
@[simp] theorem setS_calls (u : Team) (r : SReg) (v : DWord) : (setS u r v).calls = u.calls := by unfold setS; split <;> rfl
@[simp] theorem setS_sb (u : Team) (r : SReg) (v : DWord) : (setS u r v).sb = u.sb := by unfold setS; split <;> rfl
@[simp] theorem setS_nextSb (u : Team) (r : SReg) (v : DWord) : (setS u r v).nextSb = u.nextSb := by unfold setS; split <;> rfl
@[simp] theorem setS_scalarPend (u : Team) (r : SReg) (v : DWord) : (setS u r v).scalarPend = u.scalarPend := by unfold setS; split <;> rfl
@[simp] theorem setS_region (u : Team) (r : SReg) (v : DWord) : (setS u r v).region = u.region := by unfold setS; split <;> rfl
@[simp] theorem setS_tcyc (u : Team) (r : SReg) (v : DWord) : (setS u r v).tcyc = u.tcyc := by unfold setS; split <;> rfl
@[simp] theorem setS_timerV (u : Team) (r : SReg) (v : DWord) : (setS u r v).timerV = u.timerV := by unfold setS; split <;> rfl
@[simp] theorem setS_timerG (u : Team) (r : SReg) (v : DWord) : (setS u r v).timerG = u.timerG := by unfold setS; split <;> rfl
@[simp] theorem setS_gHeld (u : Team) (r : SReg) (v : DWord) : (setS u r v).gHeld = u.gHeld := by unfold setS; split <;> rfl
@[simp] theorem setS_trapcode (u : Team) (r : SReg) (v : DWord) : (setS u r v).trapcode = u.trapcode := by unfold setS; split <;> rfl
@[simp] theorem setS_emuop (u : Team) (r : SReg) (v : DWord) : (setS u r v).emuop = u.emuop := by unfold setS; split <;> rfl
@[simp] theorem setS_emuf16 (u : Team) (r : SReg) (v : DWord) : (setS u r v).emuf16 = u.emuf16 := by unfold setS; split <;> rfl
@[simp] theorem setS_emui32 (u : Team) (r : SReg) (v : DWord) : (setS u r v).emui32 = u.emui32 := by unfold setS; split <;> rfl
@[simp] theorem setS_emupc (u : Team) (r : SReg) (v : DWord) : (setS u r v).emupc = u.emupc := by unfold setS; split <;> rfl
@[simp] theorem setS_trapLoops (u : Team) (r : SReg) (v : DWord) : (setS u r v).trapLoops = u.trapLoops := by unfold setS; split <;> rfl
@[simp] theorem setS_rprog (u : Team) (r : SReg) (v : DWord) : (setS u r v).rprog = u.rprog := by unfold setS; split <;> rfl
@[simp] theorem setS_held (u : Team) (r : SReg) (v : DWord) : (setS u r v).held = u.held := by unfold setS; split <;> rfl
@[simp] theorem setS_removed (u : Team) (r : SReg) (v : DWord) : (setS u r v).removed = u.removed := by unfold setS; split <;> rfl
@[simp] theorem setS_heldIx (u : Team) (r : SReg) (v : DWord) : (setS u r v).heldIx = u.heldIx := by unfold setS; split <;> rfl
@[simp] theorem setS_ix (u : Team) (r : SReg) (v : DWord) : (setS u r v).ix = u.ix := by unfold setS; split <;> rfl
@[simp] theorem setS_ixStatus (u : Team) (r : SReg) (v : DWord) : (setS u r v).ixStatus = u.ixStatus := by unfold setS; split <;> rfl
@[simp] theorem setS_pwrprio (u : Team) (r : SReg) (v : DWord) : (setS u r v).pwrprio = u.pwrprio := by unfold setS; split <;> rfl
@[simp] theorem setS_withheld (u : Team) (r : SReg) (v : DWord) : (setS u r v).withheld = u.withheld := by unfold setS; split <;> rfl
@[simp] theorem setS_exempt (u : Team) (r : SReg) (v : DWord) : (setS u r v).exempt = u.exempt := by unfold setS; split <;> rfl
@[simp] theorem setS_pages (u : Team) (r : SReg) (v : DWord) : (setS u r v).pages = u.pages := by unfold setS; split <;> rfl
@[simp] theorem setS_replay (u : Team) (r : SReg) (v : DWord) : (setS u r v).replay = u.replay := by unfold setS; split <;> rfl
@[simp] theorem setS_frags (u : Team) (r : SReg) (v : DWord) : (setS u r v).frags = u.frags := by unfold setS; split <;> rfl

/-- A team replaced is found under its own number. -/
theorem teamOf_setTeam {s : State} {t : Team} (n : Nat) :
    teamOf (setTeam s t) n = if n = t.uid then (teamOf s n).map fun _ => t else teamOf s n := by
  unfold teamOf setTeam
  simp only
  generalize s.teams = l
  induction l with
  | nil => simp
  | cons u r ih =>
    simp only [List.map_cons, List.find?_cons]
    by_cases h : u.uid = t.uid
    · simp only [h, if_true]
      by_cases h2 : t.uid = n
      · simp [h2]
      · have h3 : n ≠ t.uid := fun e => h2 e.symm
        have h4 : (t.uid == n) = false := by simpa using h2
        simp only [h4, h3, if_false] at *
        exact ih
    · simp only [h, if_false]
      by_cases h2 : u.uid = n
      · have h3 : n ≠ t.uid := by omega
        have h4 : (u.uid == n) = true := by simpa using h2
        simp [h4, h3]
      · have h4 : (u.uid == n) = false := by simpa using h2
        simp only [h4]
        exact ih

/-- A team changed by a function that keeps its number is found under it. -/
theorem teamOf_modTeam {s : State} {uid : Nat} {g : Team → Team} (hg : ∀ u, (g u).uid = u.uid) (n : Nat) :
    teamOf (modTeam s uid g) n = if n = uid then (teamOf s n).map g else teamOf s n := by
  unfold teamOf modTeam
  simp only
  generalize s.teams = l
  induction l with
  | nil => simp
  | cons u r ih =>
    simp only [List.map_cons, List.find?_cons]
    by_cases h : u.uid = uid
    · simp only [h, if_true, hg]
      by_cases h2 : uid = n
      · simp [h2]
      · have h3 : n ≠ uid := fun e => h2 e.symm
        have h4 : (uid == n) = false := by simpa using h2
        simp only [h4, h3, if_false] at *
        exact ih
    · simp only [h, if_false]
      by_cases h2 : u.uid = n
      · have h3 : n ≠ uid := by omega
        have h4 : (u.uid == n) = true := by simpa using h2
        simp [h4, h3]
      · have h4 : (u.uid == n) = false := by simpa using h2
        simp only [h4]
        exact ih

/-- An update that keeps the teams keeps what is found among them. -/
theorem teamOf_congr {s s' : State} (h : s'.teams = s.teams) (n : Nat) : teamOf s' n = teamOf s n := by unfold teamOf; rw [h]

/-- A split entry changed by a function that keeps its number is found under it, the others as before. -/
theorem fragOf_modFrag {t : Team} {n : Nat} {g : Frag → Frag} (hg : ∀ x, (g x).num = x.num) (k : Nat) :
    fragOf (modFrag t n g) k = if k = n then (fragOf t k).map g else fragOf t k := by
  unfold fragOf modFrag
  simp only
  generalize t.frags = l
  induction l with
  | nil => simp
  | cons u r ih =>
    simp only [List.map_cons, List.find?_cons]
    by_cases h : u.num = n
    · simp only [h, if_true, hg]
      by_cases h2 : n = k
      · simp [h2]
      · have h3 : k ≠ n := fun e => h2 e.symm
        have h4 : (n == k) = false := by simpa using h2
        simp only [h4, h3, if_false] at *
        exact ih
    · simp only [h, if_false]
      by_cases h2 : u.num = k
      · have h3 : k ≠ n := by omega
        have h4 : (u.num == k) = true := by simpa using h2
        simp [h4, h3]
      · have h4 : (u.num == k) = false := by simpa using h2
        simp only [h4]
        exact ih

/-- What was set is read, the others as before. -/
theorem getCore_setCore (s : State) (n k : Nat) (x : Core) : getCore (setCore s n x) k = if k = n then x else getCore s k :=
  tabGet_tabSet _ _ n k x

/-- What was set is read, the others as before. -/
theorem getQuad_setQuad (s : State) (n k : Nat) (x : Quad) : getQuad (setQuad s n x) k = if k = n then x else getQuad s k :=
  tabGet_tabSet _ _ n k x

/-- What was set is read, the others as before. -/
theorem getDie_setDie (s : State) (n k : Nat) (x : Die) : getDie (setDie s n x) k = if k = n then x else getDie s k :=
  tabGet_tabSet _ _ n k x

/-- What was set is read, the others as before. -/
theorem getSlot_setSlot (s : State) (n k : Nat) (x : Slot) : getSlot (setSlot s n x) k = if k = n then x else getSlot s k :=
  tabGet_tabSet _ _ n k x

/-- What was set is read, the others as before. -/
theorem getQueue_setQueue (s : State) (n k : Nat) (x : Queue) : getQueue (setQueue s n x) k = if k = n then x else getQueue s k :=
  tabGet_tabSet _ _ n k x

/-- What was set is read, the others as before. -/
theorem getPool_setPool (s : State) (n k : Nat) (x : Pool) : getPool (setPool s n x) k = if k = n then x else getPool s k :=
  tabGet_tabSet _ _ n k x

/-- A scalar that is not s0 reads as it was written, the others as before. -/
theorem getS_setS {u : Team} {r q : SReg} {v : DWord} (h : u.scalars.length = 32) :
    getS (setS u r v) q = if q = r ∧ r ≠ 0 then v else getS u q := by
  have hq : q.toNat < 32 := q.isLt
  have hr : r.toNat < 32 := r.isLt
  by_cases h0 : r = 0
  · rw [if_neg (fun e => e.2 h0), h0]; rfl
  · have hs : (setS u r v).scalars = listSet u.scalars r.toNat v := by unfold setS; rw [if_neg h0]
    unfold getS
    by_cases h1 : q = 0
    · have : ¬ (q = r ∧ r ≠ 0) := fun e => h0 (e.1 ▸ h1)
      rw [if_pos h1, if_pos h1, if_neg this]
    · rw [if_neg h1, if_neg h1, hs, getElem?_listSet, h]
      by_cases h2 : q = r
      · rw [if_pos ⟨congrArg _ h2, hr⟩, if_pos ⟨h2, h0⟩]; rfl
      · have : q.toNat ≠ r.toNat := fun e => h2 (BitVec.eq_of_toNat_eq e)
        rw [if_neg (fun e => this e.1), if_neg (fun e => h2 e.1)]

/-- s0 reads as zero. -/
@[simp] theorem getS_zero (u : Team) : getS u 0 = 0 := rfl

/-- A write to s0 is discarded. -/
@[simp] theorem setS_zero (u : Team) (v : DWord) : setS u 0 v = u := rfl

end Sys2Proof.Machine
end

