-- ==== Sys2Proof/Laws/Ops.lean ====
section
/-! SUPPORT. What the shared operations can do: the loop step after an instruction, the team after issue, a stop. -/

namespace Sys2Proof.Machine

/-- The loop step does nothing, or raises LOOP_SPLIT, or leaves the team with fewer or lower loops, its PC perhaps at a loop's start. -/
theorem leave_cases (s : State) (uid : Nat) (f : Frag) (len : Nat) :
    leave s uid f len = s ∨
    ∃ t g, teamOf s uid = some t ∧ fragOf t f.num = some g ∧ g.pc = f.pc + BitVec.ofNat 64 len ∧ g.st ≠ .hold ∧
      (leave s uid f len = classS s uid 0x0D 0 0 f.pc g.active none ∨
        ∃ loops, leave s uid f len = setTeam s { t with loops } ∨
          ∃ pc, leave s uid f len = setTeam s (modFrag ({ t with loops }.endWindows f.num) f.num fun x => { x with pc })) := by
  unfold leave
  split
  · exact .inl rfl
  · rename_i t ht
    split
    · exact .inl rfl
    · rename_i g hg
      split
      · exact .inl rfl
      · rename_i hc
        obtain ⟨h1, h2⟩ := not_or.mp hc
        split
        · exact .inl rfl
        · exact .inr ⟨t, g, ht, hg, not_not.mp h1, h2, .inl rfl⟩
        · exact .inr ⟨t, g, ht, hg, not_not.mp h1, h2, .inr ⟨_, .inl rfl⟩⟩
        · exact .inr ⟨t, g, ht, hg, not_not.mp h1, h2, .inr ⟨_, .inr ⟨_, rfl⟩⟩⟩

/-- The team in the state in which its instruction has issued. -/
theorem teamOf_issued {i : Instr} {s : State} {t : Team} {f : Frag} {sh : Shape} (h : teamOf s t.uid = some t) :
    ∃ u, teamOf (issued i s t f sh) t.uid = some u ∧ u.uid = t.uid := by
  have hc : teamOf (charge s t.core (issueCost i (passes t f))) t.uid = some t := by rw [teamOf_congr (charge_teams s _ _), h]
  unfold issued enter
  simp only
  have hid : ∀ (g : Team → Team), (∀ u, (g u).uid = u.uid) →
      ∃ u, teamOf (modTeam (charge s t.core (issueCost i (passes t f))) t.uid g) t.uid = some u ∧ u.uid = t.uid := by
    intro g hg
    refine ⟨g t, ?_, hg t⟩
    rw [teamOf_modTeam hg, if_pos rfl, hc]; rfl
  exact hid _ fun u => rfl

/-- An instruction that stops with a class S fault, not an SDC and not a violation of a region, leaves the state with that fault posted. -/
theorem raise_fault (s : State) (i : Instr) (t : Team) (f : Frag) (len code info : Nat) (addr : Option DWord) (h : code ≠ 0x20)
    (h' : code ≠ 0x16) :
    raise s i t f len (.fault code info addr) = classS s t.uid code 0 info f.pc f.active addr := by
  unfold raise
  simp only [h, h']

end Sys2Proof.Machine
end

