-- ==== Sys2Proof/Laws/PerInstr.lean ====
section
/-! SUPPORT. Statements per instruction: the number of parcels of each encoding (R43), shown constructor by constructor. -/

namespace Sys2Proof.Laws

/-- An instruction of the encoding tables has one, two or four parcels; an event has none. -/
def EncodesShort.Statement (i : Instr) : Prop := (encode i).length ∈ (if i.encoded then [1, 2, 4] else [0])

/-- One parcel. -/
theorem EncodesShort.one : 1 ∈ [1, 2, 4] := .head _
/-- Two parcels. -/
theorem EncodesShort.two : 2 ∈ [1, 2, 4] := .tail _ (.head _)
/-- Four parcels. -/
theorem EncodesShort.four : 4 ∈ [1, 2, 4] := .tail _ (.tail _ (.head _))
/-- No parcel. -/
theorem EncodesShort.zero : 0 ∈ [0] := .head _

theorem EncodesShort.brkz : EncodesShort.Statement (.brkz) := EncodesShort.one
theorem EncodesShort.nop : EncodesShort.Statement (.nop) := EncodesShort.one
theorem EncodesShort.pushi8 (imm : BitVec 8) : EncodesShort.Statement (.pushi8 imm) := EncodesShort.one
theorem EncodesShort.pushl (k : BitVec 8) : EncodesShort.Statement (.pushl k) := EncodesShort.one
theorem EncodesShort.pushl2 (k : BitVec 8) : EncodesShort.Statement (.pushl2 k) := EncodesShort.one
theorem EncodesShort.popl (k : BitVec 8) : EncodesShort.Statement (.popl k) := EncodesShort.one
theorem EncodesShort.popl2 (k : BitVec 8) : EncodesShort.Statement (.popl2 k) := EncodesShort.one
theorem EncodesShort.pushx (hi : Bool) (x : SpecReg) : EncodesShort.Statement (.pushx hi x) := EncodesShort.one
theorem EncodesShort.pushs (sa : SReg) : EncodesShort.Statement (.pushs sa) := EncodesShort.one
theorem EncodesShort.pushs2 (sa : SReg) : EncodesShort.Statement (.pushs2 sa) := EncodesShort.one
theorem EncodesShort.dup : EncodesShort.Statement (.dup) := EncodesShort.one
theorem EncodesShort.dup2 : EncodesShort.Statement (.dup2) := EncodesShort.one
theorem EncodesShort.drop : EncodesShort.Statement (.drop) := EncodesShort.one
theorem EncodesShort.drop2 : EncodesShort.Statement (.drop2) := EncodesShort.one
theorem EncodesShort.swap : EncodesShort.Statement (.swap) := EncodesShort.one
theorem EncodesShort.swap2 : EncodesShort.Statement (.swap2) := EncodesShort.one
theorem EncodesShort.overTop : EncodesShort.Statement (.overTop) := EncodesShort.one
theorem EncodesShort.rot : EncodesShort.Statement (.rot) := EncodesShort.one
theorem EncodesShort.pick (k : BitVec 8) : EncodesShort.Statement (.pick k) := EncodesShort.one
theorem EncodesShort.roll (k : BitVec 8) : EncodesShort.Statement (.roll k) := EncodesShort.one
theorem EncodesShort.sel : EncodesShort.Statement (.sel) := EncodesShort.one
theorem EncodesShort.add : EncodesShort.Statement (.add) := EncodesShort.one
theorem EncodesShort.sub : EncodesShort.Statement (.sub) := EncodesShort.one
theorem EncodesShort.mul : EncodesShort.Statement (.mul) := EncodesShort.one
theorem EncodesShort.mulh : EncodesShort.Statement (.mulh) := EncodesShort.one
theorem EncodesShort.mulhu : EncodesShort.Statement (.mulhu) := EncodesShort.one
theorem EncodesShort.mad : EncodesShort.Statement (.mad) := EncodesShort.one
theorem EncodesShort.div (la : BitVec 4) : EncodesShort.Statement (.div la) := EncodesShort.one
theorem EncodesShort.divu (la : BitVec 4) : EncodesShort.Statement (.divu la) := EncodesShort.one
theorem EncodesShort.rem (la : BitVec 4) : EncodesShort.Statement (.rem la) := EncodesShort.one
theorem EncodesShort.remu (la : BitVec 4) : EncodesShort.Statement (.remu la) := EncodesShort.one
theorem EncodesShort.neg : EncodesShort.Statement (.neg) := EncodesShort.one
theorem EncodesShort.abs : EncodesShort.Statement (.abs) := EncodesShort.one
theorem EncodesShort.min : EncodesShort.Statement (.min) := EncodesShort.one
theorem EncodesShort.max : EncodesShort.Statement (.max) := EncodesShort.one
theorem EncodesShort.minu : EncodesShort.Statement (.minu) := EncodesShort.one
theorem EncodesShort.maxu : EncodesShort.Statement (.maxu) := EncodesShort.one
theorem EncodesShort.adds : EncodesShort.Statement (.adds) := EncodesShort.one
theorem EncodesShort.subs : EncodesShort.Statement (.subs) := EncodesShort.one
theorem EncodesShort.and : EncodesShort.Statement (.and) := EncodesShort.one
theorem EncodesShort.or : EncodesShort.Statement (.or) := EncodesShort.one
theorem EncodesShort.xor : EncodesShort.Statement (.xor) := EncodesShort.one
theorem EncodesShort.not : EncodesShort.Statement (.not) := EncodesShort.one
theorem EncodesShort.andn : EncodesShort.Statement (.andn) := EncodesShort.one
theorem EncodesShort.shl : EncodesShort.Statement (.shl) := EncodesShort.one
theorem EncodesShort.shr : EncodesShort.Statement (.shr) := EncodesShort.one
theorem EncodesShort.sar : EncodesShort.Statement (.sar) := EncodesShort.one
theorem EncodesShort.rotl : EncodesShort.Statement (.rotl) := EncodesShort.one
theorem EncodesShort.clz : EncodesShort.Statement (.clz) := EncodesShort.one
theorem EncodesShort.popc : EncodesShort.Statement (.popc) := EncodesShort.one
theorem EncodesShort.brev : EncodesShort.Statement (.brev) := EncodesShort.one
theorem EncodesShort.bfx : EncodesShort.Statement (.bfx) := EncodesShort.one
theorem EncodesShort.bfxu : EncodesShort.Statement (.bfxu) := EncodesShort.one
theorem EncodesShort.bfi : EncodesShort.Statement (.bfi) := EncodesShort.one
theorem EncodesShort.permb : EncodesShort.Statement (.permb) := EncodesShort.one
theorem EncodesShort.add64 : EncodesShort.Statement (.add64) := EncodesShort.one
theorem EncodesShort.sub64 : EncodesShort.Statement (.sub64) := EncodesShort.one
theorem EncodesShort.mul64 : EncodesShort.Statement (.mul64) := EncodesShort.one
theorem EncodesShort.shl64 : EncodesShort.Statement (.shl64) := EncodesShort.one
theorem EncodesShort.shr64 : EncodesShort.Statement (.shr64) := EncodesShort.one
theorem EncodesShort.sar64 : EncodesShort.Statement (.sar64) := EncodesShort.one
theorem EncodesShort.mulw : EncodesShort.Statement (.mulw) := EncodesShort.one
theorem EncodesShort.cmp (cc : Cc) : EncodesShort.Statement (.cmp cc) := EncodesShort.one
theorem EncodesShort.fcmp (cc : Cc) : EncodesShort.Statement (.fcmp cc) := EncodesShort.one
theorem EncodesShort.dcmp (cc : Cc) : EncodesShort.Statement (.dcmp cc) := EncodesShort.one
theorem EncodesShort.fadd (r : Rnd) : EncodesShort.Statement (.fadd r) := EncodesShort.one
theorem EncodesShort.fsub (r : Rnd) : EncodesShort.Statement (.fsub r) := EncodesShort.one
theorem EncodesShort.fmul (r : Rnd) : EncodesShort.Statement (.fmul r) := EncodesShort.one
theorem EncodesShort.ffma (r : Rnd) : EncodesShort.Statement (.ffma r) := EncodesShort.one
theorem EncodesShort.fdiv (la : BitVec 4) (r : Rnd) : EncodesShort.Statement (.fdiv la r) := EncodesShort.one
theorem EncodesShort.fsqrt (la : BitVec 4) (r : Rnd) : EncodesShort.Statement (.fsqrt la r) := EncodesShort.one
theorem EncodesShort.fmin : EncodesShort.Statement (.fmin) := EncodesShort.one
theorem EncodesShort.fmax : EncodesShort.Statement (.fmax) := EncodesShort.one
theorem EncodesShort.fabs : EncodesShort.Statement (.fabs) := EncodesShort.one
theorem EncodesShort.fneg : EncodesShort.Statement (.fneg) := EncodesShort.one
theorem EncodesShort.frcp (la : BitVec 4) : EncodesShort.Statement (.frcp la) := EncodesShort.one
theorem EncodesShort.frsq (la : BitVec 4) : EncodesShort.Statement (.frsq la) := EncodesShort.one
theorem EncodesShort.fexp2 (la : BitVec 4) : EncodesShort.Statement (.fexp2 la) := EncodesShort.one
theorem EncodesShort.flog2 (la : BitVec 4) : EncodesShort.Statement (.flog2 la) := EncodesShort.one
theorem EncodesShort.fsin (la : BitVec 4) : EncodesShort.Statement (.fsin la) := EncodesShort.one
theorem EncodesShort.fcos (la : BitVec 4) : EncodesShort.Statement (.fcos la) := EncodesShort.one
theorem EncodesShort.ftanh (la : BitVec 4) : EncodesShort.Statement (.ftanh la) := EncodesShort.one
theorem EncodesShort.frnd (r : Rnd) : EncodesShort.Statement (.frnd r) := EncodesShort.one
theorem EncodesShort.dadd (r : Rnd) : EncodesShort.Statement (.dadd r) := EncodesShort.one
theorem EncodesShort.dsub (r : Rnd) : EncodesShort.Statement (.dsub r) := EncodesShort.one
theorem EncodesShort.dmul (r : Rnd) : EncodesShort.Statement (.dmul r) := EncodesShort.one
theorem EncodesShort.dfma (r : Rnd) : EncodesShort.Statement (.dfma r) := EncodesShort.one
theorem EncodesShort.ddiv (la : BitVec 4) (r : Rnd) : EncodesShort.Statement (.ddiv la r) := EncodesShort.one
theorem EncodesShort.dsqrt (la : BitVec 4) (r : Rnd) : EncodesShort.Statement (.dsqrt la r) := EncodesShort.one
theorem EncodesShort.dmin : EncodesShort.Statement (.dmin) := EncodesShort.one
theorem EncodesShort.dmax : EncodesShort.Statement (.dmax) := EncodesShort.one
theorem EncodesShort.dabs : EncodesShort.Statement (.dabs) := EncodesShort.one
theorem EncodesShort.dneg : EncodesShort.Statement (.dneg) := EncodesShort.one
theorem EncodesShort.hadd2 (r : Rnd) : EncodesShort.Statement (.hadd2 r) := EncodesShort.one
theorem EncodesShort.hmul2 (r : Rnd) : EncodesShort.Statement (.hmul2 r) := EncodesShort.one
theorem EncodesShort.hfma2 (r : Rnd) : EncodesShort.Statement (.hfma2 r) := EncodesShort.one
theorem EncodesShort.hmax2 : EncodesShort.Statement (.hmax2) := EncodesShort.one
theorem EncodesShort.pack2 (r : Rnd) : EncodesShort.Statement (.pack2 r) := EncodesShort.one
theorem EncodesShort.unpk2 : EncodesShort.Statement (.unpk2) := EncodesShort.one
theorem EncodesShort.shflIdx : EncodesShort.Statement (.shflIdx) := EncodesShort.one
theorem EncodesShort.shflXor (k : BitVec 8) : EncodesShort.Statement (.shflXor k) := EncodesShort.one
theorem EncodesShort.shflUp (k : BitVec 8) : EncodesShort.Statement (.shflUp k) := EncodesShort.one
theorem EncodesShort.shflDn (k : BitVec 8) : EncodesShort.Statement (.shflDn k) := EncodesShort.one
theorem EncodesShort.ballot : EncodesShort.Statement (.ballot) := EncodesShort.one
theorem EncodesShort.voteAny : EncodesShort.Statement (.voteAny) := EncodesShort.one
theorem EncodesShort.voteAll : EncodesShort.Statement (.voteAll) := EncodesShort.one
theorem EncodesShort.conflict : EncodesShort.Statement (.conflict) := EncodesShort.one
theorem EncodesShort.join : EncodesShort.Statement (.join) := EncodesShort.one
theorem EncodesShort.exit : EncodesShort.Statement (.exit) := EncodesShort.one
theorem EncodesShort.demote : EncodesShort.Statement (.demote) := EncodesShort.one
theorem EncodesShort.mand (k : BitVec 8) : EncodesShort.Statement (.mand k) := EncodesShort.one
theorem EncodesShort.mrest (k : BitVec 8) : EncodesShort.Statement (.mrest k) := EncodesShort.one
theorem EncodesShort.leave : EncodesShort.Statement (.leave) := EncodesShort.one
theorem EncodesShort.region : EncodesShort.Statement (.region) := EncodesShort.one
theorem EncodesShort.rclose : EncodesShort.Statement (.rclose) := EncodesShort.one
theorem EncodesShort.ret : EncodesShort.Statement (.ret) := EncodesShort.one
theorem EncodesShort.trap (imm : BitVec 8) : EncodesShort.Statement (.trap imm) := EncodesShort.one
theorem EncodesShort.tret : EncodesShort.Statement (.tret) := EncodesShort.one
theorem EncodesShort.bkpt : EncodesShort.Statement (.bkpt) := EncodesShort.one
theorem EncodesShort.hbeat : EncodesShort.Statement (.hbeat) := EncodesShort.one
theorem EncodesShort.pause : EncodesShort.Statement (.pause) := EncodesShort.one
theorem EncodesShort.smov (sd : SReg) (sa : SReg) : EncodesShort.Statement (.smov sd sa) := EncodesShort.two
theorem EncodesShort.sadd (sd : SReg) (sa : SReg) (sb : SReg) : EncodesShort.Statement (.sadd sd sa sb) := EncodesShort.two
theorem EncodesShort.ssub (sd : SReg) (sa : SReg) (sb : SReg) : EncodesShort.Statement (.ssub sd sa sb) := EncodesShort.two
theorem EncodesShort.smul (sd : SReg) (sa : SReg) (sb : SReg) : EncodesShort.Statement (.smul sd sa sb) := EncodesShort.two
theorem EncodesShort.sand (sd : SReg) (sa : SReg) (sb : SReg) : EncodesShort.Statement (.sand sd sa sb) := EncodesShort.two
theorem EncodesShort.sor (sd : SReg) (sa : SReg) (sb : SReg) : EncodesShort.Statement (.sor sd sa sb) := EncodesShort.two
theorem EncodesShort.sxor (sd : SReg) (sa : SReg) (sb : SReg) : EncodesShort.Statement (.sxor sd sa sb) := EncodesShort.two
theorem EncodesShort.sshl (sd : SReg) (sa : SReg) (sb : SReg) : EncodesShort.Statement (.sshl sd sa sb) := EncodesShort.two
theorem EncodesShort.sshr (sd : SReg) (sa : SReg) (sb : SReg) : EncodesShort.Statement (.sshr sd sa sb) := EncodesShort.two
theorem EncodesShort.ssar (sd : SReg) (sa : SReg) (sb : SReg) : EncodesShort.Statement (.ssar sd sa sb) := EncodesShort.two
theorem EncodesShort.scmp (sa : SReg) (sb : SReg) : EncodesShort.Statement (.scmp sa sb) := EncodesShort.two
theorem EncodesShort.sread (sd : SReg) (x : SpecReg) : EncodesShort.Statement (.sread sd x) := EncodesShort.two
theorem EncodesShort.swrite (x : SpecReg) (sa : SReg) : EncodesShort.Statement (.swrite x sa) := EncodesShort.two
theorem EncodesShort.sli (sd : SReg) (imm : BitVec 32) : EncodesShort.Statement (.sli sd imm) := EncodesShort.four
theorem EncodesShort.sliw (sd : SReg) (imm : BitVec 32) : EncodesShort.Statement (.sliw sd imm) := EncodesShort.four
theorem EncodesShort.saddi (sd : SReg) (sa : SReg) (imm : BitVec 32) : EncodesShort.Statement (.saddi sd sa imm) := EncodesShort.four
theorem EncodesShort.scmpi (sa : SReg) (imm : BitVec 32) : EncodesShort.Statement (.scmpi sa imm) := EncodesShort.four
theorem EncodesShort.sld (sd : SReg) (sa : SReg) (imm : BitVec 32) : EncodesShort.Statement (.sld sd sa imm) := EncodesShort.four
theorem EncodesShort.sst (sb : SReg) (sa : SReg) (imm : BitVec 32) : EncodesShort.Statement (.sst sb sa imm) := EncodesShort.four
theorem EncodesShort.pushi32 (imm : BitVec 32) : EncodesShort.Statement (.pushi32 imm) := EncodesShort.four
theorem EncodesShort.pushw (hi : Bool) (imm : BitVec 32) : EncodesShort.Statement (.pushw hi imm) := EncodesShort.four
theorem EncodesShort.cvt (src : CvtTy) (dst : CvtTy) (r : Rnd) (sat : Bool) : EncodesShort.Statement (.cvt src dst r sat) := EncodesShort.two
theorem EncodesShort.qntHse2 (sa : SReg) : EncodesShort.Statement (.qntHse2 sa) := EncodesShort.two
theorem EncodesShort.qntHse4 (sa : SReg) : EncodesShort.Statement (.qntHse4 sa) := EncodesShort.two
theorem EncodesShort.qntHse7 (sa : SReg) : EncodesShort.Statement (.qntHse7 sa) := EncodesShort.two
theorem EncodesShort.dqntHse2 (la : BitVec 4) (sa : SReg) : EncodesShort.Statement (.dqntHse2 la sa) := EncodesShort.two
theorem EncodesShort.dqntHse4 (la : BitVec 4) (sa : SReg) : EncodesShort.Statement (.dqntHse4 la sa) := EncodesShort.two
theorem EncodesShort.dqntHse7 (la : BitVec 4) (sa : SReg) : EncodesShort.Statement (.dqntHse7 la sa) := EncodesShort.two
theorem EncodesShort.brW (off : BitVec 16) : EncodesShort.Statement (.brW off) := EncodesShort.two
theorem EncodesShort.brL (off : BitVec 32) : EncodesShort.Statement (.brL off) := EncodesShort.four
theorem EncodesShort.brcW (cond : BrCond) (off : BitVec 16) : EncodesShort.Statement (.brcW cond off) := EncodesShort.two
theorem EncodesShort.brcL (cond : BrCond) (off : BitVec 32) : EncodesShort.Statement (.brcL cond off) := EncodesShort.four
theorem EncodesShort.jmps (sa : SReg) : EncodesShort.Statement (.jmps sa) := EncodesShort.two
theorem EncodesShort.callW (off : BitVec 16) : EncodesShort.Statement (.callW off) := EncodesShort.two
theorem EncodesShort.callL (off : BitVec 32) : EncodesShort.Statement (.callL off) := EncodesShort.four
theorem EncodesShort.calls (sa : SReg) : EncodesShort.Statement (.calls sa) := EncodesShort.two
theorem EncodesShort.split (els : BitVec 16) (join : BitVec 32) : EncodesShort.Statement (.split els join) := EncodesShort.four
theorem EncodesShort.loop (count : BitVec 16) (last : BitVec 32) : EncodesShort.Statement (.loop count last) := EncodesShort.four
theorem EncodesShort.loops (sa : SReg) (last : BitVec 32) : EncodesShort.Statement (.loops sa last) := EncodesShort.four
theorem EncodesShort.fmtImm (imm : BitVec 32) : EncodesShort.Statement (.fmtImm imm) := EncodesShort.four
theorem EncodesShort.fmtReg (sa : SReg) : EncodesShort.Statement (.fmtReg sa) := EncodesShort.two
theorem EncodesShort.timerV (sa : SReg) : EncodesShort.Statement (.timerV sa) := EncodesShort.two
theorem EncodesShort.timerG (sa : SReg) : EncodesShort.Statement (.timerG sa) := EncodesShort.two
theorem EncodesShort.reduce (la : BitVec 4) (op : RedOp) (bc : Bool) (sd : SReg) : EncodesShort.Statement (.reduce la op bc sd) := EncodesShort.two
theorem EncodesShort.readl (sd : SReg) : EncodesShort.Statement (.readl sd) := EncodesShort.two
theorem EncodesShort.scan (la : BitVec 4) (op : RedOp) (excl : Bool) : EncodesShort.Statement (.scan la op excl) := EncodesShort.two
theorem EncodesShort.ldW (la : BitVec 4) (w : Width) (scale : BitVec 2) (sa : SReg) : EncodesShort.Statement (.ldW la w scale sa) := EncodesShort.two
theorem EncodesShort.ldL (la : BitVec 4) (w : Width) (scale : BitVec 2) (sa : SReg) (c : BitVec 32) : EncodesShort.Statement (.ldL la w scale sa c) := EncodesShort.four
theorem EncodesShort.stW (w : Width) (scale : BitVec 2) (sa : SReg) : EncodesShort.Statement (.stW w scale sa) := EncodesShort.two
theorem EncodesShort.stL (w : Width) (scale : BitVec 2) (sa : SReg) (c : BitVec 32) : EncodesShort.Statement (.stL w scale sa c) := EncodesShort.four
theorem EncodesShort.ldaW (la : BitVec 4) (w : Width) : EncodesShort.Statement (.ldaW la w) := EncodesShort.two
theorem EncodesShort.ldaL (la : BitVec 4) (w : Width) (c : BitVec 32) : EncodesShort.Statement (.ldaL la w c) := EncodesShort.four
theorem EncodesShort.staW (w : Width) : EncodesShort.Statement (.staW w) := EncodesShort.two
theorem EncodesShort.staL (w : Width) (c : BitVec 32) : EncodesShort.Statement (.staL w c) := EncodesShort.four
theorem EncodesShort.ldvW (la : BitVec 4) (scale : BitVec 2) (sa : SReg) : EncodesShort.Statement (.ldvW la scale sa) := EncodesShort.two
theorem EncodesShort.ldvL (la : BitVec 4) (scale : BitVec 2) (sa : SReg) (c : BitVec 32) : EncodesShort.Statement (.ldvL la scale sa c) := EncodesShort.four
theorem EncodesShort.stvW (scale : BitVec 2) (sa : SReg) : EncodesShort.Statement (.stvW scale sa) := EncodesShort.two
theorem EncodesShort.stvL (scale : BitVec 2) (sa : SReg) (c : BitVec 32) : EncodesShort.Statement (.stvL scale sa c) := EncodesShort.four
theorem EncodesShort.ldsW (la : BitVec 4) (q : LdsForm) (scale : BitVec 2) (sa : SReg) : EncodesShort.Statement (.ldsW la q scale sa) := EncodesShort.two
theorem EncodesShort.ldsL (la : BitVec 4) (q : LdsForm) (scale : BitVec 2) (sa : SReg) (c : BitVec 32) : EncodesShort.Statement (.ldsL la q scale sa c) := EncodesShort.four
theorem EncodesShort.stsW (q : StsForm) (scale : BitVec 2) (sa : SReg) : EncodesShort.Statement (.stsW q scale sa) := EncodesShort.two
theorem EncodesShort.stsL (q : StsForm) (scale : BitVec 2) (sa : SReg) (c : BitVec 32) : EncodesShort.Statement (.stsL q scale sa c) := EncodesShort.four
theorem EncodesShort.scataddW (t : ScatTy) (scale : BitVec 2) (sa : SReg) : EncodesShort.Statement (.scataddW t scale sa) := EncodesShort.two
theorem EncodesShort.scataddL (t : ScatTy) (scale : BitVec 2) (sa : SReg) (c : BitVec 32) : EncodesShort.Statement (.scataddL t scale sa c) := EncodesShort.four
theorem EncodesShort.atomW (la : BitVec 4) (op : AtomOp) (ord : MemOrder) (sc : Scope) (scale : BitVec 2) (sa : SReg) : EncodesShort.Statement (.atomW la op ord sc scale sa) := EncodesShort.two
theorem EncodesShort.atomL (la : BitVec 4) (op : AtomOp) (ord : MemOrder) (sc : Scope) (scale : BitVec 2) (sa : SReg) (c : BitVec 32) : EncodesShort.Statement (.atomL la op ord sc scale sa c) := EncodesShort.four
theorem EncodesShort.acq (sa : SReg) : EncodesShort.Statement (.acq sa) := EncodesShort.two
theorem EncodesShort.rel (sa : SReg) : EncodesShort.Statement (.rel sa) := EncodesShort.two
theorem EncodesShort.fenceAcq (sc : Scope) : EncodesShort.Statement (.fenceAcq sc) := EncodesShort.two
theorem EncodesShort.fenceRel (sc : Scope) : EncodesShort.Statement (.fenceRel sc) := EncodesShort.two
theorem EncodesShort.fenceFull (sc : Scope) : EncodesShort.Statement (.fenceFull sc) := EncodesShort.two
theorem EncodesShort.bind (sa : SReg) (sb : SReg) : EncodesShort.Statement (.bind sa sb) := EncodesShort.two
theorem EncodesShort.unbind (sa : SReg) : EncodesShort.Statement (.unbind sa) := EncodesShort.two
theorem EncodesShort.waitv (sa : SReg) : EncodesShort.Statement (.waitv sa) := EncodesShort.two
theorem EncodesShort.barArrive (sa : SReg) : EncodesShort.Statement (.barArrive sa) := EncodesShort.two
theorem EncodesShort.barWait (sa : SReg) : EncodesShort.Statement (.barWait sa) := EncodesShort.two
theorem EncodesShort.barSync (sa : SReg) : EncodesShort.Statement (.barSync sa) := EncodesShort.two
theorem EncodesShort.nbarQuad (id : BitVec 4) : EncodesShort.Statement (.nbarQuad id) := EncodesShort.two
theorem EncodesShort.nbarDie (id : BitVec 4) : EncodesShort.Statement (.nbarDie id) := EncodesShort.two
theorem EncodesShort.nbarPkg (id : BitVec 4) : EncodesShort.Statement (.nbarPkg id) := EncodesShort.two
theorem EncodesShort.gbar : EncodesShort.Statement (.gbar) := EncodesShort.two
theorem EncodesShort.copy (kind : CopyKind) (fe : Bool) (sd : SReg) (sa : SReg) (sb : SReg) : EncodesShort.Statement (.copy kind fe sd sa sb) := EncodesShort.two
theorem EncodesShort.tlwait (sa : SReg) (sb : SReg) : EncodesShort.Statement (.tlwait sa sb) := EncodesShort.two
theorem EncodesShort.tlread (sd : SReg) (sa : SReg) : EncodesShort.Statement (.tlread sd sa) := EncodesShort.two
theorem EncodesShort.tlsig (sa : SReg) (sb : SReg) : EncodesShort.Statement (.tlsig sa sb) := EncodesShort.two
theorem EncodesShort.mma (fe : Bool) (sa : SReg) (sb : SReg) (sc : SReg) (se : SReg) (tile : BitVec 8) : EncodesShort.Statement (.mma fe sa sb sc se tile) := EncodesShort.four
theorem EncodesShort.mmaz (fe : Bool) (sa : SReg) (sb : SReg) (sc : SReg) (se : SReg) (tile : BitVec 8) : EncodesShort.Statement (.mmaz fe sa sb sc se tile) := EncodesShort.four
theorem EncodesShort.mmaBsr (fe : Bool) (sa : SReg) (sb : SReg) (sc : SReg) (se : SReg) (tile : BitVec 8) : EncodesShort.Statement (.mmaBsr fe sa sb sc se tile) := EncodesShort.four
theorem EncodesShort.mmaCsr (fe : Bool) (sa : SReg) (sb : SReg) (sc : SReg) (se : SReg) (tile : BitVec 8) : EncodesShort.Statement (.mmaCsr fe sa sb sc se tile) := EncodesShort.four
theorem EncodesShort.accz (tile : BitVec 8) : EncodesShort.Statement (.accz tile) := EncodesShort.two
theorem EncodesShort.accld (fe : Bool) (sa : SReg) (sb : SReg) (tile : BitVec 8) (ty : BitVec 4) : EncodesShort.Statement (.accld fe sa sb tile ty) := EncodesShort.four
theorem EncodesShort.accst (fe : Bool) (sa : SReg) (sb : SReg) (sc : SReg) (tile : BitVec 8) (ty : BitVec 4) (scope : Scope) (amax : Bool) : EncodesShort.Statement (.accst fe sa sb sc tile ty scope amax) := EncodesShort.four
theorem EncodesShort.accrd (la : BitVec 4) (wide : Bool) (tile : BitVec 8) : EncodesShort.Statement (.accrd la wide tile) := EncodesShort.two
theorem EncodesShort.accwr (wide : Bool) (tile : BitVec 8) : EncodesShort.Statement (.accwr wide tile) := EncodesShort.two
theorem EncodesShort.ixset (mode : IxMode) (sa : SReg) : EncodesShort.Statement (.ixset mode sa) := EncodesShort.two
theorem EncodesShort.ixnext (la : BitVec 4) (sd : SReg) : EncodesShort.Statement (.ixnext la sd) := EncodesShort.two
theorem EncodesShort.ixsp (sa : SReg) : EncodesShort.Statement (.ixsp sa) := EncodesShort.two
theorem EncodesShort.ixcnt (sd : SReg) : EncodesShort.Statement (.ixcnt sd) := EncodesShort.two
theorem EncodesShort.pwrprio (p : BitVec 2) : EncodesShort.Statement (.pwrprio p) := EncodesShort.two
theorem EncodesShort.pwrread (sd : SReg) : EncodesShort.Statement (.pwrread sd) := EncodesShort.two
theorem EncodesShort.xprobe (sd : SReg) (sa : SReg) : EncodesShort.Statement (.xprobe sd sa) := EncodesShort.two
theorem EncodesShort.actOpen (sd : SReg) : EncodesShort.Statement (.actOpen sd) := EncodesShort.two
theorem EncodesShort.actStep (sd : SReg) (sa : SReg) (sb : SReg) (sc : SReg) (se : SReg) : EncodesShort.Statement (.actStep sd sa sb sc se) := EncodesShort.four
theorem EncodesShort.actClose (sa : SReg) : EncodesShort.Statement (.actClose sa) := EncodesShort.two
theorem EncodesShort.actAbandon (sa : SReg) : EncodesShort.Statement (.actAbandon sa) := EncodesShort.two
theorem EncodesShort.actStat (sd : SReg) (sa : SReg) : EncodesShort.Statement (.actStat sd sa) := EncodesShort.two
theorem EncodesShort.actSkip (sa : SReg) : EncodesShort.Statement (.actSkip sa) := EncodesShort.two
theorem EncodesShort.actRetry (sa : SReg) : EncodesShort.Statement (.actRetry sa) := EncodesShort.two
theorem EncodesShort.cret (sa : SReg) : EncodesShort.Statement (.cret sa) := EncodesShort.two
theorem EncodesShort.ssOpen (sd : SReg) (sa : SReg) : EncodesShort.Statement (.ssOpen sd sa) := EncodesShort.two
theorem EncodesShort.ssLoad (sd : SReg) (sa : SReg) (sb : SReg) (sc : SReg) (se : SReg) : EncodesShort.Statement (.ssLoad sd sa sb sc se) := EncodesShort.four
theorem EncodesShort.ssStore (sa : SReg) (sb : SReg) (sc : SReg) (se : SReg) : EncodesShort.Statement (.ssStore sa sb sc se) := EncodesShort.four
theorem EncodesShort.ssSnap (sa : SReg) : EncodesShort.Statement (.ssSnap sa) := EncodesShort.two
theorem EncodesShort.ssRoll (sd : SReg) (sa : SReg) (sb : SReg) : EncodesShort.Statement (.ssRoll sd sa sb) := EncodesShort.two
theorem EncodesShort.ssFork (sd : SReg) (sa : SReg) (sb : SReg) : EncodesShort.Statement (.ssFork sd sa sb) := EncodesShort.two
theorem EncodesShort.ssDrop (sa : SReg) : EncodesShort.Statement (.ssDrop sa) := EncodesShort.two
theorem EncodesShort.ssInfo (sa : SReg) (sb : SReg) : EncodesShort.Statement (.ssInfo sa sb) := EncodesShort.two
theorem EncodesShort.ssHeads (wr : Bool) (sd : SReg) (sa : SReg) (sb : SReg) : EncodesShort.Statement (.ssHeads wr sd sa sb) := EncodesShort.two
theorem EncodesShort.poolTake (sd : SReg) (sa : SReg) : EncodesShort.Statement (.poolTake sd sa) := EncodesShort.two
theorem EncodesShort.poolGive (sa : SReg) (sb : SReg) : EncodesShort.Statement (.poolGive sa sb) := EncodesShort.two
theorem EncodesShort.launch (sa : SReg) (sb : SReg) : EncodesShort.Statement (.launch sa sb) := EncodesShort.two
theorem EncodesShort.dbgRd (sd : SReg) (sa : SReg) : EncodesShort.Statement (.dbgRd sd sa) := EncodesShort.two
theorem EncodesShort.dbgWr (sa : SReg) (sb : SReg) : EncodesShort.Statement (.dbgWr sa sb) := EncodesShort.two
theorem EncodesShort.illop (form : Nat) (cause : Nat) (first : BitVec 16) (arg : BitVec 16) (f32 : BitVec 32) (parcels : Nat) : EncodesShort.Statement (.illop form cause first arg f32 parcels) := EncodesShort.zero
theorem EncodesShort.regionPublish (team : Nat) : EncodesShort.Statement (.regionPublish team) := EncodesShort.zero
theorem EncodesShort.resultWrite (team : Nat) (sb : Nat) : EncodesShort.Statement (.resultWrite team sb) := EncodesShort.zero
theorem EncodesShort.drawerTransfer (team : Nat) (frag : Nat) : EncodesShort.Statement (.drawerTransfer team frag) := EncodesShort.zero
theorem EncodesShort.waiterTableRetry (team : Nat) (frag : Nat) : EncodesShort.Statement (.waiterTableRetry team frag) := EncodesShort.zero
theorem EncodesShort.faultRepresent (team : Nat) (frag : Nat) : EncodesShort.Statement (.faultRepresent team frag) := EncodesShort.zero
theorem EncodesShort.waitvWake (team : Nat) (frag : Nat) : EncodesShort.Statement (.waitvWake team frag) := EncodesShort.zero
theorem EncodesShort.waitvTimeout (team : Nat) (frag : Nat) : EncodesShort.Statement (.waitvTimeout team frag) := EncodesShort.zero
theorem EncodesShort.tlwaitWake (team : Nat) (frag : Nat) : EncodesShort.Statement (.tlwaitWake team frag) := EncodesShort.zero
theorem EncodesShort.copyEngineTurn (die : Nat) (engine : Nat) : EncodesShort.Statement (.copyEngineTurn die engine) := EncodesShort.zero
theorem EncodesShort.copyComplete (die : Nat) (ctx : Nat) : EncodesShort.Statement (.copyComplete die ctx) := EncodesShort.zero
theorem EncodesShort.matrixExecute (core : Nat) : EncodesShort.Statement (.matrixExecute core) := EncodesShort.zero
theorem EncodesShort.ixuExecute (core : Nat) : EncodesShort.Statement (.ixuExecute core) := EncodesShort.zero
theorem EncodesShort.timerFire (team : Nat) : EncodesShort.Statement (.timerFire team) := EncodesShort.zero
theorem EncodesShort.watchdogFire (launch : Nat) : EncodesShort.Statement (.watchdogFire launch) := EncodesShort.zero
theorem EncodesShort.powerInterval : EncodesShort.Statement (.powerInterval) := EncodesShort.zero
theorem EncodesShort.issueFloorExempt (team : Nat) : EncodesShort.Statement (.issueFloorExempt team) := EncodesShort.zero
theorem EncodesShort.thermalSample (die : Nat) (quarterDegrees : Int) : EncodesShort.Statement (.thermalSample die quarterDegrees) := EncodesShort.zero
theorem EncodesShort.sramScrub (core : Nat) (row : Nat) (err : ErrKind) : EncodesShort.Statement (.sramScrub core row err) := EncodesShort.zero
theorem EncodesShort.patrolScrub (line : Nat) (err : ErrKind) : EncodesShort.Statement (.patrolScrub line err) := EncodesShort.zero
theorem EncodesShort.frameZeroDone (die : Nat) (frame : Nat) : EncodesShort.Statement (.frameZeroDone die frame) := EncodesShort.zero
theorem EncodesShort.coldReset : EncodesShort.Statement (.coldReset) := EncodesShort.zero
theorem EncodesShort.bootFirmwareVerified : EncodesShort.Statement (.bootFirmwareVerified) := EncodesShort.zero
theorem EncodesShort.bootStage2Fetched : EncodesShort.Statement (.bootStage2Fetched) := EncodesShort.zero
theorem EncodesShort.bootVerified : EncodesShort.Statement (.bootVerified) := EncodesShort.zero
theorem EncodesShort.bootFailure (reason : Nat) : EncodesShort.Statement (.bootFailure reason) := EncodesShort.zero
theorem EncodesShort.bootTimeout : EncodesShort.Statement (.bootTimeout) := EncodesShort.zero
theorem EncodesShort.launchDispatch : EncodesShort.Statement (.launchDispatch) := EncodesShort.zero
theorem EncodesShort.teamPlace (launch : Nat) : EncodesShort.Statement (.teamPlace launch) := EncodesShort.zero
theorem EncodesShort.launchComplete (launch : Nat) : EncodesShort.Statement (.launchComplete launch) := EncodesShort.zero
theorem EncodesShort.qcfgWrite (queue : Nat) (value : BitVec 32) : EncodesShort.Statement (.qcfgWrite queue value) := EncodesShort.zero
theorem EncodesShort.cxctlWrite (slot : Nat) (value : BitVec 32) : EncodesShort.Statement (.cxctlWrite slot value) := EncodesShort.zero
theorem EncodesShort.cxcmdPreempt (slot : Nat) : EncodesShort.Statement (.cxcmdPreempt slot) := EncodesShort.zero
theorem EncodesShort.cxcmdResume (slot : Nat) : EncodesShort.Statement (.cxcmdResume slot) := EncodesShort.zero
theorem EncodesShort.cxcmdTerminate (slot : Nat) : EncodesShort.Statement (.cxcmdTerminate slot) := EncodesShort.zero
theorem EncodesShort.vfReset (vf : Nat) : EncodesShort.Statement (.vfReset vf) := EncodesShort.zero
theorem EncodesShort.cstateWrite (core : Nat) (value : BitVec 32) : EncodesShort.Statement (.cstateWrite core value) := EncodesShort.zero
theorem EncodesShort.dqmapWrite (die : Nat) (value : BitVec 64) : EncodesShort.Statement (.dqmapWrite die value) := EncodesShort.zero
theorem EncodesShort.xinvWrite (die : Nat) (value : BitVec 64) : EncodesShort.Statement (.xinvWrite die value) := EncodesShort.zero
theorem EncodesShort.xinvDone (die : Nat) : EncodesShort.Statement (.xinvDone die) := EncodesShort.zero
theorem EncodesShort.fbresRewalk (die : Nat) (entry : Nat) : EncodesShort.Statement (.fbresRewalk die entry) := EncodesShort.zero
theorem EncodesShort.fbresFail (die : Nat) (entry : Nat) : EncodesShort.Statement (.fbresFail die entry) := EncodesShort.zero
theorem EncodesShort.waiterReplay (die : Nat) (entry : Nat) : EncodesShort.Statement (.waiterReplay die entry) := EncodesShort.zero
theorem EncodesShort.cctxWrite (die : Nat) (ctx : Nat) (value : BitVec 32) : EncodesShort.Statement (.cctxWrite die ctx value) := EncodesShort.zero
theorem EncodesShort.deinjWrite (die : Nat) (value : BitVec 64) : EncodesShort.Statement (.deinjWrite die value) := EncodesShort.zero
theorem EncodesShort.pbudgetWrite (value : BitVec 32) : EncodesShort.Statement (.pbudgetWrite value) := EncodesShort.zero
theorem EncodesShort.actcfgWrite (value : BitVec 32) : EncodesShort.Statement (.actcfgWrite value) := EncodesShort.zero
theorem EncodesShort.poolctlWrite (pool : Nat) (value : BitVec 64) : EncodesShort.Statement (.poolctlWrite pool value) := EncodesShort.zero
theorem EncodesShort.sscfgWrite (value : BitVec 64) : EncodesShort.Statement (.sscfgWrite value) := EncodesShort.zero
theorem EncodesShort.pbcfgWrite (chan : Nat) (value : BitVec 64) : EncodesShort.Statement (.pbcfgWrite chan value) := EncodesShort.zero
theorem EncodesShort.podBarrierRelease (chan : Nat) : EncodesShort.Statement (.podBarrierRelease chan) := EncodesShort.zero
theorem EncodesShort.benchHalt (core : Nat) (bench : Nat) : EncodesShort.Statement (.benchHalt core bench) := EncodesShort.zero
theorem EncodesShort.benchClaim (core : Nat) (bench : Nat) (team : Nat) : EncodesShort.Statement (.benchClaim core bench team) := EncodesShort.zero
theorem EncodesShort.haltBroadcast (core : Nat) (bench : Nat) : EncodesShort.Statement (.haltBroadcast core bench) := EncodesShort.zero
theorem EncodesShort.comparatorHit (team : Nat) (comp : Nat) : EncodesShort.Statement (.comparatorHit team comp) := EncodesShort.zero
theorem EncodesShort.benchSample (core : Nat) (bench : Nat) : EncodesShort.Statement (.benchSample core bench) := EncodesShort.zero
theorem EncodesShort.compensationDone (launch : Nat) : EncodesShort.Statement (.compensationDone launch) := EncodesShort.zero
theorem EncodesShort.keyWaitEnd (tag : BitVec 12) (slot : Nat) : EncodesShort.Statement (.keyWaitEnd tag slot) := EncodesShort.zero
theorem EncodesShort.keyWaitTimeout (tag : BitVec 12) (slot : Nat) : EncodesShort.Statement (.keyWaitTimeout tag slot) := EncodesShort.zero
theorem EncodesShort.podAccess (pkg : Nat) (stag : BitVec 12) (va : BitVec 64) (op : ExtOp) : EncodesShort.Statement (.podAccess pkg stag va op) := EncodesShort.zero
theorem EncodesShort.fabricAckTimeout (team : Nat) : EncodesShort.Statement (.fabricAckTimeout team) := EncodesShort.zero
theorem EncodesShort.laneSwap (link : Nat) : EncodesShort.Statement (.laneSwap link) := EncodesShort.zero
theorem EncodesShort.hostAccess (fn : Nat) (offset : Nat) (op : ExtOp) : EncodesShort.Statement (.hostAccess fn offset op) := EncodesShort.zero
theorem EncodesShort.rdmaCompletion (fn : Nat) (timeline : Nat) (value : BitVec 64) : EncodesShort.Statement (.rdmaCompletion fn timeline value) := EncodesShort.zero
theorem EncodesShort.registerWrite (pa : Nat) (value : BitVec 64) : EncodesShort.Statement (.registerWrite pa value) := EncodesShort.zero
theorem EncodesShort.linkLevelRetry (link : Nat) : EncodesShort.Statement (.linkLevelRetry link) := EncodesShort.zero
theorem EncodesShort.linkTrained (link : Nat) (up : Bool) (peer : Nat) : EncodesShort.Statement (.linkTrained link up peer) := EncodesShort.zero

end Sys2Proof.Laws
end

