-- ==== Sys2Proof/Tests/Slice0.lean ====
section
/-! SUPPORT. Tests: ill-formed terms, words of the encoding tables, a state that meets the hypotheses of each statement clause by clause, and
single steps. -/

set_option Elab.async false

namespace Sys2Proof.Tests

open Sys2Proof.Machine

/-- A team of two lanes, its first instruction fetched: what step makes of the state that withFetchWord gives. -/
def w : State := match turn (settle (State.reset.withFetchWord 16 0x100)) 0 with
  | .run _ s => s
  | _ => State.reset

/-- The team. -/
abbrev tm (s : State) : Team := (teamOf s 0).getD (Team.blank 0 0 0 0 0)
/-- Its running fragment. -/
abbrev fr (s : State) : Frag := (runFrag (tm s)).getD
  { num := 0, pc := 0, joinPc := 0, fmt := 0, mark := none, depth := 0, shelf := 0, st := .run, trapMarker := false, spilled := false,
    handler := false, parent := none, live := 0, seq := 0, member := 0, active := 0, m0 := 0, m1 := 0, m2 := 0, m3 := 0, wait := none,
    paused := 0, low := 0 }

/-- The state with these words on every lane's stack, TOS first. -/
def st (ws : List Word) (s : State := w) : State := modTeam s 0 fun t =>
  { t with
    lanes := t.lanes.map fun (l : Lane) => { l with stack := ws.map Entry.clean }
    frags := t.frags.map fun (x : Frag) => { x with depth := ws.length, shelf := min ws.length 8 } }

/-- The state with a scalar set. -/
def sc (r : SReg) (v : DWord) (s : State := w) : State := modTeam s 0 fun t => setS t r v
/-- The state with the running fragment changed. -/
def fm (g : Frag → Frag) (s : State := w) : State := modTeam s 0 fun t => { t with frags := t.frags.map g }
/-- The state with bytes in memory. -/
def mb (a : Nat) (l : List Byte) (s : State := w) : State := { s with mem := Memory.splice s.mem a l }

/-- The team runs its fragment. -/
def runs (s : State) : Bool := decide (Runs s (tm s) (fr s))
/-- The team runs and nothing keeps an instruction of this shape from issuing. -/
def ready (s : State) (sh : Shape) : Bool := runs s && decide (Clear s (tm s) (fr s) sh)
theorem runs_iff (s : State) : runs s = true ↔ Runs s (tm s) (fr s) := decide_eq_true_iff
theorem ready_iff (s : State) (sh : Shape) : ready s sh = true ↔ Runs s (tm s) (fr s) ∧ Clear s (tm s) (fr s) sh := by
  simp only [ready, Bool.and_eq_true, runs_iff, decide_eq_true_eq]

/-- One step ends well, and a property holds of the team. -/
def gives (o : Out) (p : State → Team → Bool) : Bool := match o with
  | .next s => match teamOf s 0 with
    | some t => p s t
    | none => false
  | _ => false

/-- Ill-formed terms, one for each check. -/
theorem test_illFormed : ∀ i ∈ [Instr.pushl2 255, .popl2 255, .pushx true .lane, .pick 63, .roll 64, .cmp .un, .cmp .or, .fcmp .lo, .fcmp .hs,
    .dcmp .ls, .dcmp .hi, .shflXor 32, .shflUp 32, .shflDn 32, .mand 4, .mrest 4, .swrite .lane 3, .swrite .trapcode 3, .cvt .f32 .f32 .fmt false,
    .cvt .i32 .f16 .fmt true, .loop 1 3, .loops 1 3, .loop 1 0xFFFFFFFF, .fmtImm 0x10000, .fmtImm 0x300, .fmtImm 0xB0, .fmtImm 0xB,
    .accld false 1 2 3 12, .accst false 1 2 3 4 15 .core true, .accst false 1 2 3 4 0 .core false, .accst false 1 2 0 4 0 .die false,
    .ssHeads false 1 2 3], WellFormed i = false := by decide +kernel

/-- Patterns that are no instruction, with their causes (R51 to R58). -/
theorem test_illegal : ∀ x ∈ [([0x0001], Cause.mustBeZero), ([0x7900], .unassigned), ([0x7F00], .emulation), ([0x0B01], .mustBeZero),
    ([0x04FF], .outOfLimits), ([0x0780], .outOfLimits), ([0x0797], .outOfLimits), ([0x0720], .mustBeZero), ([0x123F], .outOfLimits),
    ([0x1510], .laNotLL), ([0x3E0A], .outOfLimits), ([0x3F06], .outOfLimits), ([0x4105], .outOfLimits), ([0x6420], .outOfLimits),
    ([0x6E04], .outOfLimits), ([0x8D00, 0], .unassigned), ([0x810D, 0], .unassigned), ([0x8200, 0], .lengthNotListed),
    ([0x8111, 0x1864], .laNotLL), ([0x8301, 0], .lengthNotListed), ([0x8302, 0x0000], .outOfLimits), ([0x8302, 0x1010], .mustBeZero),
    ([0x9606, 0x0300], .outOfLimits)], (match decode x.1 with
      | .illegal _ c n => decide (c = x.2 ∧ n = x.1.length)
      | _ => false) = true := by decide +kernel

/-- Words of the stack family. -/
abbrev words_stack : List (List Parcel × Instr) := [
  ([0x0000], .brkz), ([0x0100], .nop), ([0x0285], .pushi8 0x85), ([0x0303], .pushl 3), ([0x0403], .pushl2 3), ([0x0503], .popl 3),
  ([0x0603], .popl2 3), ([0x078A], .pushx true .tcyc), ([0x0804], .pushs 4), ([0x0904], .pushs2 4), ([0x0A00], .dup),
  ([0x0B00], .dup2), ([0x0C00], .drop), ([0x0D00], .drop2), ([0x0E00], .swap), ([0x0F00], .swap2)]
theorem test_words_stack : ∀ x ∈ words_stack, decode x.1 = .ok x.2 x.1.length := by decide +kernel

/-- Words of the integer family. -/
abbrev words_integer : List (List Parcel × Instr) := [
  ([0x1000], .overTop), ([0x1100], .rot), ([0x1203], .pick 3), ([0x1303], .roll 3), ([0x1400], .sel), ([0x1500], .add),
  ([0x1600], .sub), ([0x1700], .mul), ([0x1800], .mulh), ([0x1900], .mulhu), ([0x1A00], .mad), ([0x1B20], .div 2),
  ([0x1C20], .divu 2), ([0x1D20], .rem 2), ([0x1E20], .remu 2), ([0x1F00], .neg)]
theorem test_words_integer : ∀ x ∈ words_integer, decode x.1 = .ok x.2 x.1.length := by decide +kernel

/-- Words of the integer2 family. -/
abbrev words_integer2 : List (List Parcel × Instr) := [
  ([0x2000], .abs), ([0x2100], .min), ([0x2200], .max), ([0x2300], .minu), ([0x2400], .maxu), ([0x2500], .adds), ([0x2600], .subs),
  ([0x2700], .and), ([0x2800], .or), ([0x2900], .xor), ([0x2A00], .not), ([0x2B00], .andn), ([0x2C00], .shl), ([0x2D00], .shr),
  ([0x2E00], .sar), ([0x2F00], .rotl)]
theorem test_words_integer2 : ∀ x ∈ words_integer2, decode x.1 = .ok x.2 x.1.length := by decide +kernel

/-- Words of the fields family. -/
abbrev words_fields : List (List Parcel × Instr) := [
  ([0x3000], .clz), ([0x3100], .popc), ([0x3200], .brev), ([0x3300], .bfx), ([0x3400], .bfxu), ([0x3500], .bfi), ([0x3600], .permb),
  ([0x3700], .add64), ([0x3800], .sub64), ([0x3900], .mul64), ([0x3A00], .shl64), ([0x3B00], .shr64), ([0x3C00], .sar64),
  ([0x3D00], .mulw), ([0x3E02], .cmp .lt), ([0x3F02], .fcmp .lt)]
theorem test_words_fields : ∀ x ∈ words_fields, decode x.1 = .ok x.2 x.1.length := by decide +kernel

/-- Words of the float family. -/
abbrev words_float : List (List Parcel × Instr) := [
  ([0x4002], .dcmp .lt), ([0x4102], .fadd .rz), ([0x4202], .fsub .rz), ([0x4302], .fmul .rz), ([0x4402], .ffma .rz),
  ([0x4522], .fdiv 2 .rz), ([0x4622], .fsqrt 2 .rz), ([0x4700], .fmin), ([0x4800], .fmax), ([0x4900], .fabs), ([0x4A00], .fneg),
  ([0x4B20], .frcp 2), ([0x4C20], .frsq 2), ([0x4D20], .fexp2 2), ([0x4E20], .flog2 2), ([0x4F20], .fsin 2)]
theorem test_words_float : ∀ x ∈ words_float, decode x.1 = .ok x.2 x.1.length := by decide +kernel

/-- Words of the double family. -/
abbrev words_double : List (List Parcel × Instr) := [
  ([0x5020], .fcos 2), ([0x5120], .ftanh 2), ([0x5202], .frnd .rz), ([0x5302], .dadd .rz), ([0x5402], .dsub .rz),
  ([0x5502], .dmul .rz), ([0x5602], .dfma .rz), ([0x5722], .ddiv 2 .rz), ([0x5822], .dsqrt 2 .rz), ([0x5900], .dmin),
  ([0x5A00], .dmax), ([0x5B00], .dabs), ([0x5C00], .dneg), ([0x5D02], .hadd2 .rz), ([0x5E02], .hmul2 .rz), ([0x5F02], .hfma2 .rz)]
theorem test_words_double : ∀ x ∈ words_double, decode x.1 = .ok x.2 x.1.length := by decide +kernel

/-- Words of the packed crosslane family. -/
abbrev words_packed_crosslane : List (List Parcel × Instr) := [
  ([0x6000], .hmax2), ([0x6102], .pack2 .rz), ([0x6200], .unpk2), ([0x6300], .shflIdx), ([0x6403], .shflXor 3),
  ([0x6503], .shflUp 3), ([0x6603], .shflDn 3), ([0x6700], .ballot), ([0x6800], .voteAny), ([0x6900], .voteAll),
  ([0x6A00], .conflict), ([0x6B00], .join), ([0x6C00], .exit), ([0x6D00], .demote), ([0x6E03], .mand 3), ([0x6F03], .mrest 3)]
theorem test_words_packed_crosslane : ∀ x ∈ words_packed_crosslane, decode x.1 = .ok x.2 x.1.length := by decide +kernel

/-- Words of the control family. -/
abbrev words_control : List (List Parcel × Instr) := [
  ([0x7000], .leave), ([0x7100], .region), ([0x7200], .rclose), ([0x7300], .ret), ([0x7485], .trap 0x85), ([0x7500], .tret),
  ([0x7600], .bkpt), ([0x7700], .hbeat), ([0x7800], .pause)]
theorem test_words_control : ∀ x ∈ words_control, decode x.1 = .ok x.2 x.1.length := by decide +kernel

/-- Words of the scalar family. -/
abbrev words_scalar : List (List Parcel × Instr) := [
  ([0x8100, 0x1804], .smov 6 4), ([0x8101, 0x1864], .sadd 6 4 3), ([0x8102, 0x1864], .ssub 6 4 3), ([0x8103, 0x1864], .smul 6 4 3),
  ([0x8104, 0x1864], .sand 6 4 3), ([0x8105, 0x1864], .sor 6 4 3), ([0x8106, 0x1864], .sxor 6 4 3), ([0x8107, 0x1864], .sshl 6 4 3),
  ([0x8108, 0x1864], .sshr 6 4 3), ([0x8109, 0x1864], .ssar 6 4 3), ([0x810A, 0x0064], .scmp 4 3),
  ([0x810B, 0x180A], .sread 6 .tcyc), ([0x810C, 0x4004], .swrite .uhvec 4)]
theorem test_words_scalar : ∀ x ∈ words_scalar, decode x.1 = .ok x.2 x.1.length := by decide +kernel

/-- Words of the scalar immediate family. -/
abbrev words_scalar_immediate : List (List Parcel × Instr) := [
  ([0xC200, 0x1800, 0x5678, 0x1234], .sli 6 0x12345678), ([0xC201, 0x1800, 0x5678, 0x1234], .sliw 6 0x12345678),
  ([0xC202, 0x1804, 0x5678, 0x1234], .saddi 6 4 0x12345678), ([0xC203, 0x0004, 0x5678, 0x1234], .scmpi 4 0x12345678),
  ([0xC204, 0x1804, 0x5678, 0x1234], .sld 6 4 0x12345678), ([0xC205, 0x0064, 0x5678, 0x1234], .sst 3 4 0x12345678)]
theorem test_words_scalar_immediate : ∀ x ∈ words_scalar_immediate, decode x.1 = .ok x.2 x.1.length := by decide +kernel

/-- Words of the constants family. -/
abbrev words_constants : List (List Parcel × Instr) := [
  ([0xC300, 0x0000, 0x5678, 0x1234], .pushi32 0x12345678), ([0xC301, 0x0001, 0x5678, 0x1234], .pushw true 0x12345678),
  ([0x8302, 0x0214], .cvt .i32 .f64 .rz false), ([0x8304, 0x0004], .qntHse2 4), ([0x8305, 0x0004], .qntHse4 4),
  ([0x8306, 0x0004], .qntHse7 4), ([0x8328, 0x0004], .dqntHse2 2 4), ([0x8329, 0x0004], .dqntHse4 2 4),
  ([0x832A, 0x0004], .dqntHse7 2 4)]
theorem test_words_constants : ∀ x ∈ words_constants, decode x.1 = .ok x.2 x.1.length := by decide +kernel

/-- Words of the branch family. -/
abbrev words_branch : List (List Parcel × Instr) := [
  ([0x8400, 0xFF85], .brW 0xFF85), ([0xC400, 0x0000, 0x5678, 0x1234], .brL 0x12345678), ([0x8403, 0xFF85], .brcW .lt 0xFF85),
  ([0xC403, 0x0000, 0x5678, 0x1234], .brcL .lt 0x12345678)]
theorem test_words_branch : ∀ x ∈ words_branch, decode x.1 = .ok x.2 x.1.length := by decide +kernel

/-- Words of the call family. -/
abbrev words_call : List (List Parcel × Instr) := [
  ([0x8500, 0x0004], .jmps 4), ([0x8501, 0xFF85], .callW 0xFF85), ([0xC501, 0x0000, 0x5678, 0x1234], .callL 0x12345678),
  ([0x8502, 0x0004], .calls 4)]
theorem test_words_call : ∀ x ∈ words_call, decode x.1 = .ok x.2 x.1.length := by decide +kernel

/-- Words of the split family. -/
abbrev words_split : List (List Parcel × Instr) := [
  ([0xC600, 0xFF85, 0x5678, 0x1234], .split 0xFF85 0x12345678)]
theorem test_words_split : ∀ x ∈ words_split, decode x.1 = .ok x.2 x.1.length := by decide +kernel

/-- Words of the loop family. -/
abbrev words_loop : List (List Parcel × Instr) := [
  ([0xC700, 0xFF85, 0x0014, 0x0000], .loop 0xFF85 20), ([0xC701, 0x0004, 0x0014, 0x0000], .loops 4 20)]
theorem test_words_loop : ∀ x ∈ words_loop, decode x.1 = .ok x.2 x.1.length := by decide +kernel

/-- Words of the fmt family. -/
abbrev words_fmt : List (List Parcel × Instr) := [
  ([0xC800, 0x0000, 0x9A72, 0x0000], .fmtImm 0x9A72), ([0x8801, 0x0004], .fmtReg 4)]
theorem test_words_fmt : ∀ x ∈ words_fmt, decode x.1 = .ok x.2 x.1.length := by decide +kernel

/-- Words of the timer family. -/
abbrev words_timer : List (List Parcel × Instr) := [
  ([0x8900, 0x0004], .timerV 4), ([0x8901, 0x0004], .timerG 4)]
theorem test_words_timer : ∀ x ∈ words_timer, decode x.1 = .ok x.2 x.1.length := by decide +kernel

/-- Words of the reduce family. -/
abbrev words_reduce : List (List Parcel × Instr) := [
  ([0x8A27, 0x9800], .reduce 2 .xor true 6), ([0x8A0F, 0x1800], .readl 6)]
theorem test_words_reduce : ∀ x ∈ words_reduce, decode x.1 = .ok x.2 x.1.length := by decide +kernel

/-- Words of the scan family. -/
abbrev words_scan : List (List Parcel × Instr) := [
  ([0x8B27, 0x8000], .scan 2 .xor true)]
theorem test_words_scan : ∀ x ∈ words_scan, decode x.1 = .ok x.2 x.1.length := by decide +kernel

/-- Words of the load family. -/
abbrev words_load : List (List Parcel × Instr) := [
  ([0x9023, 0x0064], .ldW 2 .n16 3 4), ([0xD023, 0x0064, 0x5678, 0x1234], .ldL 2 .n16 3 4 0x12345678)]
theorem test_words_load : ∀ x ∈ words_load, decode x.1 = .ok x.2 x.1.length := by decide +kernel

/-- Words of the store family. -/
abbrev words_store : List (List Parcel × Instr) := [
  ([0x9103, 0x0064], .stW .n16 3 4), ([0xD103, 0x0064, 0x5678, 0x1234], .stL .n16 3 4 0x12345678)]
theorem test_words_store : ∀ x ∈ words_store, decode x.1 = .ok x.2 x.1.length := by decide +kernel

/-- Words of the pair address family. -/
abbrev words_pair_address : List (List Parcel × Instr) := [
  ([0x9223, 0x0000], .ldaW 2 .n16), ([0xD223, 0x0000, 0x5678, 0x1234], .ldaL 2 .n16 0x12345678), ([0x920B, 0x0000], .staW .n16),
  ([0xD20B, 0x0000, 0x5678, 0x1234], .staL .n16 0x12345678)]
theorem test_words_pair_address : ∀ x ∈ words_pair_address, decode x.1 = .ok x.2 x.1.length := by decide +kernel

/-- Words of the vector family. -/
abbrev words_vector : List (List Parcel × Instr) := [
  ([0x9320, 0x0064], .ldvW 2 3 4), ([0xD320, 0x0064, 0x5678, 0x1234], .ldvL 2 3 4 0x12345678), ([0x9301, 0x0064], .stvW 3 4),
  ([0xD301, 0x0064, 0x5678, 0x1234], .stvL 3 4 0x12345678)]
theorem test_words_vector : ∀ x ∈ words_vector, decode x.1 = .ok x.2 x.1.length := by decide +kernel

/-- Words of the scratchpad family. -/
abbrev words_scratchpad : List (List Parcel × Instr) := [
  ([0x9422, 0x0064], .ldsW 2 .fec 3 4), ([0xD422, 0x0064, 0x5678, 0x1234], .ldsL 2 .fec 3 4 0x12345678),
  ([0x9409, 0x0064], .stsW .fe 3 4), ([0xD409, 0x0064, 0x5678, 0x1234], .stsL .fe 3 4 0x12345678)]
theorem test_words_scratchpad : ∀ x ∈ words_scratchpad, decode x.1 = .ok x.2 x.1.length := by decide +kernel

/-- Words of the scatter family. -/
abbrev words_scatter : List (List Parcel × Instr) := [
  ([0x9501, 0x0064], .scataddW .f32 3 4), ([0xD501, 0x0064, 0x5678, 0x1234], .scataddL .f32 3 4 0x12345678)]
theorem test_words_scatter : ∀ x ∈ words_scatter, decode x.1 = .ok x.2 x.1.length := by decide +kernel

/-- Words of the atomic family. -/
abbrev words_atomic : List (List Parcel × Instr) := [
  ([0x962A, 0x0DE4], .atomW 2 .cas .ar .pkg 3 4), ([0xD62A, 0x0DE4, 0x5678, 0x1234], .atomL 2 .cas .ar .pkg 3 4 0x12345678)]
theorem test_words_atomic : ∀ x ∈ words_atomic, decode x.1 = .ok x.2 x.1.length := by decide +kernel

/-- Words of the fence family. -/
abbrev words_fence : List (List Parcel × Instr) := [
  ([0x9700, 0x0004], .acq 4), ([0x9701, 0x0004], .rel 4), ([0x9702, 0x0180], .fenceAcq .pkg), ([0x9703, 0x0180], .fenceRel .pkg),
  ([0x9704, 0x0180], .fenceFull .pkg), ([0x9705, 0x0064], .bind 4 3), ([0x9706, 0x0004], .unbind 4), ([0x9707, 0x0004], .waitv 4)]
theorem test_words_fence : ∀ x ∈ words_fence, decode x.1 = .ok x.2 x.1.length := by decide +kernel

/-- Words of the barrier family. -/
abbrev words_barrier : List (List Parcel × Instr) := [
  ([0x9800, 0x0004], .barArrive 4), ([0x9801, 0x0004], .barWait 4), ([0x9802, 0x0004], .barSync 4), ([0x9804, 0x0009], .nbarQuad 9),
  ([0x9805, 0x0009], .nbarDie 9), ([0x9806, 0x0009], .nbarPkg 9), ([0x9808, 0x0000], .gbar)]
theorem test_words_barrier : ∀ x ∈ words_barrier, decode x.1 = .ok x.2 x.1.length := by decide +kernel

/-- Words of the copy family. -/
abbrev words_copy : List (List Parcel × Instr) := [
  ([0x9902, 0x9864], .copy .gather true 6 4 3)]
theorem test_words_copy : ∀ x ∈ words_copy, decode x.1 = .ok x.2 x.1.length := by decide +kernel

/-- Words of the timeline family. -/
abbrev words_timeline : List (List Parcel × Instr) := [
  ([0x9A00, 0x0064], .tlwait 4 3), ([0x9A01, 0x1804], .tlread 6 4), ([0x9A02, 0x0064], .tlsig 4 3)]
theorem test_words_timeline : ∀ x ∈ words_timeline, decode x.1 = .ok x.2 x.1.length := by decide +kernel

/-- Words of the mma family. -/
abbrev words_mma : List (List Parcel × Instr) := [
  ([0xE000, 0x8064, 0x9549, 0x0002], .mma true 4 3 9 10 0xA5), ([0xE001, 0x8064, 0x9549, 0x0002], .mmaz true 4 3 9 10 0xA5),
  ([0xE002, 0x8064, 0x9549, 0x0002], .mmaBsr true 4 3 9 10 0xA5), ([0xE003, 0x8064, 0x9549, 0x0002], .mmaCsr true 4 3 9 10 0xA5)]
theorem test_words_mma : ∀ x ∈ words_mma, decode x.1 = .ok x.2 x.1.length := by decide +kernel

/-- Words of the accumulator family. -/
abbrev words_accumulator : List (List Parcel × Instr) := [
  ([0xA100, 0x00A5], .accz 0xA5), ([0xE101, 0x8064, 0x9400, 0x0026], .accld true 4 3 0xA5 9),
  ([0xE102, 0x8064, 0x9409, 0x02A6], .accst true 4 3 9 0xA5 9 .die true), ([0xA123, 0x80A5], .accrd 2 true 0xA5),
  ([0xA104, 0x80A5], .accwr true 0xA5)]
theorem test_words_accumulator : ∀ x ∈ words_accumulator, decode x.1 = .ok x.2 x.1.length := by decide +kernel

/-- Words of the ixu family. -/
abbrev words_ixu : List (List Parcel × Instr) := [
  ([0xA200, 0x0024], .ixset .or 4), ([0xA221, 0x1800], .ixnext 2 6), ([0xA202, 0x0004], .ixsp 4), ([0xA203, 0x1800], .ixcnt 6)]
theorem test_words_ixu : ∀ x ∈ words_ixu, decode x.1 = .ok x.2 x.1.length := by decide +kernel

/-- Words of the power family. -/
abbrev words_power : List (List Parcel × Instr) := [
  ([0xA800, 0x0002], .pwrprio 2), ([0xA801, 0x1800], .pwrread 6)]
theorem test_words_power : ∀ x ∈ words_power, decode x.1 = .ok x.2 x.1.length := by decide +kernel

/-- Words of the probe family. -/
abbrev words_probe : List (List Parcel × Instr) := [
  ([0xA900, 0x1804], .xprobe 6 4)]
theorem test_words_probe : ∀ x ∈ words_probe, decode x.1 = .ok x.2 x.1.length := by decide +kernel

/-- Words of the activity family. -/
abbrev words_activity : List (List Parcel × Instr) := [
  ([0xB000, 0x1800], .actOpen 6), ([0xF001, 0x1864, 0x0149, 0x0000], .actStep 6 4 3 9 10), ([0xB002, 0x0004], .actClose 4),
  ([0xB003, 0x0004], .actAbandon 4), ([0xB004, 0x1804], .actStat 6 4), ([0xB005, 0x0004], .actSkip 4),
  ([0xB006, 0x0004], .actRetry 4), ([0xB007, 0x0004], .cret 4)]
theorem test_words_activity : ∀ x ∈ words_activity, decode x.1 = .ok x.2 x.1.length := by decide +kernel

/-- Words of the state store family. -/
abbrev words_state_store : List (List Parcel × Instr) := [
  ([0xB100, 0x1804], .ssOpen 6 4), ([0xF101, 0x1864, 0x0149, 0x0000], .ssLoad 6 4 3 9 10),
  ([0xF102, 0x0064, 0x0149, 0x0000], .ssStore 4 3 9 10), ([0xB103, 0x0004], .ssSnap 4), ([0xB104, 0x1864], .ssRoll 6 4 3),
  ([0xB105, 0x1864], .ssFork 6 4 3), ([0xB106, 0x0004], .ssDrop 4), ([0xB107, 0x0064], .ssInfo 4 3),
  ([0xB108, 0x9864], .ssHeads true 6 4 3)]
theorem test_words_state_store : ∀ x ∈ words_state_store, decode x.1 = .ok x.2 x.1.length := by decide +kernel

/-- Words of the pool family. -/
abbrev words_pool : List (List Parcel × Instr) := [
  ([0xB200, 0x1804], .poolTake 6 4), ([0xB201, 0x0064], .poolGive 4 3)]
theorem test_words_pool : ∀ x ∈ words_pool, decode x.1 = .ok x.2 x.1.length := by decide +kernel

/-- Words of the launch family. -/
abbrev words_launch : List (List Parcel × Instr) := [
  ([0xB300, 0x0064], .launch 4 3)]
theorem test_words_launch : ∀ x ∈ words_launch, decode x.1 = .ok x.2 x.1.length := by decide +kernel

/-- Words of the debug family. -/
abbrev words_debug : List (List Parcel × Instr) := [
  ([0xB400, 0x1804], .dbgRd 6 4), ([0xB401, 0x0064], .dbgWr 4 3)]
theorem test_words_debug : ∀ x ∈ words_debug, decode x.1 = .ok x.2 x.1.length := by decide +kernel


/-- Issue: a team that runs; too few entries, too many, and one that is pending inside a window. -/
theorem witness_IssueEffect : runs w ∧ fragOf (tm w) (fr w).num = some (fr w) ∧
    ((integerTable .add).map (·.1) = some 2 ∧ runs (st [7]) ∧ (fr (st [7])).depth < 2) ∧
    (let s := modTeam (st [7, 8, 9]) 0 fun t => { t with stackDecl := 3 }
     (floatTable .unpk2).map (fun x => (x.1, x.2.1)) = some (1, 2) ∧ runs s ∧ 1 ≤ (fr s).depth ∧
      (tm s).stackDecl < (fr s).depth + 2 - 1) ∧
    (let s := modTeam (st [7, 8]) 0 fun t => { t with sb := [⟨0, (fr w).num, [(0, 3, .pos 2)], 0x40, 1, false⟩] }
     runs s ∧ 2 ≤ (fr s).depth ∧ (fr s).depth + 1 - 2 ≤ (tm s).stackDecl ∧
      ∃ e ∈ (tm s).pendingTop (fr s) 2, e.frag = (fr s).num ∧ 0 < e.window) := by decide +kernel

/-- Pushes, moves, and locals within and beyond the declared ones: of four locals the last is 3, of pairs the last begins at 2. -/
theorem witness_StackMoves :
    ((pushTable w (fr w) (.pushs 31)).map (fun x => (x.1, x.2.1)) = some ([31], 1) ∧ ready w { pushes := 1, scalars := [31] }) ∧
    (moveTable (.pick 62) = some (63, 62 :: List.range 63) ∧
      let s := modTeam (st (List.replicate 63 5)) 0 fun t => { t with stackDecl := 64 }
      ready s { pops := 63, pushes := 64, moves := true }) ∧
    ((3 : BitVec 8).toNat < (tm w).localsDecl ∧ ready w { pushes := 1, moves := true, locals := [3] } ∧
      ready (st [7]) { pops := 1, moves := true, retarget := true }) ∧
    ((2 : BitVec 8).toNat + 1 < (tm w).localsDecl ∧ ready w { pushes := 2, moves := true, locals := [2, 3] } ∧
      ready (st [7, 8]) { pops := 2, moves := true, retarget := true }) ∧
    (tm w).localsDecl ≤ (4 : BitVec 8).toNat ∧ (tm w).localsDecl ≤ (3 : BitVec 8).toNat + 1 := by decide +kernel

/-- The integer instructions, pairs, and both kinds of condition. -/
theorem witness_IntegerResults : ((integerTable .add).map (·.1) = some 2 ∧ ready (st [1, 2]) { pops := 2, pushes := 1 }) ∧
    ((pairTable .mul64).map (·.1) = some 4 ∧ ready (st [1, 2, 3, 4]) { pops := 4, pushes := 2 }) ∧
    (Cc.hs ∉ [Cc.un, .or] ∧ ready (st [1, 2]) { pops := 2, pushes := 1 }) ∧ Cc.un ∈ [Cc.un, .or] ∧
    runs w := by decide +kernel

/-- Division by zero without and with DIVT, and a division that DIVT lets pass. -/
theorem witness_DivideResults : (divideTable (.div 15)).map (·.1) = some 15 ∧ ready (st [0, 2]) { pops := 2, pushes := 1 } ∧
    (tm (st [0, 2])).sb.length < 16 ∧ (fr (st [0, 2])).fmt.getLsbD 15 = false ∧
    (let s := fm (fun x => { x with fmt := 0x8000 }) (st [1, 2])
     ready s { pops := 2, pushes := 1 } ∧ ∀ l ∈ (tm s).activeLanes (fr s), (tm s).opd l 0 ≠ 0) ∧
    (let s := fm (fun x => { x with fmt := 0x8000 }) (st [0, 2])
     ready s { pops := 2, pushes := 1 } ∧ (fr s).fmt.getLsbD 15 = true ∧ ∃ l ∈ (tm s).activeLanes (fr s), (tm s).opd l 0 = 0) := by
  decide +kernel

/-- Comparisons of both widths, and the conditions that have none. -/
theorem witness_FloatCompareRule : (floatCmpTable (.fcmp .un)).map (·.1) = some 2 ∧ ready (st [1, 2]) { pops := 2, pushes := 1 } ∧
    (floatCmpTable (.dcmp .ge)).map (·.1) = some 4 ∧ ready (st [1, 2, 3, 4]) { pops := 4, pushes := 1 } := by decide +kernel

/-- A minimum. -/
theorem witness_MinMaxRule : (minMaxTable .fmin).map (fun x => (x.1, x.2.1)) = some (2, 1) ∧ ready (st [1, 2]) { pops := 2, pushes := 1 } := by
  decide +kernel

/-- A sum, a quotient with a window, a conversion and the two that are illegal. -/
theorem witness_FloatResults :
    ((floatTable (.fadd .rn)).map (fun x => (x.1, x.2.1)) = some (2, 1) ∧ ready (st [1, 2]) { pops := 2, pushes := 1 }) ∧
    ((longFloatTable (.ddiv 3 .rz)).map (fun x => (x.1, x.2.1, x.2.2.1)) = some (3, 4, 2) ∧ ready (st [1, 2, 3, 4]) { pops := 4, pushes := 2 } ∧
      (tm (st [1, 2, 3, 4])).sb.length < 16) ∧
    (CvtTy.i32 ≠ CvtTy.f64 ∧ (false && CvtTy.f64.isFloat) = false ∧ CvtTy.i32.is64 = false ∧ CvtTy.f64.is64 = true ∧
      ready (st [1]) { pops := 1, pushes := 2 }) ∧
    (true && CvtTy.f16.isFloat) = true ∧ runs w := by decide +kernel

/-- The finite numbers 1, 2 and −1, and two whose exact sum is zero. -/
theorem witness_RoundingRule : f32F ∈ [f16F, bf16F, f32F, f64F] ∧ finiteBits f32F 0x3F800000 ∧ finiteBits f32F 0x40000000 ∧
    finiteBits f32F 0xBF800000 ∧ 0x3F800000 / f32F.signBit % 2 ≠ 0xBF800000 / f32F.signBit % 2 := by decide +kernel
/-- Their values. -/
theorem witness_RoundingRule_values : valueOf f32F 0x40000000 ≠ 0 ∧ 0 ≤ valueOf f32F 0x3F800000 ∧
    valueOf f32F 0x3F800000 + valueOf f32F 0xBF800000 = 0 := by decide +kernel
/-- Operands that are NaNs, infinities and zeros, each with its result; a subnormal flushed; a zero and its own sign. -/
theorem witness_RoundingRule_special : (specialSum f32F true 0x7F800000 0x7F800000 = some ⟨0x7FC00000, flNV⟩ ∧
      specialProduct f32F 0x80000000 0x7F800000 = some ⟨0x7FC00000, flNV⟩ ∧ specialFused f32F 0 0xFF800000 0x7F800001 = some ⟨0x7FC00000, flNV⟩ ∧
      specialFused f32F 0x3F800000 0x7FC00001 0 = some ⟨0x7FC00000, 0⟩ ∧ specialQuotient f32F 0xBF800000 0 = some ⟨0xFF800000, flDZ⟩ ∧
      specialRoot f32F 0xBF800000 = some ⟨0x7FC00000, flNV⟩ ∧ specialRoot f32F 0x80000000 = some ⟨0x80000000, 0⟩ ∧
      nanRule f32F [0x7F800001] = some ⟨0x7FC00000, flNV⟩) ∧
    (nanBits f64F 0x7FF0000000000001 = true ∧ infiniteBits f64F 0xFFF0000000000000 = true ∧ floatType .f64 = some f64F ∧
      floatType .f16 = some f16F ∧ intType .n64 = some (false, 64)) ∧
    (flushed f32F true 0x80000001 = 0x80000000 ∧ flushedResult f32F ⟨0x80000001, 0⟩ = ⟨0x80000000, flUF ||| flNX⟩ ∧
      negBits f32F 0x80000000 = negBits f32F 0x80000000) := by decide +kernel

/-- The shuffles at the greatest count, and the first that is illegal. -/
theorem witness_ShuffleResults : (shuffleTable (.shflUp 31)).map (·.1) = some 1 ∧ ready (st [1]) { pops := 1, pushes := 1 } ∧
    (shuffleTable .shflIdx).map (·.1) = some 2 ∧ ready (st [1, 2]) { pops := 2, pushes := 1 } ∧ 32 ≤ (32 : BitVec 8).toNat := by decide +kernel

/-- A protected team whose two sides hold different flags. -/
def torn : State := modTeam (st [1]) 0 fun t =>
  { t with
    isProtected := true
    lanes := t.lanes.mapIdx fun i (l : Lane) => { l with stack := [Entry.clean (if i % 2 = 0 then 1 else 0)] } }

/-- Votes, reductions and their broadcast, a torn pair, scans and the integer operations. -/
theorem witness_TeamWideResults : ready (st [1]) { pops := 1 } ∧ ready (st [1]) { pops := 1, scalars := [31] } ∧
    ready (st [1]) { pops := 1, pushes := 1, scalars := [31] } ∧ (tm (st [1])).sb.length < 16 ∧ sidesOf (tm (st [1])) = [0] ∧
    (ready torn { pops := 1 } ∧ (tm torn).isProtected = true ∧
      decide (∃ l ∈ (tm torn).sources (fr torn) 0, (tm torn).opd l 0 ≠ 0) ≠ decide (∃ l ∈ (tm torn).sources (fr torn) 1, (tm torn).opd l 0 ≠ 0)) ∧
    ready (st [1]) { pops := 1, pushes := 1 } ∧ (integerOp .xor).isSome = true := by decide +kernel

/-- Sides of a protected team whose answers differ, for each instruction. -/
theorem witness_TeamWideResults_torn : (tm torn).isProtected = true ∧ ready torn { pops := 1 } ∧ ready torn { pops := 1, scalars := [31] } ∧
    ready torn { pops := 1, pushes := 1, scalars := [31] } ∧
    decide (∀ l ∈ (tm torn).sources (fr torn) 0, (tm torn).opd l 0 ≠ 0) ≠ decide (∀ l ∈ (tm torn).sources (fr torn) 1, (tm torn).opd l 0 ≠ 0) ∧
    (((tm torn).sources (fr torn) 0).head?.map fun l => (tm torn).opd l 0).getD 0 ≠
      (((tm torn).sources (fr torn) 1).head?.map fun l => (tm torn).opd l 0).getD 0 ∧
    (reduceSide (tm torn) (fr torn) .add 0 1024).1 ≠ (reduceSide (tm torn) (fr torn) .add 1 1024).1 := by decide +kernel

/-- No lane at all, and the lowest present lane. -/
theorem witness_ReduceIdentities :
    (let s := fm (fun x => { x with active := 0 }) (st [1])
     ∀ v, v < 2 → sourceVals (tm s) (fr s) 0 2 v = none) ∧
    ∀ v, v < (tm w).vis 0 → ¬ (fr w).active.getLsbD ((tm w).sameSide 0 v) = true := by decide +kernel

/-- A scalar instruction, and a team's 32 scalars. -/
theorem witness_ScalarResults : (scalarTable (getS (tm w)) (.sadd 31 0 1)).map (fun x => (x.1, x.2.1)) = some (some 31, [31, 0, 1]) ∧
    ready w { scalars := [31, 0, 1] } ∧ (tm w).scalars.length = 32 := by decide +kernel

/-- A lane and a scalar instruction where no loop ends. -/
theorem witness_RegisterFrames : NoLoopSplit (tm w) (fr w) ∧ laneShape .add = some (2, 1) ∧ laneShape .unpk2 = some (1, 2) ∧
    ready (st [1, 2]) { pops := 2, pushes := 1 } ∧ (scalarTable (getS (tm w)) (.scmp 1 2)).map (fun x => (x.1, x.2.1)) = some (none, [1, 2]) ∧
    ready w { scalars := [1, 2] } := by decide +kernel

/-- Special registers read and written, one that is not writable, FMT values of both kinds. -/
theorem witness_SpecialResults : ready w { scalars := [31] } ∧ ready w {} ∧ (specWritten (tm w) .lane 5).isNone = true ∧
    (specWritten (tm w) .cc 5).isSome = true ∧ fmtDefined 0xFAAA ∧ fmtDefined 0x2AA ∧ ¬ fmtDefined 0x10000 ∧ ¬ fmtDefined 0xB ∧
    (let s := sc 5 0x2AA
     ready s { scalars := [5] } ∧ fmtDefined (lo32 (getS (tm s) 5))) ∧
    (let s := sc 5 0x300
     ready s { scalars := [5] } ∧ ¬ fmtDefined (lo32 (getS (tm s) 5))) := by decide +kernel

/-- A special register by its number, and a grant within its field. -/
theorem witness_SpecialResults_table : SpecReg.ofCode 10 = some .tcyc ∧ (getQuad w 0).grant < 4096 := by decide +kernel

/-- A branch, a branch not taken, a jump. -/
theorem witness_BranchResults : (branchTable (tm w) (fr w) (.brW 0x8000)).map (·.2.1) = some true ∧
    (branchTable (tm w) (fr w) (.brcL .mz 5)).map (·.2.1) = some false ∧ ready w { steps := false } ∧
    (branchTable (tm w) (fr w) (.jmps 7)).map (·.1) = some [7] ∧ ready w { scalars := [7], steps := false } := by decide +kernel

/-- A state whose team has these calls open. -/
def calling (l : List CallEntry) : State := modTeam w 0 fun t => { t with calls := l }

/-- Fifteen calls and sixteen; a return past a newer call of another fragment, and one with none of its own. -/
theorem witness_CallReturn : (callTable (tm w) (fr w) (.callW 5)).map (·.1) = some [] ∧
    (let s := calling (List.replicate 15 ⟨0x40, 0⟩)
     ready s { steps := false } ∧ (tm s).calls.length < 16) ∧
    (let s := calling (List.replicate 16 ⟨0x40, 0⟩)
     ready s { steps := false } ∧ 16 ≤ (tm s).calls.length) ∧
    (let s := calling [⟨0x50, 9⟩, ⟨0x40, 0⟩]
     ready s { steps := false } ∧ (tm s).calls = [⟨0x50, 9⟩] ++ ⟨0x40, 0⟩ :: [] ∧ (0 : Nat) = (fr s).num ∧ (9 : Nat) ≠ (fr s).num) ∧
    (let s := calling [⟨0x50, 9⟩]
     ready s { steps := false } ∧ ∀ x ∈ (tm s).calls, x.owner ≠ (fr s).num) := by decide +kernel

/-- The last slot, and the first that is none. -/
theorem witness_MaskResults : (3 : BitVec 8).toNat < 4 ∧ ready (st [1]) { pops := 1 } ∧ ready w {} ∧ 4 ≤ (4 : BitVec 8).toNat := by decide +kernel

/-- EXIT in a handler, with no lane, of one of two lanes, and of the last. -/
theorem witness_ExitResults :
    (let s := fm fun x => { x with handler := true }
     ready s {} ∧ (fr s).handler = true) ∧
    (let s := fm fun x => { x with active := 0 }
     ready s {} ∧ (fr s).handler = false ∧ (fr s).active = 0) ∧
    (let s := fm fun x => { x with active := 1 }
     ready s {} ∧ (fr s).handler = false ∧ (fr s).active ≠ 0 ∧ (fr s).member &&& ~~~(fr s).active ≠ 0 ∧
      fullMask (tm s).width &&& ~~~((tm s).exited ||| (fr s).active) ≠ 0) ∧
    (ready w {} ∧ (fr w).handler = false ∧ (fr w).active ≠ 0 ∧ fullMask (tm w).width &&& ~~~((tm w).exited ||| (fr w).active) = 0 ∧
      (tm w).region = none ∧ (launchOf w (tm w).launch).isSome = true ∧ unperformed w (tm w) = false ∧ w.fabric.msgs = []) ∧
    (let f := { fr w with num := 9, st := .parked, wait := some (.fullEmpty true 3 88 [[⟨0, 0, 16⟩]] 2 0) }
     let s := modTeam w 0 fun t => { t with frags := t.frags ++ [f] }
     unperformed s (tm s) = true) ∧
    (let m : PodMsg := { team := 0, frag := 9, lanes := 1, pkg := 1, va := 0x00A0000000001040, req := .store, pc := 5, time := 5 }
     let s := { w with fabric := { w.fabric with msgs := [m] } }
     unperformed s (tm s) = false ∧ (s.fabric.msgs.any fun m => m.isStore (tm s).uid) = true) ∧
    fragOf (tm w) (fr w).num = some (fr w) := by decide +kernel

/-- Lane 0 holds 1 and lane 1 zero. -/
def flags01 (s : State := w) : State := modTeam (st [1] s) 0 fun t =>
  { t with lanes := t.lanes.mapIdx fun i (l : Lane) => { l with stack := [Entry.clean (if i = 0 then 1 else 0)] } }
/-- n more split entries, all HOLD. -/
def crowd (n : Nat) (s : State) : State := modTeam s 0 fun t =>
  { t with frags := t.frags ++ (List.range n).map fun k => ({ fr w with num := 10 + k, st := .hold } : Frag) }

/-- A split with both sides, with room for both exactly, and with room for one only; and one without an else side. -/
theorem witness_SplitResults :
    (let s := crowd 61 flags01
     ready s { pops := 1, steps := false, closes := true } ∧ (tm s).frags.length + 2 ≤ 64 ∧ (tm s).region = none ∧ (fr s).member ≠ 0 ∧
      (fr s).active &&& ~~~trueLanes (tm s) (fr s) ≠ 0 ∧ (trueLanes (tm s) (fr s) ||| ((fr s).member &&& ~~~(fr s).active)) ≠ 0) ∧
    (let s := crowd 62 flags01
     ready s { pops := 1, steps := false, closes := true } ∧ 64 < (tm s).frags.length + 2) ∧
    (let s := st [1]
     ready s { pops := 1, steps := false, closes := true } ∧ (fr s).active &&& ~~~trueLanes (tm s) (fr s) = 0) := by decide +kernel

/-- A join record above the running fragment, of which another child is in a state. -/
def joining (c : Frag → Frag) (g : Frag → Frag := id) : State := modTeam (st [7]) 0 fun t =>
  let f := fr (st [7])
  let p : Frag := { f with num := 5, st := .hold, live := 2, pc := f.pc }
  { t with frags := [g { f with parent := some 5, member := 1, active := 1, joinPc := f.pc },
      c { f with num := 6, parent := some 5, member := 2, active := 2, joinPc := f.pc, st := .arrived }, p] }

/-- JOIN without a record, under a trap marker, at another address, before the other child, and last, with equal and with other depths. -/
theorem witness_JoinResults :
    ((((fr w).parent.bind (fragOf (tm w))) = none) ∧ ready w { steps := false, closes := true }) ∧
    (let s := modTeam (joining id) 0 fun t => modFrag t 5 fun x => { x with trapMarker := true }
     ready s { steps := false, closes := true } ∧ (((fr s).parent.bind (fragOf (tm s))).map (·.trapMarker)) = some true) ∧
    (let s := joining id fun x => { x with joinPc := 0x1000 }
     ready s { steps := false, closes := true } ∧ (((fr s).parent.bind (fragOf (tm s))).map (·.trapMarker)) = some false ∧
      (fr s).joinPc ≠ (fr s).pc) ∧
    (∀ c ∈ [(fun x => x : Frag → Frag), (fun x => { x with st := .ready }), (fun x => { x with depth := 3 })],
      let s := joining c
      let arrived := modFrag (tm s) (fr s).num fun x => { x with st := .arrived }
      let cs := arrived.frags.filter fun c => c.parent = some 5 ∧ c.st = .arrived
      ready s { steps := false, closes := true } ∧ (fr s).joinPc = (fr s).pc ∧ (tm s).region = none ∧ (∀ c ∈ cs, c.num ≠ 5)) ∧
    (let s := joining id
     let arrived := modFrag (tm s) (fr s).num fun x => { x with st := .arrived }
     (arrived.frags.filter fun c => c.parent = some 5 ∧ c.st = .arrived).length = 2) := by decide +kernel

/-- A fragment whose last members exit: under no record, under one whose LIVE is 1, before the other child, and last with equal and other depths. -/
theorem witness_ExitResults_record :
    (let s := modTeam w 0 fun t => { t with frags := [{ fr w with member := 1, active := 1 }, { fr w with num := 6, member := 2, active := 2, st := .ready }] }
     ready s {} ∧ (fr s).handler = false ∧ (fr s).active ≠ 0 ∧ (fr s).member &&& ~~~(fr s).active = 0 ∧
      fullMask (tm s).width &&& ~~~((tm s).exited ||| (fr s).active) ≠ 0 ∧ (fr s).parent = none) ∧
    (∀ x ∈ [((fun x => { x with st := .ready } : Frag → Frag), 1, 0), ((fun x => { x with st := .ready }), 2, 0), (id, 2, 1), ((fun x => { x with depth := 3 }), 2, 1)],
      let s := modTeam (joining x.1) 0 fun t => modFrag t 5 fun y => { y with live := x.2.1 }
      let cs := (tm s).frags.filter fun c => c.parent = some 5 ∧ c.st = .arrived
      ready s {} ∧ (fr s).handler = false ∧ (fr s).active ≠ 0 ∧ (fr s).member &&& ~~~(fr s).active = 0 ∧
      fullMask (tm s).width &&& ~~~((tm s).exited ||| (fr s).active) ≠ 0 ∧ ((fr s).parent.bind (fragOf (tm s))).map (fun p => (p.num, p.live, p.parent)) = some (5, x.2.1, none) ∧
      5 ≠ (fr s).num ∧ 5 ∈ ancestors (tm s) 64 (fr s).num ∧ cs.length = x.2.2 ∧
      ∀ c ∈ cs, c.num ≠ 5 ∧ c.num ≠ (fr s).num ∧ c.num ∉ ancestors (tm s) 64 (fr s).num) := by decide +kernel

/-- The state with a stack of loops. -/
def looping (l : List LoopEntry) (s : State := w) : State := modTeam s 0 fun t => { t with loops := l }
/-- A loop that ends at the running instruction. -/
abbrev here (n : Word) : LoopEntry := { start := 0x10, last := (fr w).pc, count := n }

/-- LOOP with a short body, another live fragment, a count of zero, three loops open and four; LEAVE without one, with others live, with one. -/
theorem witness_LoopResults :
    ((loopTable (tm w) (.loop 5 3)).map (·.2.2) = some 3 ∧ (loopTable (tm w) (.loop 0 4)).map (·.2) = some (0, 4)) ∧ ready w {} ∧
    (let s := modTeam w 0 fun t => { t with frags := t.frags ++ [({ fr w with num := 4, st := .ready } : Frag)] }
     ready s {} ∧ (tm s).othersLive (fr s) = true) ∧
    (ready w { scalars := [7] } ∧ (tm w).othersLive (fr w) = false ∧ (loopTable (tm w) (.loops 7 4)).map (·.1) = some [7]) ∧
    (let s := looping (List.replicate 3 (here 5))
     ready s {} ∧ (tm s).loops.length < 4 ∧ (tm s).othersLive (fr s) = false) ∧
    (let s := looping (List.replicate 4 (here 5))
     ready s {} ∧ 4 ≤ (tm s).loops.length ∧ (tm s).othersLive (fr s) = false) ∧
    ((tm w).loops = [] ∧ ready w { steps := false }) ∧
    (let s := looping [here 5]
     ready s { steps := false } ∧ (tm s).loops = here 5 :: [] ∧ (tm s).othersLive (fr s) = false) ∧
    (let s := modTeam (looping [here 5]) 0 fun t => { t with frags := t.frags ++ [({ fr w with num := 4, st := .ready } : Frag)] }
     ready s { steps := false } ∧ (tm s).othersLive (fr s) = true) ∧
    (∀ l ∈ [[here 1, { here 7 with last := 0x99 }], [here 2]],
      let s := fm (fun x => { x with pc := x.pc + 2 }) (looping l)
      teamOf s (tm s).uid = some (tm s) ∧ fragOf (tm s) (fr w).num = some (fr s) ∧ (fr s).pc = (fr w).pc + BitVec.ofNat 64 2 ∧
        (fr s).st ≠ .hold ∧ (tm s).othersLive (fr s) = false) := by decide +kernel

/-- Loops that end together: the outermost goes back; and one that ends while another fragment lives. -/
theorem witness_LoopResults_shared :
    (let l := [here 1, here 1, here 3]
     let s := fm (fun x => { x with pc := x.pc + 2 }) (looping l)
     teamOf s (tm s).uid = some (tm s) ∧ fragOf (tm s) (fr w).num = some (fr s) ∧ (fr s).pc = (fr w).pc + BitVec.ofNat 64 2 ∧ (fr s).st ≠ .hold ∧
      (tm s).othersLive (fr s) = false ∧ (tm s).loops = here 1 :: ([here 1] ++ here 3 :: []) ∧ (∀ x ∈ [here 1], x.last = (fr w).pc ∧ x.count.toNat = 1) ∧
      (here 3).last = (fr w).pc ∧ (here 3).count.toNat ≠ 1) ∧
    (let s := modTeam (fm (fun x => { x with pc := x.pc + 2 }) (looping [here 5])) 0 fun t =>
       { t with frags := t.frags ++ [({ fr w with num := 4, st := .ready } : Frag)] }
     (fr s).pc = (fr w).pc + BitVec.ofNat 64 2 ∧ (fr s).st ≠ .hold ∧ (tm s).loops = here 5 :: [] ∧ (tm s).othersLive (fr s) = true) := by decide +kernel

/-- The state with a handler installed, and loops saved by traps. -/
def handled (u : DWord) (l : List (List LoopEntry) := []) : State := modTeam w 0 fun t => { t with uhvec := u, trapLoops := l }

/-- A trap that enters, one without a handler, one at depth 2, one without room; software traps with and without lanes. -/
theorem witness_TrapEntry :
    (let s := handled 0x100 [[]]
     runs s ∧ (tm s).uhvec ≠ 0 ∧ (tm s).trapLoops.length < 2 ∧ (tm s).frags.length < 64 ∧ (tm s).region = none) ∧
    ((tm w).uhvec = 0 ∧ 2 ≤ (tm (handled 0x100 [[], []])).trapLoops.length) ∧
    (let s := crowd 63 (handled 0x100)
     runs s ∧ (tm s).uhvec ≠ 0 ∧ (tm s).trapLoops.length < 2 ∧ 64 ≤ (tm s).frags.length) ∧
    (ready w { steps := false } ∧ (fr w).active ≠ 0 ∧ (tm w).region = none) ∧
    (let s := fm fun x => { x with active := 0 }
     ready s { steps := false } ∧ (fr s).active = 0) ∧ ready w {} := by decide +kernel

/-- A handler under a trap marker. -/
def inTrap : State := modTeam (st [7]) 0 fun t =>
  let f := fr (st [7])
  { t with
    trapLoops := [[]]
    frags := [{ f with parent := some 5, handler := true, member := 1, active := 1 }, { f with num := 5, st := .hold, trapMarker := true, low := 1 }] }

/-- TRET outside a handler, and in one. -/
theorem witness_TrapReturn : ((tm w).marker = none ∧ ready w { steps := false }) ∧
    (ready inTrap { steps := false } ∧ (tm inTrap).marker.isSome = true ∧ ((tm inTrap).marker.map (·.num)) = some 5 ∧
      fragOf (tm inTrap) 5 = (tm inTrap).marker ∧ (5 : Nat) ≠ (fr inTrap).num ∧ (fr inTrap).handler = true ∧ (fr inTrap).parent = some 5 ∧
      ∀ g ∈ (tm inTrap).frags, g.num ≠ (fr inTrap).num → Team.under (tm inTrap) 5 64 g.num = false) := by decide +kernel

/-- An open region. -/
def region : Region :=
  { rentry := 0x42, frag := (fr w).num, d0 := 0, fmt := 0, cc := 0, active := 3, member := 3, m0 := 0, m1 := 0, m2 := 0, m3 := 0, loops := [],
    operands := [], restarts := 0, buffer := [], pendingStores := 0, closing := none, kept := false }
/-- The state with it open. -/
def inRegion : State := modTeam w 0 fun t => { t with region := some region }

/-- No region, an open one with an empty buffer, a launch that a heartbeat reaches. -/
theorem witness_RegionResults : (ready w { closes := true } ∧ (tm w).region = none) ∧
    (ready inRegion { closes := true } ∧ (tm inRegion).region = some region ∧ region.buffer = []) ∧
    (ready w {} ∧ (launchOf w (tm w).launch).isSome = true) := by decide +kernel

/-- A team that no bench's claim names; an open region without pending stores. -/
theorem witness_TrapEntry_region : (∀ c ∈ w.cores, ∀ b ∈ c.2.benches, b.claimant ≠ some (tm w).uid) ∧
    runs inRegion ∧ (∀ r, (tm inRegion).region = some r → r.pendingStores = 0) ∧ (fr inRegion).active ≠ 0 := by
  refine ⟨by decide +kernel, by decide +kernel, ?_, by decide +kernel⟩
  rw [show (tm inRegion).region = some region by decide +kernel]
  rintro r ⟨⟩
  rfl


/-- Whether every access has a place. -/
def allAt (l : List Fx) : Bool := l.all fun x => match x with
  | .at _ => true
  | _ => false
theorem allAt_iff (l : List Fx) : allAt l = true ↔ AllPlaced l := by
  simp only [allAt, List.all_eq_true, AllPlaced]
  refine forall₂_congr fun x _ => ?_
  cases x <;> simp
/-- What a checked step found. -/
def got {α β : Type} (r : Except β α) : Bool := match r with
  | .ok _ => true
  | .error _ => false
/-- Whether an access has a place. -/
def placed (x : State × Fx) : Bool := allAt [x.2]

/-- A state whose lanes give address 0x1040 with s1. -/
def ld (ws : List Word := [0x40]) (a : DWord := 0x1000) : State := sc 1 a (st ws)

/-- A load that has a place; addresses that are not global, and not aligned. -/
theorem witness_LoadResults :
    (loadTable (.ldW 1 .w32 0 1)).map (fun x => (x.1, x.2.1, x.2.2.1, x.2.2.2.1, x.2.2.2.2.2.1)) = some (1, 1, 1, 4, [1]) ∧
    ready ld { pops := 1, pushes := 1, access := true, scalars := [1] } ∧ (tm ld).sb.length < 16 ∧
    AddressesOk 4 ((tm ld).doers (fr ld)) (indexedAddress 1 0 0 (tm ld)) ∧ (tm ld).doers (fr ld) = [0, 1] ∧
    allAt (locateAll (issued (.ldW 1 .w32 0 1) ld (tm ld) (fr ld) { pops := 1, pushes := 1 }) (tm ld) .read
      (withAddress [0, 1] (indexedAddress 1 0 0 (tm ld)))).2 ∧
    (let s := ld [0] 0x100000000000000
     ready s { pops := 1, pushes := 1, access := true, scalars := [1] } ∧ 2 ^ 56 ≤ (indexedAddress 1 0 0 (tm s) 0).toNat) ∧
    (let s := ld [0xFFFFFFFE] 0x100000000000000
     (indexedAddress 1 0 0 (tm s) 0).toNat < 2 ^ 56 ∧ (indexedAddress 1 0 0 (tm s) 0).toNat % 4 ≠ 0) := by decide +kernel

/-- A line with a byte at its end. -/
def someEntry (s : State) : Option TlbEntry := match locate s (tm s) 0x103C .write with
  | (_, .at (.mem _ e)) => some e
  | _ => none

/-- Stores that have a place, the last word of a line among them. -/
theorem witness_StoreResults :
    (let s := ld [0x3C, 7]
     (storeTable (.stW .w32 0 1)).map (fun x => (x.1, x.2.1, x.2.2.1)) = some (2, 4, [1]) ∧
     ready s { pops := 2, access := true, scalars := [1], steps := false } ∧ (tm s).region = none ∧
     AddressesOk 4 ((tm s).doers (fr s)) (indexedAddress 1 0 0 (tm s)) ∧ (tm s).isProtected = false ∧
     allAt (locateAll (issued (.stW .w32 0 1) s (tm s) (fr s) { pops := 2 }) (tm s) .write
      (withAddress [0, 1] (indexedAddress 1 0 0 (tm s)))).2) ∧
    Canonical w ∧ (someEntry w).isSome = true ∧ 0x103C % 64 + (storedBytes 1 1 4 (tm (st [0, 7])) 0).length ≤ 64 := by decide +kernel

/-- The scratchpad pass of a lane. -/
def oneRead : SpRead := { lane := 0, core := 0, off := 0x140 }

/-- LDS plain, at empty granules and at full ones; STS; a pass whose granule is empty and one whose granule is full. -/
theorem witness_ScratchResults :
    (let s := ld [0x40] 0x100
     (spLoadTable (.ldsW 1 .plain 0 1)).map (fun x => (x.1, x.2.2.1)) = some (1, 1) ∧ (tm s).sb.length < 16 ∧
     ready s { pops := 1, pushes := 1, access := true, scalars := [1] } ∧
     ready s { pops := 1, pushes := 1, access := true, scalars := [1], closed := true } ∧
     (tm s).doers (fr s) = [0, 1] ∧ spPlace s (tm s) (indexedAddress 1 0 0 (tm s) 0) = some (0, 0x140)) ∧
    (let s := ld [0x40, 7] 0x100
     (spStoreTable (.stsW .fe 0 1)).map (fun x => (x.1, x.2.1)) = some (true, 1) ∧ (tm s).region = none ∧ (tm s).isProtected = false ∧
     ready s { pops := 2, access := true, scalars := [1], closed := true, steps := false } ∧
     (spPlace s (tm s) (indexedAddress 1 0 0 (tm s) 1)).isSome = true) ∧
    fullFor w (tm w) oneRead = false ∧ fullFor (setFull w 0 0x140 true) (tm w) oneRead = true := by decide +kernel

/-- A whole row, a poisoned line and a sound one, a line that holds a dirty byte. -/
theorem witness_MemoryUpdates : Canonical w ∧ (List.replicate 128 (5 : Byte)).length = 128 ∧ 0x1038 % 64 + 8 ≤ 64 ∧
    homePoison (homeTouch w (0x1038 / 64) 0 0 true) (0x1038 / 64) = none ∧
    (homePoison (homeTouch (homeWriteLine w (0x1038 / 64) 1 0 0 0 (some ⟨0, 1, 0⟩) []) (0x1038 / 64) 0 0 true) (0x1038 / 64)).isSome = true ∧
    ((cacheLine (getCore (cacheWrite w 0 0x1038 [9] 0 0 0 none) 0) (0x1038 / 64)).map fun x => x.dirty.getLsbD (0x1038 % 64)) = some true := by
  decide +kernel

/-- Where SLD reads. -/
def sldAt (s : State) (x : Nat) : Bool := match locate s (tm s) 0x1040 .read with
  | (S, .at p) => match loadAt S (tm s) p 0x1040 x with
    | (_, _, none) => true
    | _ => false
  | _ => false

/-- SLD and SST at an aligned address, with no lane, and at one that is not aligned. -/
theorem witness_ScalarMemory : (BitVec.ofInt 64 ((getS (tm ld) 1).toInt + (0x40 : BitVec 32).toInt)) = (0x1040 : DWord) ∧
    ready ld { access := true, scalars := [1, 2] } ∧ sldAt (issued (.sld 2 1 0x40) ld (tm ld) (fr ld) {}) 8 ∧
    ready ld { access := true, scalars := [1, 2], steps := false } ∧ (tm ld).acts (fr ld) = true ∧ (tm ld).region = none ∧
    placed (locate (issued (.sst 2 1 0x40) ld (tm ld) (fr ld) {}) (tm ld) 0x1040 .write) ∧
    (let s := fm (fun x => { x with active := 0 }) ld
     ready s { access := true, scalars := [1, 2], steps := false } ∧ (tm s).acts (fr s) = false) ∧
    (BitVec.ofInt 64 ((getS (tm ld) 1).toInt + (4 : BitVec 32).toInt) : DWord).toNat % 8 ≠ 0 := by decide +kernel

/-- Addresses at the ends of the global ones and of the pod window, and scratchpad words of this core. -/
theorem witness_AtomicRules : (let a : DWord := 0x7FFFFFFFFFFFF8; a.toNat < 2 ^ 56 ∧ a.toNat % 8 = 0 ∧ a.getLsbD 55 = false) ∧
    (let a : DWord := 0x80000000000000; a.toNat < 2 ^ 56 ∧ a.toNat % 8 = 0 ∧ a.getLsbD 55 = true) ∧
    (let a : DWord := 0xFFFFFFFFFFFFFC; a.toNat < 2 ^ 56 ∧ a.toNat % 8 ≠ 0) ∧
    (let a : DWord := 0x100000000000000; 2 ^ 56 ≤ a.toNat ∧ a.toNat / 2 ^ 32 ≠ 0xFF000000) ∧
    (let a : DWord := 0xFF00000000000100; a.toNat / 2 ^ 32 = 0xFF000000 ∧ spTarget w (tm w) (a.toNat % 2 ^ 32) = some (0, 0x100)) ∧
    (let a : DWord := 0xFF000000FFFFFFF8; a.toNat / 2 ^ 32 = 0xFF000000 ∧ spTarget w (tm w) (a.toNat % 2 ^ 32) = none) := by decide +kernel

/-- An atomic of each kind of place, and SCATADD. -/
theorem witness_AtomicResults :
    (let s := ld [0x40, 7]
     let S := issued (.atomW 1 .add .none .die 0 1) s (tm s) (fr s) { pops := 2, pushes := 1 }
     let x := locateAll S (tm s) .rw (withAddress [0, 1] (indexedAddress 1 0 0 (tm s)))
     (atomTable (.atomW 1 .add .none .die 0 1)).map (fun x => (x.1, x.2.1, x.2.2.1, x.2.2.2.1)) = some (1, .add, .none, .die) ∧
     ready s { pops := 2, pushes := 1, access := true, scalars := [1], closed := true } ∧ (tm s).sb.length < 16 ∧
     (∀ l ∈ (tm s).doers (fr s), (match checkAtom S (tm s) 4 .die (indexedAddress 1 0 0 (tm s) l) with
       | .ok (.global va) => va == 0x1040
       | _ => false) = true) ∧ allAt x.2 ∧
     got (performAtoms x.1 (tm s) .add (indexedAddress 1 0 0 (tm s)) (fun l => ((tm s).opd l 1).setWidth 64) (fun _ => 0)
       ((withAddress [0, 1] (indexedAddress 1 0 0 (tm s))).zip x.2) [(0, .global 0x1040), (1, .global 0x1040)] [])) ∧
    (let s := ld [0x40, 7]
     ready s { pops := 2, pushes := 1, access := true, scalars := [1], closed := true, ordered := true, engines := true } ∧
     s.fabric.msgs = []) ∧
    (let s := ld [0x40, 7]
     let ea := indexedAddress 1 0 0 (tm s)
     let puts := ((tm s).doers (fr s)).foldl (fun x l => scatPut .i32 l (ea l) (((tm s).opd l 1).setWidth 64) x) []
     let x := locateAll (issued (.scataddW .i32 0 1) s (tm s) (fr s) { pops := 2 }) (tm s) .rw (puts.map (·.1))
     (scatTable (.scataddW .i32 0 1)).map (fun x => (x.1, x.2.1)) = some (.i32, 1) ∧
     ready s { pops := 2, access := true, scalars := [1], closed := true } ∧ AddressesOk 4 ((tm s).doers (fr s)) ea ∧
     (∀ l ∈ (tm s).doers (fr s), (ea l).getLsbD 55 = false) ∧ allAt x.2 ∧ got (performScats x.1 (tm s) .i32 (puts.zip x.2))) := by
  decide +kernel

/-- A buffered line. -/
def aLine (scratch : Bool) (line : Nat) (mask : DWord) : BufLine := { scratch, line, mask, data := 0x1122334455667788 }
/-- The state with a region that holds these lines. -/
def buffered (l : List BufLine) (s : State := w) : State := modTeam s 0 fun t => { t with region := some { region with buffer := l } }
/-- The region of a state's team. -/
def regionIs (s : State) (p : Region → Bool) : Bool := ((tm s).region.map p).getD false

/-- Closes: of two lines, of a line of two runs of bytes, of one run in a scratchpad and in memory. -/
theorem witness_RegionResults_close :
    (let s := buffered [aLine false 0x41 15, aLine true 2 1]
     ready s { closes := true } ∧ teamOf s (tm s).uid = some (tm s) ∧ regionIs s fun r => r.buffer == aLine false 0x41 15 :: [aLine true 2 1]) ∧
    (let b := aLine false 0x41 0xF3
     regionIs (buffered [b]) (fun r => r.buffer == [b]) ∧ b.mask = lineMask 0 2 ||| 0xF0 ∧ (∀ i ≤ 0 + 2, (0xF0 : DWord).getLsbD i = false)) ∧
    (let b := aLine true 2 (lineMask 60 4)
     regionIs (buffered [b]) (fun r => r.buffer == [b]) ∧ 60 + 4 ≤ 64 ∧ b.mask = lineMask 60 4 ∧ b.scratch = true) ∧
    (let b := aLine false 0x41 (lineMask 60 4)
     let s := buffered [b]
     regionIs s (fun r => r.buffer == [b]) ∧ b.scratch = false ∧
      placed (locate (modTeam s (tm s).uid fun u => { u with region := none }) { tm s with region := none } (BitVec.ofNat 64 (0x41 * 64 + 60)) .write)) := by
  decide +kernel

/-- Stores in an open region: one that the buffer has room for, and one that is its 33rd line. -/
theorem witness_RegionResults_stores :
    (let l := (List.range 32).map fun k => aLine false (0x100 + k) 1
     let lines := fun (s : State) => ((withAddress ((tm s).doers (fr s)) (indexedAddress 1 0 0 (tm s))).map fun x => (false, x.2.toNat / 64)).dedup
     ∀ x ∈ [l.drop 1, l], let s := buffered x (ld [0x40, 7])
      ready s { pops := 2, access := true, scalars := [1], steps := false } ∧ AddressesOk 4 ((tm s).doers (fr s)) (indexedAddress 1 0 0 (tm s)) ∧
      (tm s).isProtected = false ∧ NoLoopSplit (tm s) (fr s) ∧ lines s = [(false, 0x41)] ∧ regionIs s (fun r => r.buffer == x && r.pendingStores == 0) ∧
      allAt (locateAll (issued (.stW .w32 0 1) s (tm s) (fr s) { pops := 2 }) (tm s) .write
        (withAddress [0, 1] (indexedAddress 1 0 0 (tm s)))).2 ∧
      (closeRegion (modTeam (locateAll (issued (.stW .w32 0 1) s (tm s) (fr s) { pops := 2 }) (tm s) .write
        (withAddress [0, 1] (indexedAddress 1 0 0 (tm s)))).1 (tm s).uid fun u => u.stackOp (fr s) 2 0 fun _ _ => []) (tm s).uid (fr s).pc).2.isEmpty
        = true) := by decide +kernel

/-- Errors in a region: with two restarts before, and with three. -/
theorem witness_RegionResults_restart : ∀ n ∈ [2, 3],
    let s := modTeam w 0 fun t => { t with region := some { region with restarts := n } }
    teamOf s (tm s).uid = some (tm s) ∧ runFrag (tm s) = some (fr s) ∧ regionIs s (fun r => r.restarts == n && (fragOf (tm s) r.frag).isSome) ∧
      ContextAt s 0 (tm s).tag ∧ (tm s).tag ≠ 0 ∧ (getSlot s 0).st = 2 := by decide +kernel

/-- Package 0 of a pod of two, and an operand in package 1. -/
def podded (s : State := w) : State := { s with fabric := { s.fabric with fpod := 0x100 } }
/-- Whether an access goes to another package. -/
def remote (x : State × Fx) : Bool := match x.2 with
  | .at (.remote _ _) => true
  | _ => false
/-- Where package 1's window lies. -/
abbrev window : DWord := 0x0080800000001000

/-- Accesses to another package. -/
theorem witness_LoadResults_remote :
    (let s := podded (ld [0x40] window)
     AddressesOk 4 ((tm s).doers (fr s)) (indexedAddress 1 0 0 (tm s)) ∧ ready s { pops := 1, pushes := 1, access := true, scalars := [1] } ∧
      remote (locate s (tm s) (indexedAddress 1 0 0 (tm s) 0) .read) ∧ ready s { access := true, scalars := [1, 2] } ∧
      (BitVec.ofInt 64 ((getS (tm s) 1).toInt + (0x40 : BitVec 32).toInt) : DWord) = window + 0x40) ∧
    (let s := podded (ld [0x40, 7] window)
     let S := issued (.atomW 1 .add .ar .pod 0 1) s (tm s) (fr s) { pops := 2, pushes := 1 }
     let l := withAddress [0, 1] (indexedAddress 1 0 0 (tm s))
     let x := locateAll (writeBackAll S 0) (tm s) .rw l
     ready s { pops := 2, pushes := 1, access := true, scalars := [1], closed := true, ordered := true, engines := true } ∧ s.fabric.msgs = [] ∧
      (∀ k ∈ (tm s).doers (fr s), (match checkAtom S (tm s) 4 .pod (indexedAddress 1 0 0 (tm s) k) with
        | .ok (.global va) => va == window + 0x40
        | _ => false) = true) ∧ allAt x.2 ∧ x.2.all (fun y => remote (s, y)) ∧
      got (performAtoms x.1 (tm s) .add (indexedAddress 1 0 0 (tm s)) (fun k => ((tm s).opd k 1).setWidth 64) (fun _ => 0) (l.zip x.2)
        [(0, .global (window + 0x40)), (1, .global (window + 0x40))] [])) := by decide +kernel

/-- Passes made and passes left; a byte that is valid and dirty. -/
theorem witness_ScratchResults_passes :
    (let s := setFull (ld [0x40] 0x100) 0 0x140 true
     ready s { pops := 1, pushes := 1, access := true, scalars := [1], closed := true } ∧
      ((tm s).accessors (fr s)).filterMap (fun l => (spPlace s (tm s) (indexedAddress 1 0 0 (tm s) l)).map fun x => ({ lane := l, core := x.1, off := x.2 } : SpRead)) =
        [⟨0, 0, 0x140⟩, ⟨1, 0, 0x140⟩] ∧ (fePasses s 0 false [[⟨0, 0, 0x140⟩, ⟨1, 0, 0x140⟩]]).2 = [] ∧
      (fePasses w 0 false [[⟨0, 0, 0x140⟩, ⟨1, 0, 0x140⟩]]).2 = [[⟨0, 0, 0x140⟩, ⟨1, 0, 0x140⟩]]) ∧
    (cacheLine (getCore (cacheWrite w 0 0x1038 [9] 0 0 0 none) 0) (0x1038 / 64)).any (fun x =>
      x.dirty.getLsbD (0x1038 % 64) && x.valid.getLsbD (0x1038 % 64)) = true := by decide +kernel

/-- A waiter of a full granule and of an empty one; a fragment whose passes can all be made, and one whose next cannot. -/
theorem witness_ScratchResults_waiters :
    (let x : FeWaiter := { gran := 1, team := 0, frag := (fr w).num, since := 2 }
     let s := setCore w 0 { getCore w 0 with feWaiters := [x] }
     isFull s 0 (x.gran * 16) = false ∧ isFull (setFull s 0 16 true) 0 (x.gran * 16) = true ∧ feWaiting s [(0, 16)] = [(0, x)]) ∧
    (∀ full ∈ [true, false], let s := fm (fun y => { y with st := .parked, wait := some (.fullEmpty true 3 88 [[⟨0, 0, 16⟩]] 2 0) }) (setFull w 0 16 full)
      teamOf s 0 = some (tm s) ∧ (fragOf (tm s) (fr w).num).map (fun f => (f.st, f.wait)) =
        some (.parked, some (.fullEmpty true 3 88 [[⟨0, 0, 16⟩]] 2 0)) ∧ (fePasses s 0 true [[⟨0, 0, 16⟩]]).2 = if full then [] else [[⟨0, 0, 16⟩]]) ∧
    (0x140 % 4 = 0 ∧ (∀ g ∈ [((0 : Nat), 16)], g.2 % 16 = 0)) := by decide +kernel

/-- A lane's access at a place here and at another package, a helper's and another's; a poisoned word of the scratchpad and a sound one. -/
theorem witness_LoadResults_lanes :
    (let t := { tm w with helpers := 2 }
     (t.isHelper 1 = true ∧ t.isHelper 0 = false ∧ t.region = none) ∧ ∀ k x, ∀ e, Loc.mem 0x1040 e ≠ .remote k x) ∧
    (spPoison w 0 0x140 = none ∧ (spPoison (spWrite w 0 0x140 [1, 2, 3, 4] (some ⟨1, 2, 3⟩)) 0 0x140).isSome = true) := by
  refine ⟨⟨by decide +kernel, nofun⟩, by decide +kernel⟩

/-- A range in the pod window. -/
theorem witness_OrderingResults_window : (0x0680000000001040 : DWord).toNat / 2 ^ 56 = 6 ∧ (0x0680000000001040 : DWord).getLsbD 55 = true ∧
    (0x0680000000001040 : DWord).toNat % 2 ^ 56 % 2 ^ 6 = 0 := by decide +kernel

/-- Fences outside and inside a region; an object with and without ranges, ranges good and bad; a watched word. -/
theorem witness_OrderingResults :
    (fenceTable (.fenceFull .pkg) = some (true, true, .pkg) ∧ ready w { ordered := true, engines := true, closed := true } ∧
      w.fabric.msgs = [] ∧ (let s := modTeam w 0 fun t => { t with region := some region }
        runs s ∧ (tm s).region = some region ∧ (fr s).depth ≤ (tm s).stackDecl)) ∧
    (let s := sc 1 0x1040
     ObjectOk (getS (tm s) 1) ∧ ready s { scalars := [1], ordered := true, engines := true, closed := true, access := true } ∧
      (match locate (issued (.rel 1) s (tm s) (fr s) {}) (tm s) (getS (tm s) 1) .rw with
        | (S, .at p) => (match globalRmw ((boundLines S (tm s) (getS (tm s) 1)).foldl (fun x l => writeBackLine x 0 l) S) (tm s) p 8
            (fun m => m + 1) with
          | (_, .ok _) => true
          | _ => false)
        | _ => false) = true ∧
      ready s { scalars := [1], ordered := true, access := true } ∧
      (match locate (issued (.acq 1) s (tm s) (fr s) {}) (tm s) (getS (tm s) 1) .read with
        | (_, .at (.mem _ _)) => true
        | _ => false) = true ∧
      ready s { scalars := [1], access := true } ∧ (getS (tm s) 1).toNat < 2 ^ 55 ∧
      placed (locate (issued (.waitv 1) s (tm s) (fr s) {}) (tm s) (getS (tm s) 1) .read)) ∧
    ([((0x0600000000001040 : DWord), true), (0x2800000000000000, true), (0x0500000000001000, false), (0x2900000000000000, false),
        (0x0700000000001040, false)].all fun x =>
      decide (6 ≤ x.1.toNat / 2 ^ 56 ∧ x.1.toNat / 2 ^ 56 ≤ 40 ∧ x.1.toNat % 2 ^ 56 % 2 ^ (x.1.toNat / 2 ^ 56) = 0) == x.2) ∧
    (let s := sc 2 0x0600000000001040 (sc 1 0x1040)
     let b := fun (l : List DWord) => { s with hub := { s.hub with bindings := [((tm s).tag, 0x1040, l)] } }
     ready s { scalars := [1, 2], closed := true } ∧ rangesOf s (tm s).tag 0x1040 = none ∧
      (s.hub.bindings.filter fun x => x.1 == (tm s).tag).length < 256 ∧
      rangesOf (b [0x0600000000001040]) (tm s).tag 0x1040 = some [0x0600000000001040] ∧
      rangesOf (b (List.replicate 7 0x0600000000000000)) (tm s).tag 0x1040 = some (List.replicate 7 0x0600000000000000) ∧
      8 ≤ ((rangesOf (b (List.replicate 8 0x0600000000000000)) (tm s).tag 0x1040).getD []).length) := by decide +kernel

/-- The team with a barrier word at 0x100 and a mark. -/
def bar (word : Nat) (m : Option Mark := none) : State :=
  sc 1 0x100 (fm (fun x => { x with mark := m }) (spWrite w 0 0x100 (leBytes 8 word) none))

/-- Arrivals that are the last and that are not, words refused, waits with the mark and without. -/
theorem witness_BarrierResults :
    (∀ s ∈ [bar 0x00010003, bar 0x00020003, bar 0x00010000, bar 0x0001000000000003],
      runs s ∧ (match checkSp s (tm s) 8 (getS (tm s) 1) with
        | .ok x => x == (0, 0x100)
        | _ => false) = true ∧ spPoison s 0 0x100 = none ∧
      ready s { scalars := [1], ordered := true, engines := true, closed := true } ∧ ready s { scalars := [1], ordered := true, closed := true }) ∧
    leNat (spRead (bar 0x00020003) 0 0x100 8) = 0x00020003 ∧
    (let s := bar 0x0000000500010003 (some { addr := 0x100, gen := 5 })
     (fr s).mark = some { addr := BitVec.ofNat 25 (getS (tm s) 1).toNat, gen := BitVec.ofNat 16 (leNat (spRead s 0 0x100 8) / 2 ^ 32 % 65536) }) ∧
    (fr (bar 0x00010003)).mark = none := by decide +kernel

/-- A coresident team, with a channel of its barrier and without; a barrier with members missing and one complete. -/
def member (b : Bool) : State := modTeam w 0 fun t => { t with isCoresident := b }
theorem witness_NamedBarrierResults : namedTable (.nbarDie 15) = some (1, 15) ∧
    (∀ b ∈ [true, false], ready (member b) { ordered := true, engines := true, closed := true } ∧ (tm (member b)).isCoresident = b) ∧
    (chansOf w 1 (unitOf (tm w) 1)).length < 16 ∧
    (let s := setChans (member true) 1 0 [{ launch := (tm w).launch, id := 15, arrived := 1, expect := 1 }]
     ((chansOf s 1 0).find? (fun x => x.launch == (tm w).launch && x.id == 15)).isSome = true ∧ membersIn s (tm w).launch 1 0 = 1 ∧
     ((chansOf s 1 0).any fun c => c.launch == (tm w).launch && c.id == 15) = true) ∧
    (let s := setChans (member true) 1 0 [{ launch := (tm w).launch, id := 15, arrived := 0, expect := 1 }]
     ((chansOf s 1 0).find? (fun x => x.launch == (tm w).launch && x.id == 15)).map (·.arrived) = some 0) := by decide +kernel

/-- A counter that the context owns, at 6. -/
def line (n v : DWord) : State := sc 2 v (sc 1 n { w with hub := { w.hub with tlown := [(0, 0x80000001), (4095, 0x80000001)],
                                                                              timelines := [(4096, 6), (8191, 6)] } })

/-- The first and the last free counter, reached and not yet; and one of nobody. -/
theorem witness_TimelineResults : (∀ n ∈ [4096, 8191], let s := line (BitVec.ofNat 64 n) 6
      counterOwner s (getS (tm s) 1).toNat = some (tm s).tag ∧ (getS (tm s) 2).toNat ≤ (counter s n).toNat ∧
      ready s { scalars := [1, 2], ordered := true } ∧ ready s { scalars := [3, 1] } ∧
      ready s { scalars := [1, 2], ordered := true, engines := true, closed := true }) ∧
    (let s := line 4096 7
     (counter s 4096).toNat < (getS (tm s) 2).toNat) ∧
    (let s := line 8192 0
     counterOwner s (getS (tm s) 1).toNat ≠ some (tm s).tag ∧ ready s { scalars := [3, 1] }) := by decide +kernel

/-- A counter of another context, and a number that is none. -/
theorem witness_TimelineResults_foreign : ∀ n ∈ [5000, 8192, 2 ^ 63],
    let s := line (BitVec.ofNat 64 n) 6
    counterOwner s (getS (tm s) 1).toNat ≠ some (tm s).tag ∧ ready s { scalars := [1, 2], ordered := true } ∧
      ready s { scalars := [1, 2], ordered := true, engines := true, closed := true } := by decide +kernel

/-- A team with a copy descriptor at 0x1000 and a context of a tag. -/
def copier (a n : DWord) (owner : Word) : State :=
  let s := sc 2 n (sc 1 a (mb 0x1000 ((leBytes 8 0x4000 ++ leBytes 8 0x8000 ++ leBytes 4 64 ++ leBytes 4 0) ++ List.replicate 40 0)))
  setDie s 0 { getDie s 0 with cctx := [(0, owner), (767, owner)] }

/-- What the descriptor reads as. -/
def copyGood (s : State) : Bool := match readRange (issued (.copy .oneD false 3 1 2) s (tm s) (fr s) {}) (tm s) (fr s) (getS (tm s) 1) 64 with
  | .ok (S, x) => (copyDesc x).ok S (tm s) .oneD false && decide ((getCtx S 0 (getS (tm s) 2).toNat).queue.length < 32)
  | _ => false

/-- A copy by the last context, with lanes and without; a context of another tag, and one that is none. -/
theorem witness_CopyResults :
    (let s := copier 0x1000 767 0x80000001
     ready s { access := true, closed := true, scalars := [3, 1, 2] } ∧ (getS (tm s) 2).toNat < 768 ∧
      (tabGet (0 : Word) (getDie s 0).cctx 767).getLsbD 31 = true ∧ (tabGet (0 : Word) (getDie s 0).cctx 767).setWidth 12 = (tm s).tag ∧
      (tm s).acts (fr s) = true ∧ (getS (tm s) 1).toNat % 64 = 0 ∧ copyGood s) ∧
    (let s := fm (fun x => { x with active := 0 }) (copier 0x1000 767 0x80000001)
     ready s { access := true, closed := true, scalars := [3, 1, 2] } ∧ (tm s).acts (fr s) = false) ∧
    (let s := copier 0x1000 768 0x80000001
     ready s { access := true, closed := true, scalars := [3, 1, 2] } ∧ 768 ≤ (getS (tm s) 2).toNat) ∧
    (let s := copier 0x1000 0 0x80000002
     ready s { access := true, closed := true, scalars := [3, 1, 2] } ∧
      (tabGet (0 : Word) (getDie s 0).cctx 0).setWidth 12 ≠ (tm s).tag) := by decide +kernel

/-- The state with scalars set. -/
def scs (l : List (SReg × DWord)) (s : State := w) : State := l.foldl (fun s x => sc x.1 x.2 s) s
/-- The state with the running fragment's FMT set. -/
def fmt (v : Word) (s : State := w) : State := fm (fun x => { x with fmt := v }) s
/-- An HSE descriptor of a type's code and a number of groups. -/
def hse (code g : Nat) : List Byte :=
  leBytes 7 0x4000 ++ [BitVec.ofNat 8 code] ++ leBytes 7 0x5000 ++ [0] ++ leBytes 7 0x6000 ++ [BitVec.ofNat 8 g] ++ leBytes 8 0x7000

/-- QNT with lanes and without, DQNT. -/
theorem witness_QuantResults :
    (let s := sc 1 0x1000 (st [0x3F800000] (mb 0x1000 (hse 9 2)))
     let i := Instr.qntHse4 1
     quantTable i = some (9, 1, none) ∧ ready s { pops := 1, access := true, scalars := [1], steps := false } ∧ (tm s).region = none ∧
      (tm s).acts (fr s) = true ∧ (tm s).isProtected = false ∧
      (match readHseDesc (issued i s (tm s) (fr s) { pops := 1 }) (tm s) (fr s) 9 (getS (tm s) 1) with
       | .ok (S, d) =>
         let row := quantise d.m d.groups false (qntRow (tm s) (fr s) 0 (16 * d.groups))
         got (locatePieces (tm s) (fr s) .write S ([(d.elem, row.elem), (d.micro, row.micro), (d.bmap, row.bmap), (d.exps, row.exps)].flatMap
           fun x => pieces x.1 x.2.length))
       | _ => false) = true) ∧
    (let s := fm (fun x => { x with active := 0 }) (sc 1 0x1000 (st [0x3F800000]))
     ready s { pops := 1, access := true, scalars := [1], steps := false } ∧ (tm s).acts (fr s) = false) ∧
    (let s := sc 1 0x1000 (st [17] (mb 0x1000 (hse 9 2)))
     let i := Instr.dqntHse4 2 1
     quantTable i = some (9, 1, some 2) ∧ ready s { pops := 1, pushes := 1, access := true, scalars := [1] } ∧ (tm s).sb.length < 16 ∧
      (match readHseDesc (issued i s (tm s) (fr s) { pops := 1, pushes := 1 }) (tm s) (fr s) 9 (getS (tm s) 1) with
       | .ok (S, d) => (dqntLanes S (tm s) d false [(0, 17), (1, 17)]).2.2.2 == []
       | _ => false) = true) := by decide +kernel

/-- A converged team with operands in scalars, under a value of FMT. -/
def mat (f : Word) : State := scs [(1, 0x1000), (2, 0x2000), (3, 0x40), (4, 0x80), (5, 0xFF00000000000100), (6, 2), (7, 64)] (fmt f)

/-- Dense products: the last tile of the partition, operands in memory and full/empty ones. -/
theorem witness_MatrixAccepted_dense :
    (let s := mat 0
     Converged (tm s) (fr s) ∧ (tm s).region = none ∧ (getCore s 0).matq.length < 4 ∧ ready s { scalars := [1, 2, 3, 4] } ∧
      ready s { scalars := [5, 5, 3, 4] } ∧ productTable (.mma true 5 5 3 4 3) = some (true, 5, 5, 3, 4, 3) ∧
      decide (TileOk s (tm s) 3) ∧ decide (TileOk s (tm s) 4) = false ∧ ((matShape 0 0 0).map fun x => x.path != .hse) = some true ∧
      got (checkOperand s (tm s) 0x1000) ∧ got (checkOperand s (tm s) 0xFF00000000000100)) ∧
    (matShape 1 0 2).isNone = true := by decide +kernel

/-- A dense product of HSE operands. -/
theorem witness_MatrixAccepted_hse :
    (let s := scs [(3, 0x0000000300000000), (4, 0x0000000500000001)] (mb 0x2000 (hse 9 9) (mb 0x1000 (hse 9 8) (mat 0x99)))
     let i := Instr.mma false 1 2 3 4 1
     ready s { scalars := [1, 2, 3, 4] } ∧ TileOk s (tm s) 1 ∧
      (match matShape 9 9 0 with
       | some sh => sh.path == .hse && (match issueHse (issued i s (tm s) (fr s) {}) (tm s) (fr s) 9 0x1000 with
         | .ok (S1, _, dx) => (match issueHse S1 (tm s) (fr s) 9 0x2000 with
           | .ok (_, _, dy) => got (checkPosition 0x0000000300000000 sh.k dx.groups) && got (checkPosition 0x0000000500000001 sh.k dy.groups)
           | _ => false)
         | _ => false)
       | none => false) = true) := by decide +kernel

/-- A sparse product. -/
theorem witness_MatrixAccepted_sparse :
    (let d := leBytes 8 0x4000 ++ leBytes 8 0x5000 ++ leBytes 8 0x6000 ++ leBytes 4 2 ++ leBytes 4 3 ++ leBytes 4 2 ++ List.replicate 28 0
     let s := scs [(3, 0x100), (4, 7)] (mb 0x1000 d (mat 0x22))
     let i := Instr.mmaBsr false 1 2 3 4 1
     ready s { scalars := [1, 2, 3, 4] } ∧ TileOk s (tm s) 1 ∧ sparseFmt true 0x22 = true ∧ got (checkOperand s (tm s) 0x2000) ∧
      (match readRange (issued i s (tm s) (fr s) {}) (tm s) (fr s) 0x1000 64 with
       | .ok (_, x) => let d := sparseDesc x
                       d.rowptr == 0x4000 && d.colidx == 0x5000 && d.values == 0x6000 && d.zeros && d.nrows == 2 && d.ncols == 3 && d.form == 2
       | _ => false) = true) := by decide +kernel

/-- The tile instructions, and a team that is not converged. -/
theorem witness_MatrixAccepted_tiles :
    (let s := mat 0
     ready s {} ∧ ready s { scalars := [1, 7] } ∧ ready s { scalars := [1, 7, 5] } ∧ (accldPair 0 .i32 = true ∨ accldPair 0 .f32 = true) ∧
      got (checkShape 0 false 64) ∧ got (checkAccMem s (tm s) false 0x1000 64 4) ∧
      2 ^ 56 ≤ (0xFF00000000000100 : DWord).toNat ∧
      got (checkAtom (issued (.accst false 1 7 5 1 2 .core true) s (tm s) (fr s) {}) (tm s) 4 .core 0xFF00000000000100)) ∧
    (let s := st [5, 1, 2] (mat 0)
     ready s { pops := 1, pushes := 2 } ∧ ready s { pops := 3 } ∧ (tm s).sb.length < 16 ∧ (tm s).isProtected = false) ∧
    (let s := fm (fun x => { x with active := 1 }) (mat 0)
     ready s {} ∧ ready s { scalars := [1, 2, 3, 4] } ∧ (1 < (tm s).width ∧ (tm s).width ≤ 1024 ∧ (tm s).exited.getLsbD 1 = false ∧
      (fr s).active.getLsbD 1 = false)) := by decide +kernel

/-- ACCST of an HSE type. -/
theorem witness_MatrixAccepted_accst :
    (let s := scs [(2, 0)] (mb 0x1000 (hse 9 4) (mat 0))
     let i := Instr.accst false 1 2 3 1 13 .pkg false
     CvtTy.ofCode 13 = none ∧ ready s { scalars := [1, 2] } ∧ TileOk s (tm s) 1 ∧ got (checkShape 0 true 0) ∧ got (checkOperand s (tm s) 0x1000) ∧
      (match issueHse (issued i s (tm s) (fr s) {}) (tm s) (fr s) 9 0x1000 with
       | .ok (_, _, d) => decide ((shapeCols 0 + 15) / 16 ≤ d.groups)
       | _ => false) = true) := by decide +kernel

/-- Each command of a team that is not converged, its tile in the partition, and one whose tile is not. -/
theorem witness_MatrixAccepted_refused :
    (let s := st [5, 1, 2] (fm (fun x => { x with active := 1 }) (mat 0))
     (∀ x ∈ [Instr.mma false 1 2 3 4 1, .mmaz false 1 2 3 4 1, .mmaBsr false 1 2 3 4 1, .mmaCsr false 1 2 3 4 1, .accz 1, .accld false 1 2 1 0,
        .accst false 1 2 3 1 0 .core true, .accrd 1 true 1, .accwr true 1], ((matTable x).map fun y => y.1 == 1 && ready s y.2) = some true) ∧
      runs s ∧ TileOk s (tm s) 1 ∧ ((1 : Nat) < (tm s).width ∧ (tm s).width ≤ 1024 ∧ (tm s).exited.getLsbD 1 = false ∧ (fr s).active.getLsbD 1 = false)) ∧
    (runs (mat 0) ∧ (matTable (.accz 255)).map (·.1) = some 255 ∧ ¬ TileOk (mat 0) (tm (mat 0)) 255) := by decide +kernel

/-- IXSET's descriptor read, and the other commands of the IXU. -/
theorem witness_IxuAccepted :
    (let s := mb 0x1000 (leBytes 8 0x8000 ++ leBytes 8 0x9000 ++ leBytes 4 5 ++ leBytes 4 6 ++ leBytes 4 3 ++ leBytes 4 0) (mat 0)
     Converged (tm s) (fr s) ∧ (tm s).region = none ∧ ready s { scalars := [1] } ∧ (getS (tm s) 1).toNat < 2 ^ 55 ∧
      (match readRange (issued (.ixset .and 1) s (tm s) (fr s) {}) (tm s) (fr s) 0x1000 32 with
       | .ok (S, x) => x.take 16 == leBytes 8 0x8000 ++ leBytes 8 0x9000 && x.drop 28 == [0, 0, 0, 0] &&
         decide ((S.teams.filter fun u => u.core == (tm s).core && u.uid != (tm s).uid && holdsIx S u).length < 16)
       | _ => false) = true) ∧
    (let s := mat 0
     ready s { pushes := 2, scalars := [9] } ∧ (tm s).sb.length < 16 ∧ ready s { scalars := [9] }) ∧
    (let s := scs [(1, 0x108)] (mat 0)
     ready s { scalars := [1] } ∧ got (checkSp s (tm s) 8 0x108)) := by decide +kernel

/-- An activity of the team's tag. -/
def act (x : ActState) (last : Option (Nat × Nat)) : Activity :=
  { tag := 1, slot := 3, gen := 2, st := x, last, prio := 1, timeline := none, cret := 9, keyWait := none, running := false, seq := 5 }
/-- A state that holds it, its handle in s1 and its step's operands. -/
def acting (x : ActState) (last : Option (Nat × Nat)) (on : Bool := true) : State :=
  let s := scs [(1, 0x100203), (2, 0x1040), (3, 77), (4, 99), (5, 0x200203)]
  { s with hub := { s.hub with
    actcfg := if on then 0x80000001 else 1
    acts := [act x last]
    actseg := [0x4000000, 0x8000000, 0xC000000, 0x10000000]
    segused := [1, 1, 0, 0]
    seghead := [9, 4, 0, 0] } }

/-- ACT.OPEN with a free slot, and with the log off; an activity that is open. -/
theorem witness_ActivityResults_open :
    (let s := acting .opened none
     (tm s).acts (fr s) = true ∧ Canonical s ∧ ready s { scalars := [6], closed := true } ∧ s.hub.actcfg.getLsbD 31 = true ∧
      actAt s (tm s).tag 0 = none) ∧
    (acting .opened none false).hub.actcfg.getLsbD 31 = false ∧
    (let s := acting .opened none
     (actOf s (getS (tm s) 1)).map (fun x => (x.tag, x.slot)) = some ((tm s).tag, 3) ∧ (actAt s 1 3).isSome = true ∧
      ready s { scalars := [6, 1, 2, 3, 4], closed := true } ∧ ReleaseReady s (tm s) ∧ (getS (tm s) 2).toNat % 64 = 0 ∧
      EntrySound (writeBackAll (issued (.actStep 6 1 2 3 4) s (tm s) (fr s) {}) 0) (0, 9) ∧
      Memory.get (writeBackAll (issued (.actStep 6 1 2 3 4) s (tm s) (fr s) {}) 0).mem (entryAddr s 0 9 + 0x26) = 0) := by decide +kernel

/-- Activities with an entry, failed ones with and without, and a handle of another tag. -/
theorem witness_ActivityResults_states :
    (let s := acting .opened (some (0, 7))
     ready s { scalars := [1], closed := true } ∧ (getS (tm s) 1).toNat < 2 ^ 32 ∧ EntrySound (issued (.actAbandon 1) s (tm s) (fr s) {}) (0, 7) ∧
      (let S := issued (.actAbandon 1) s (tm s) (fr s) {}
       (keyLook { S with hub := { S.hub with nextSeq := S.hub.nextSeq + 1 } } (act .opened (some (0, 7))) (0, 7)).2 = some false)) ∧
    (∀ l ∈ [none, some (0, 7)], let s := acting .failed l
      ready s { scalars := [1], closed := true } ∧ ready s { scalars := [6, 1], closed := true } ∧
      (actOf s (getS (tm s) 1)).map (fun x => (x.st, x.last, x.timeline)) = some (.failed, l, none)) ∧
    entryPrev (acting .failed (some (0, 7))) 0 7 = none ∧
    (let s := acting .opened none
     ready s { scalars := [5], closed := true } ∧ (getS (tm s) 5).toNat / 2 ^ 20 % 4096 ≠ (tm s).tag.toNat) := by decide +kernel

/-- A fragment none of whose lanes acts; an activity whose one entry can be freed. -/
theorem witness_ActivityResults_none :
    (let s := fm (fun x => { x with active := 0 }) (acting .opened none)
     (tm s).acts (fr s) = false ∧ ready s { scalars := [6] } ∧ ready s { scalars := [6, 1, 2, 3, 4] } ∧ ready s { scalars := [1] }) ∧
    (∀ l ∈ [none, some (0, 7)], let s := acting .opened l
     ready s { scalars := [1], closed := true } ∧
      (freeChain (issued (.actClose 1) s (tm s) (fr s) {}) 1 ((act .opened l).chain s).length l).2 = true) := by decide +kernel

/-- Pool 63 of six pages. -/
def pooled (tag : Nat) (given : List Nat) (next k : Nat) : State :=
  setPool (scs [(1, 63), (2, BitVec.ofNat 64 k)]) 63 { ctl := BitVec.ofNat 64 (2 ^ 63 + tag * 2 ^ 32 + 6), list := 0x1000, given, next }

/-- Pages given, never taken, and none left; pages out and not; another's pool. -/
theorem witness_PoolAndSupervisorResults_pool :
    (∀ x ∈ [pooled 1 [2] 4 3, pooled 1 [] 6 6, pooled 1 [] 7 7, pooled 1 [2] 4 2], (tm x).acts (fr x) = true ∧ (getS (tm x) 1).toNat < 64 ∧
      ready x { scalars := [6, 1], closed := true } ∧ ready x { scalars := [1, 2], closed := true } ∧
      (getPool x 63).ctl.getLsbD 63 = true ∧ (getPool x 63).ctl.toNat / 2 ^ 32 % 4096 = (tm x).tag.toNat ∧ (getPool x 63).ctl.toNat % 2 ^ 24 = 6) ∧
    (getPool (pooled 2 [] 1 1) 63).ctl.toNat / 2 ^ 32 % 4096 ≠ 1 := by decide +kernel

/-- A team of tag 0, with contexts of tags 0 and 7. -/
def sup : State :=
  let s := modTeam (scs [(1, 0x12345007), (2, 0x3000000000000040), (3, 0x1122334455667788)]) 0 fun t => { t with tag := 0 }
  { s with hub := { s.hub with slots := [(0, { Slot.reset with cxctl := 0x80000000, st := 2 }), (1, { Slot.reset with cxctl := 0x80000007, st := 2 })] } }

/-- Instructions of tag 0 in it and elsewhere; a compensation team; a packet of the queue's owner. -/
theorem witness_PoolAndSupervisorResults_privilege :
    (runs sup ∧ ready sup { scalars := [6, 1] } ∧ (tm sup).tag = 0 ∧ (getS (tm sup) 1).toNat < 2 ^ 56 ∧ slotOfTag sup 7 = some 1 ∧
      (getS (tm sup) 2).toNat % 8 = 0 ∧ debugCore sup (getS (tm sup) 2) = some 0 ∧ ready sup { scalars := [6, 2] } ∧
      (debugRead (issued (.dbgRd 6 2) sup (tm sup) (fr sup) {}) 3 0 0 0 0x40).isSome = true ∧ ready sup { scalars := [2, 3], closed := true } ∧
      (tm sup).acts (fr sup) = true ∧ (getS (tm sup) 2).toNat / 2 ^ 60 = 3 ∧
      (getS (tm sup) 2).toNat % 2 ^ 46 < partScr (getCore sup 0).cpart * 65536) ∧
    ((tm w).tag ≠ 0 ∧ ready w { scalars := [6, 1] } ∧ ready w { scalars := [1, 2], closed := true } ∧ (tm w).isComp = false) ∧
    (let s := modTeam w 0 fun t => { t with isComp := true }
     (runs s ∧ (tm s).isComp = true ∧ ready s { scalars := [1], closed := true, ordered := true, engines := true, steps := false } ∧
       s.fabric.msgs = []) ∧
     (let m : PodMsg := { team := 0, frag := 9, lanes := 1, pkg := 1, va := 0x00A0000000001040, req := .store, pc := 5, time := 5 }
      let s := { s with fabric := { s.fabric with msgs := [m] } }
      ready s { scalars := [1], closed := true, ordered := true, engines := true, steps := false } ∧
       (s.fabric.msgs.any fun m => m.isStore (tm s).uid) = true)) ∧
    (let s := scs [(1, 0x1000), (2, 255)] (mb 0x1074 [1])
     ready s { scalars := [1, 2], closed := true, access := true } ∧ ReleaseReady s (tm s) ∧ (getS (tm s) 2).toNat < 256 ∧
      (match readRange (writeBackAll (issued (.launch 1 2) s (tm s) (fr s) {}) 0) (tm s) (fr s) 0x1000 128 with
       | .ok (_, x) => leNat ((x.drop 0x74).take 2) == (tm s).tag.toNat
       | _ => false) = true) := by decide +kernel

/-- A pool of another's; a probe of the pod window; a suppressed debug write; packets of another owner, for this package and another. -/
theorem witness_PoolAndSupervisorResults_refused :
    (let s := pooled 2 [] 1 1
     ready s { scalars := [1, 2], closed := true } ∧ (getPool s 63).ctl.toNat / 2 ^ 32 % 4096 ≠ (tm s).tag.toNat) ∧
    (let s := sc 1 0x80000012345007 sup
     (getS (tm s) 1).toNat / 2 ^ 55 = 1 ∧ ready s { scalars := [6, 1] }) ∧
    (let s := fm (fun x => { x with active := 0 }) sup
     (tm s).tag = 0 ∧ (tm s).acts (fr s) = false ∧ ready s { scalars := [2, 3] }) ∧
    (∀ k ∈ [255, 0x0100, 0x50100], ∀ owner ∈ [1, 2], let s := scs [(1, 0x1000), (2, BitVec.ofNat 64 k)] (mb 0x1074 [owner])
     ready s { scalars := [1, 2], closed := true, access := true } ∧ (tm s).acts (fr s) = true ∧ s.fabric.msgs = [] ∧
      (match readRange (writeBackAll (issued (.launch 1 2) s (tm s) (fr s) {}) 0) (tm s) (fr s) 0x1000 128 with
       | .ok (S, x) => (leNat ((x.drop 0x74).take 2) == (tm s).tag.toNat) == (owner == 1) && S.fabric.fpod.toNat % 256 == 0
       | _ => false) = true) := by decide +kernel

/-- A state store with record 1 of the team's tag. -/
def stored (en : Bool) (st slots : Nat) (pos : DWord) : State :=
  let s := scs [(1, 0x140001), (2, 0x1000), (3, 0x0000002000000010), (4, pos), (5, 0x0007000000020003), (7, 767), (8, 0x40), (9, 15), (10, 255)]
  let s := setDie s 0 { getDie s 0 with cctx := [(767, 0x80000001)] }
  { s with hub := { s.hub with store := { s.hub.store with
    cfg := BitVec.ofNat 64 ((if en then 2 ^ 63 else 0) + slots)
    base := 0x200000
    gran := 100
    free := 50
    taken := 5
    recs := [(1, { head := 40, owner := 1, user := 7, heads := 5, st, nsnap := 3, pages := 3, gen := 4, stime := 5, live := none, snaps := [(10, true, none), (20, false, none)] })] } } }

/-- SS.OPEN with the store off, with no slot free, and with one. -/
theorem witness_StateStoreResults_open :
    (∀ s ∈ [stored false 1 5 40, stored true 1 5 40], (tm s).acts (fr s) = true ∧ ready s { scalars := [6, 5], closed := true, access := true }) ∧
    (stored false 1 5 40).hub.store.cfg.getLsbD 63 = false ∧ (stored true 1 5 40).hub.store.freeSlot = some 0 ∧
    (let w := (getS (tm (stored true 1 5 40)) 5).toNat
     w / 2 ^ 60 = 0 ∧ w / 2 ^ 22 % 2 ^ 26 = 0 ∧ w / 32768 % 2 = 0 ∧ w / 65536 % 64 ≤ 32 ∧ 1 ≤ w % 32768 ∧ w % 32768 ≤ 16384) := by decide +kernel

/-- Record 1 named by its handle, with stores behind HEAD and at it, loads, a snapshot to take and one to go back to. -/
theorem witness_StateStoreResults_record :
    (∀ s ∈ [stored true 1 5 40, stored true 1 5 39], RecordOf s (tm s) (getS (tm s) 1) 1 (s.hub.store.rec' 1) ∧ (s.hub.store.rec' 1).st ≠ 2 ∧
      ReleaseReady s (tm s) ∧ ready s { scalars := [6, 1, 2, 3, 4, 7, 8, 9, 10], closed := true, access := true } ∧
      ready s { scalars := [1, 2], access := true, steps := false } ∧ (tm s).region = none) ∧
    (let s := stored true 1 5 40
     (getS (tm s) 3).toNat / 2 ^ 32 = 32 ∧ (getS (tm s) 3).toNat % 2 ^ 32 = 16 ∧
      got (readRange (writeBackAll (issued (.ssStore 1 2 3 4) s (tm s) (fr s) {}) 0) (tm s) (fr s) 0x1000 32) ∧
      (tabGet (0 : Word) (getDie s 0).cctx 767).setWidth 12 = (tm s).tag ∧ (spTarget s (tm s) (getS (tm s) 8).toNat).isSome = true ∧
      (getCtx s 0 767).queue.length < 32 ∧ (s.hub.store.rec' 1).snaps.length < 3 ∧ (∀ x ∈ (s.hub.store.rec' 1).snaps, x.1 ≠ 40) ∧
      (s.hub.store.rec' 1).snaps = [] ++ (10, true, none) :: [(20, false, none)] ∧ 10 ≤ (getS (tm s) 9).toNat ∧ (getS (tm s) 9).toNat < 20 ∧
      s.hub.store.freeSlot = some 0 ∧ got (locatePieces (tm s) (fr s) .write (issued (.ssInfo 1 2) s (tm s) (fr s) {}) (pieces 0x1000 256))) ∧
    (let s := stored true 2 5 40
     RecordOf s (tm s) (getS (tm s) 1) 1 (s.hub.store.rec' 1) ∧ (s.hub.store.rec' 1).st = 2) := by decide +kernel

/-- A source that runs past the scratchpad, a copy context that is none, and a revoked record. -/
theorem witness_StateStoreResults_refused :
    (let s := sc 2 0xFF0000000000FFF0 (stored true 1 5 40)
     (tm s).acts (fr s) = true ∧ ready s { scalars := [1, 2, 3, 4], closed := true, access := true } ∧ (getS (tm s) 2).toNat / 2 ^ 32 = 0xFF000000 ∧
      (match spTarget s (tm s) ((getS (tm s) 2).toNat % 2 ^ 32) with
       | some (core, o) => decide (partScr (getCore s core).cpart * 65536 < o + (getS (tm s) 3).toNat / 2 ^ 32)
       | none => true) = true) ∧
    (let s := sc 7 768 (stored true 1 5 40)
     ready s { scalars := [6, 1, 8, 3, 7], closed := true, access := true } ∧ 768 ≤ (getS (tm s) 7).toNat ∧ (spTarget s (tm s) (getS (tm s) 8).toNat).isSome = true) ∧
    (let s := stored true 2 5 40
     ready s { scalars := [6, 1, 2, 3, 4], closed := true, access := true } ∧ ready s { scalars := [6, 1, 9], closed := true, access := true } ∧
      ready s { scalars := [1], closed := true, access := true }) := by decide +kernel

/-- The fragment parked on a wait. -/
def waits (x : Wait) (s : State := w) : State := fm (fun y => { y with st := .parked, wait := some x }) s

/-- A bench that is not frozen, a context RUNNING and one STOPPED; the word of the context's slot. -/
theorem witness_StopRecord : (teamOf w (tm w).uid).isSome = true ∧ (∀ u ∈ w.teams, u.region = none) ∧ ContextAt w 0 (tm w).tag ∧ (tm w).bench < (getCore w 0).benches.length ∧
    (getBench w 0 (tm w).bench).bctl.getLsbD 0 = false ∧ (tm w).slot < 16 ∧ (getSlot w 0).st = 2 ∧
    (let s := setSlot w 0 { getSlot w 0 with st := 3 }
     ContextAt s 0 (tm s).tag ∧ (getSlot s 0).st = 3) := by
  decide +kernel
/-- No team of the machine holds a region. -/
theorem witness_quiet : Quiet w := by decide +kernel

/-- Waits that end, and that do not. -/
theorem witness_TeamEvents_waits :
    (∀ x ∈ [Wait.regionReplays, .pending 5, .watch 7 9 true, .watch 7 0 false, .watch 7 3 false, .timeline 4100 9, .faultFull 2],
      let s := waits x
      teamOf s 0 = some (tm s) ∧ fragOf (tm s) (fr w).num = some { fr w with st := .parked, wait := some x } ∧ (tm s).region = none ∧
      pulseAt s (tm s).core = true) ∧
    (let s := modTeam (waits (.pending 5)) 0 fun t => { t with sb := [⟨4, 0, [], 0, 3, true⟩, ⟨5, 0, [], 0, 3, false⟩] }
     (∃ e ∈ (tm s).sb, e.id = 5 ∧ e.waiting = false) ∧ (∀ e ∈ (tm s).sb, e.id = 4 → e.waiting = true)) ∧
    (let s := fm (fun x => { x with depth := 9, shelf := 1 })
     (fr s).shelf < 2 ∧ (fr s).shelf < (fr s).depth) ∧
    (∀ v ∈ [8, 9], let s := waits (.timeline 4100 9) { w with hub := { w.hub with timelines := [(4100, BitVec.ofNat 64 v)] } }
      (counter s 4100).toNat = v ∧ (fragOf (tm s) (fr w).num).map (·.wait) = some (some (.timeline 4100 9))) := by decide +kernel

/-- Full granules, a team withheld at 64 turns, and timers due and not. -/
theorem witness_TeamEvents_timers :
    (let s := setFull (waits (.fullEmpty true 3 88 [[⟨0, 0, 16⟩]] 2 0)) 0 16 true
     (fePasses s 0 true [[⟨0, 0, 16⟩]]).2 = [] ∧ (tm s).sb.length < 16 ∧ ∀ c ∈ s.cores, c.2.feWaiters = []) ∧
    (let s := modTeam w 0 fun t => { t with withheld := 64 }
     64 ≤ (tm s).withheld) ∧
    (fr w).active ≠ 0 ∧ (tm w).timerV.armed = false ∧ (tm w).timerG.armed = false ∧
    (let s := modTeam w 0 fun t => { t with timerV := { armed := true, deadline := 0 }, timerG := { armed := true, deadline := 0 } }
     (tm s).timerV.armed = true ∧ (tm s).timerV.deadline.toNat ≤ (tm s).tcyc.toNat ∧ (tm s).timerG.armed = true ∧
      (tm s).timerG.deadline.toNat ≤ s.gtime.toNat ∧ (tm s).gHeld = 0) := by decide +kernel

/-- A region whose last store has been replayed, one that a chosen fragment closes, one with stores to come; a cycle without a pulse; timers
while the team may not issue, and held back. -/
theorem witness_TeamEvents_regions :
    (let s := modTeam (waits .regionReplays) 0 fun t => { t with region := some region }
     (fragOf (tm s) (fr w).num).map (fun f => (f.st, f.wait)) = some (.parked, some .regionReplays) ∧
      regionIs s fun r => r.pendingStores == 0 && r.closing == none) ∧
    (let s := modTeam (fm fun x => { x with st := .ready }) 0 fun t => { t with region := some { region with closing := some (fr w).num } }
     regionIs s (fun r => r.closing == some (fr w).num && r.pendingStores == 0) ∧ (fragOf (tm s) (fr w).num).map (·.st) = some .ready) ∧
    (let s := modTeam w 0 fun t => { t with region := some { region with pendingStores := 2 } }
     regionIs s fun r => decide (1 ≤ r.pendingStores)) ∧
    (let s := setQuad w 0 { getQuad w 0 with pattern := 0 }
     pulseAt s 0 = false ∧ mayIssue s (tm s) = false) ∧
    (pulseAt w 0 = true ∧ mayIssue w (tm w) = true) ∧
    (∀ n ∈ [0, 1, 2], let s := modTeam w 0 fun t => { t with timerG := { armed := true, deadline := 0 }, gHeld := n, trapLoops := [[]] }
      mayIssue s (tm s) = true ∧ (tm s).timerV.armed = false ∧ (tm s).timerG.deadline.toNat ≤ s.gtime.toNat ∧
      decide ((tm s).gHeld = 0 ∨ (tm s).trapLoops.length < (tm s).gHeld) = (n != 1)) ∧
    (let s := waits (.fullEmpty true 3 88 [[⟨0, 0, 16⟩]] 2 8)
     (fragOf (tm s) (fr w).num).map (·.wait) = some (some (.fullEmpty true 3 88 [[⟨0, 0, 16⟩]] 2 (7 + 1)))) := by decide +kernel

/-- A core's units with these commands. -/
def units (m : List MatCmd) (x : List (Nat × IxCmd × DWord)) : State := setCore w 0 { getCore w 0 with matq := m, ixq := x }
/-- Commands at the head, and none; ascending lists. -/
theorem witness_UnitCommands :
    (Canonical w ∧ (getCore w 0).matq = [] ∧ (getCore w 0).ixq = []) ∧
    (let c := newMat (.accz 3) (tm w) (fr w) 0 0 0 0
     (getCore (units [c] []) 0).matq = [c] ∧ c.instr = .accz 3) ∧
    (let c := { newMat (.accwr false 1) (tm w) (fr w) 0 0 0 0 with lanes := [(1, 4095, 7)] }
     (getCore (units [c] []) 0).matq = [c] ∧ c.allHelpers = false ∧ (4095 : Word).toNat < 4096) ∧
    (let x : IxStream := newStream .and [1, 2] [2]
     (getCore (units [] [(0, .set x, 4), (0, .cnt 31, 4)]) 0).ixq = [(0, .set x, 4), (0, .cnt 31, 4)] ∧ (teamOf (units [] []) 0).isSome = true) ∧
    ([1, 4, 9] : List Nat).Pairwise (· < ·) := by decide +kernel
/-- An integer step whose operands are read. -/
theorem witness_UnitCommands_step :
    (let c := { newMat (.mma false 1 2 3 4 1) (tm w) (fr w) 0xFF00000000000000 0x1000 64 64 with fmt := 0x244 }
     (matShape (fmtA c.fmt) (fmtB c.fmt) (fmtAcc c.fmt)).any fun sh => sh.path == .int && (match denseBytes w (tm w) c sh 0 with
       | (_, .ok _) => true
       | _ => false)) = true := by decide +kernel

/-- What a unit's step found. -/
def done {α : Type} (x : State × URun α) : Bool := match x.2 with
  | .ok _ => true
  | .error _ => false
/-- A command of a team under an FMT. -/
def command (i : Instr) (f : Word) (a b c e : DWord := 0) : MatCmd := { newMat i (tm w) (fr w) a b c e with fmt := f }
/-- Cycles without a pulse; ACCRD's entry; a sparse block; a row moved. -/
theorem witness_UnitCommands_values :
    (let s := setQuad (units [command (.accz 3) 0] [(0, .cnt 31, 4)]) 0 { getQuad w 0 with pattern := 0 }
     pulseAt s 0 = false) ∧ pulseAt (units [command (.accz 3) 0] []) 0 = true ∧
    (let c := { command (.accrd 1 false 2) 0 with lanes := [(1, 7, 0)], sb := 5 }
     let s := modTeam (st [0] (units [c] [])) 0 fun t => { t with sb := [⟨5, 0, [(0, 2, .pos 1)], 0, 1, true⟩] }
     (getCore s 0).matq = c :: [] ∧ teamOf s c.team = some (tm s) ∧ (tm s).isProtected = false ∧
      ((tm s).sb.find? (fun y => y.id == c.sb)).map (·.targets) = some [(0, 2, .pos 1)] ∧ (2 : Mask).getLsbD 1 = true ∧ ((tm s).lanes[1]?).isSome = true) ∧
    (let c := command (.mmaCsr false 1 2 3 4 1) 0x000 0 0x8000 256 0
     let d : SparseDesc := { rowptr := 0x4000, colidx := 0x5000, values := 0x6000, nrows := 2, ncols := 3, form := 16, zeros := true }
     isBsr c.instr = false ∧ sparseFmt false c.fmt = true ∧ (match unitRange w (tm w) false d.colidx 4 with
      | (S, .ok (ci, _)) => decide (leNat ci < d.ncols) && done (unitRanges (tm w) false S ((d.values, 4) ::
          (List.range 1).map fun k => (c.b + BitVec.ofNat 64 (leNat ci + k) * c.c, 128)))
      | _ => false) = true) ∧
    (let c := command (.accld false 1 2 1 0) 0 0x4000 0x00003F3F00000100
     c.b.toNat / 2 ^ 40 % 256 + 1 ≤ 64 ∧ done (unitRange w (tm w) false c.a ((c.b.toNat / 2 ^ 40 % 256 + 1) * 4)) ∧ hasFe c.instr = false) ∧
    (let f := groupFloats 4 ((List.range 10).map fun k => BitVec.ofNat 8 (17 * k)) 0x1B 130
     f.length = 16 ∧ (130 : Nat) < 256) := by decide +kernel
/-- A step of a product of operands in memory. -/
def product (f : Word) : Bool :=
  let c := command (.mma false 1 2 3 4 1) f 0x4000 0x8000
  (matShape (fmtA c.fmt) (fmtB c.fmt) (fmtAcc c.fmt)).any fun sh => decide (sh.path ∈ [MatPath.f32, .f64, .half]) && done (denseBytes w (tm w) c sh 0)
/-- In FP32, in FP64 and in a half type. -/
theorem witness_UnitCommands_products : product 0x000 ∧ product 0x111 ∧ product 0x022 := by decide +kernel
/-- A step in HSE. -/
theorem witness_UnitCommands_hse :
    let c := { command (.mma false 1 2 3 4 1) 0x099 0x1000 0x2000 with descA := hse 9 1, descB := hse 9 1 }
    (matShape (fmtA c.fmt) (fmtB c.fmt) (fmtAcc c.fmt)).map (·.path) = some .hse ∧ done (hseOperands w (tm w) c 0) := by decide +kernel

/-- A fill of n bytes, p done. -/
def filling (n p : Nat) : CopyCmd :=
  { kind := .fill, fe := false, src := 0, dst := 0xFF00000000000040, len := n, rows := 0, sstride := 0, dstride := 0, index := 0, pattern := 7,
    tag := 1, team := 0, launch := 0, core := 0, pc := 0, progress := p, source := none, root := none }
/-- Die 0 with context 2 of tag 1 and these commands. -/
def copies (l : List CopyCmd) : State :=
  setDie w 0 { getDie w 0 with cctx := [(2, 0x80000001)], rr := [(0, 60)], ctxs := [(2, { CopyCtx.reset with counter := 77, queue := l })] }

/-- The state in which engine 0's turn at context 2 moves its bytes. -/
def turned (s : State) : State := setDie s 0 { getDie s 0 with rr := tabSet (getDie s 0).rr 0 3 }

/-- An engine with nothing to do and with a command; commands done and not; contexts with commands and without. -/
theorem witness_CopyEvents :
    (∀ k ∈ List.range 64, (getCtx w 0 k).ready = false) ∧
    (let s := copies [filling 600 0]
     2 = 64 * 0 + (tabGet 0 (getDie s 0).rr 0 + 6) % 64 ∧ (∀ j ∈ List.range 6, (getCtx s 0 ((60 + j) % 64)).ready = false) ∧
      (getCtx s 0 2).ready = true ∧ (getCtx s 0 2).queue = filling 600 0 :: [] ∧
      (copyMove 0 0 (srcSegs (turned s) 0 0 (filling 600 0)) 512 512 (turned s) (filling 600 0)).2.2 = none) ∧
    (filling 600 600).len ≤ (filling 600 600).progress ∧ (filling 600 599).progress < (filling 600 599).len ∧
    (getCtx (copies [filling 8 8]) 0 2).queue = filling 8 8 :: [] ∧ (getCtx (copies []) 0 2).queue = [] := by decide +kernel

/-- A fault-buffer entry. -/
def entry (st page : Nat) (k : WaiterKind) (l : List Waiter := []) : FbEntry :=
  { idx := 4, page, tag := 1, level := 0, access := 0, state := st, firstPc := 4, time := 5, counted := []
    waiters := { team := 0, frag := (fr w).num, launch := 0, pc := 3, access := 1, kind := k } :: l }
/-- The context's pages: page 0 is frame 0, and no other is there. -/
def mapped (s : State := w) : State :=
  let s := setSlot s 0 { getSlot s 0 with root := 0x80000 }
  let s := mb 0x80000 (leBytes 8 0x90001) (mb 0x90000 (leBytes 8 0xA0001) (mb 0xA0000 (leBytes 8 (0x1F + 2 ^ 52)) s))
  setDie s 0 { getDie s 0 with owners := [(0, 1)] }
/-- It, with an entry in die 0. -/
def faulting (e : FbEntry) : State :=
  let s := waits (.fault 0 1) mapped
  setDie s 0 { getDie s 0 with fb := [e] }

/-- A page there and one that is not, a launch's page, and entries at replay. -/
theorem witness_ReplayEvents :
    (∀ e ∈ [entry 1 0 .reissue, entry 3 0 .reissue, entry 3 0 (.copy 770)], entryOf (faulting e) 0 4 = some e ∧ e.idx = 4 ∧ e.waiters ≠ []) ∧
    (match rewalk (faulting (entry 1 0 .reissue)) (entry 1 0 .reissue) with
      | .leaf _ => true
      | _ => false) = true ∧
    (match rewalk (faulting (entry 1 999 .reissue)) (entry 1 999 .reissue) with
      | .xlate _ => true
      | _ => false) = true ∧
    (fragOf (tm (faulting (entry 3 0 .reissue))) (fr w).num).map (fun f => (f.st, f.wait)) = some (.parked, some (.fault 0 1)) ∧
    pulseAt (faulting (entry 3 0 .reissue)) 0 = true := by decide +kernel

/-- A copy in memory. -/
def moving : CopyCmd := { filling 600 0 with kind := .oneD, src := 0x4000, dst := 0x8000 }
/-- Whether a copy's address lies in this package's memory. -/
def inMemory (x : State × Except CopyStop CopyPlace) : Bool := match x.2 with
  | .ok (.global _ _ _) => true
  | _ => false
/-- A run of bytes in memory, zeros and a pattern; a command whose last bytes are not acknowledged; a context with a command and without,
and its TAG. -/
theorem witness_CopyEvents_bytes :
    (let s := setDie mapped 0 { getDie mapped 0 with cctx := [(2, 0x80000001)], ctxs := [(2, { CopyCtx.reset with queue := [moving] })] }
     Canonical s ∧ moving.progress % moving.len < moving.len ∧ inMemory (copyPlace s 0 0 moving 0x8000 .write) ∧
      inMemory (copyPlace s 0 0 moving 0x4000 .read) ∧ moving.kept = [] ∧ moving.source = none ∧
      (match copyBytes (copyPlace s 0 0 moving 0x8000 .write).1 0 0 moving 64 with
       | (_, b, _, none) => b.length == 64
       | _ => false) = true) ∧
    (let s := copies [filling 8 8]
     let s := { s with fabric := { s.fabric with msgs := [{ team := 0, frag := 0, lanes := 0, pkg := 1, va := 0, req := .copyWrite 2, pc := 0, time := 0 }] } }
     (getCtx s 0 2).queue = filling 8 8 :: [] ∧ (filling 8 8).len ≤ (filling 8 8).progress ∧ ∃ m ∈ s.fabric.msgs, m.req = .copyWrite (768 * 0 + 2)) ∧
    (∀ l ∈ [[filling 600 0], []], (tabGet (0 : Word) (getDie (copies l) 0).cctx 2).toNat % 4096 = 1 ∧
      ((getCtx (copies l) 0 2).queue = [] ↔ l = [])) := by decide +kernel

/-- The quads of a machine without repairs, and the least budget. -/
theorem witness_PowerResults : (logicalQuads State.reset).Nodup ∧ (logicalQuads State.reset).length = 52 ∧ 416 ≤ 416 := by decide +kernel

/-- The first interval cleared, and the next due; ticks within a frame and over its end; a quad touched. -/
theorem witness_PowerResults_interval :
    (let s := { w with gtime := 10000, hub := { w.hub with interval := 0 } }
     s.gtime.toNat / 10000 ≠ s.hub.interval ∧ (logicalQuads s).Nodup ∧ (logicalQuads s).length = 52) ∧
    (let s := { w with gtime := 10000, hub := { w.hub with interval := 1 } }
     s.gtime.toNat / 10000 = s.hub.interval) ∧
    (let s := setQuad { w with gtime := 31 } 0 (getQuad w 0)
     (s.gtime.toNat + 1) % 16 = 0 ∧ (s.gtime.toNat + 2) % 16 ≠ 0 ∧ s.quads ≠ []) := by decide +kernel

/-- A die without teams, each of its states and temperatures at the bounds. -/
theorem witness_DieEvents_die : (∀ t ∈ w.teams, dieOf t.core ≠ 2) ∧
    (let s := setDie { w with gtime := 2000010 } 2 { getDie w 2 with therm := .throttled, thermSince := 10 }
     2000000 ≤ s.gtime.toNat - (getDie s 2).thermSince.toNat ∧ (getDie s 2).therm = .throttled) ∧
    (let s := setDie w 1 { getDie w 1 with xinv := 0 }
     (getDie s 1).xinv.getLsbD 63 = false ∧ (getDie w 1).xinv.getLsbD 63 = true) ∧
    ((getDie w 1).dqmap.toNat / 16 % 16 = 1 ∧
      (let s := [64, 65, 66, 67].foldl (fun s c => setCore s (56 + c - 64 + 4) { getCore s (56 + c - 64 + 4) with cstate := 2 }) w
       ∀ i ∈ List.range 4, (getCore s (1 * 56 + 4 * 1 + i)).cstate.toNat % 4 = 2)) ∧
    ((∀ t ∈ w.teams, t.core ≠ 5) ∧ (∃ t ∈ w.teams, t.core = 0) ∧
      (let s := setCore w 5 { getCore w 5 with cstate := 2 }
       (getCore s 5).cstate.toNat % 4 = 2)) ∧
    (dieOfPa (0x1000 * 64) = 0 ∧ 0x1000 * 64 < Config.hbmEnd ∧ dieOfPa ((2 ^ 38 - 1) * 64) ≠ 0) := by decide +kernel

/-- Rows, lines and frames that errors strike. -/
theorem witness_DieEvents_errors :
    (let c := getCore w 0
     c.celog.getLsbD 0 = false ∧ partReg c.cpart * 65536 ≤ 16 % 1024 * 4096 + 16 / 1024 * 128 ∧
      16 % 1024 * 4096 + 16 / 1024 * 128 < partReg c.cpart * 65536 + partScr c.cpart * 65536) ∧
    (let s := homeTouch w 0x1000 1 0 true
     0x1000 * 64 < Config.hbmEnd ∧ ((getDie s (dieOfPa (0x1000 * 64))).slice.find? fun y =>
       y.line * 64 / Config.frameBytes == 0x1000 * 64 / Config.frameBytes).any (fun x => decide (x.prot < 3)) = true) ∧
    (let s := setDie (waits (.zeroing 3)) 0 { getDie w 0 with zeroing := [(3, 9)] }
     3 / Config.framesPerDie = 0 ∧ ((getDie s 0).zeroing.find? fun x => x.1 == 3) = some (3, 9) ∧ Canonical s) := by decide +kernel

/-- A line in a core's cache and in a slice, a fault-buffer entry's tag, a core that a warm reset will empty; ranges of removed translations. -/
theorem witness_DieEvents_lost :
    (let s := cacheWrite w 0 0x1038 [9] 0 0 0 none
     (getCore s 0).cache ≠ [] ∧ (getCore s 0).celog.getLsbD 0 = false) ∧
    (let s := homeTouch w 0x1000 1 0 true
     (getDie s 0).slice ≠ [] ∧ (∀ x ∈ (getDie s 0).slice, x.line < 2 ^ 38) ∧ (getDie s 0).delog.getLsbD 0 = false) ∧
    (let e := entry 1 0 .reissue
     (getDie (faulting e) 0).fb = e :: [] ∧ e.tag ≠ 0 ∧ ContextAt (faulting e) 0 e.tag ∧ (getSlot (faulting e) 0).st ∈ [1, 2, 3, 4]) ∧
    (w.hub.job = none ∧ (getCore w 0).celog.getLsbD 0 = false ∧ ∃ t ∈ w.teams, t.core = 0 ∧ t.tag ≠ 0) ∧
    (let s := cacheWrite w 0 0x1038 [9] 0 0 0 none
     let s := setDie s 0 { getDie s 0 with xinv := 0, removed := [(0, 0x2000)] }
     Canonical s ∧ (getDie s 0).xinv.getLsbD 63 = false ∧ (∃ r ∈ (getDie s 0).removed, r.1 ≤ 0x40 * 64 ∧ 0x40 * 64 < r.1 + r.2) ∧
      (cacheLine (getCore s 0) (0x1038 / 64)).any (fun x => x.dirty.getLsbD (0x1038 % 64)) = true ∧ s.cores.length = 1) := by decide +kernel

/-- A machine with nothing alive. -/
theorem witness_BootEvents : State.reset.hub.bootState ≤ 1 ∧ (∀ p ∈ State.reset.hub.slots, ¬ (p.2.cxctl.getLsbD 31 = true ∧ (p.2.st = 2 ∨ p.2.st = 3))) ∧
    (∀ d ∈ State.reset.dies, d.2.fb = []) := by decide +kernel

/-- Each stage of boot, and a third failure; implicated contexts alone; a warm reset that saves a context, and one whose context is implicated. -/
theorem witness_BootEvents_stages :
    (∀ n ∈ List.range 6, ({ w.hub with bootState := n } : Hub).bootState = n) ∧ (3 ≤ ({ w.hub with bootFails := 3 } : Hub).bootFails) ∧
    (w.hub.job = none ∧ (∀ d ∈ w.dies, d.2.fb = []) ∧
      (∀ p ∈ w.hub.slots, p.2.cxctl.getLsbD 31 = true → p.2.st = 2 ∨ p.2.st = 3 → p.2.cxctl.setWidth 12 ∈ [(1 : Tag)]) ∧ ContextAt w 0 1) ∧
    (∀ n ∈ [3, 4], let s := setSlot w 0 { getSlot w 0 with st := n, fatal := true }
     let s := { s with hub := { s.hub with job := some { source := 2, log := 0, tags := [], todo := [0], saved := [], time := 0 } } }
     (s.hub.job.map (·.todo)) = some (0 :: []) ∧ (getSlot s 0).leaving = false ∧ (getSlot (preempt s 0) 0).st = n ∧
      (getSlot (preempt s 0) 0).leaving = false) := by decide +kernel

/-- The context's slot in a state. -/
def slotIs (n : Nat) (fatal : Bool := false) : State := setSlot w 0 { getSlot w 0 with st := n, fatal, term := 0x7000 }
/-- Contexts in each state, idle units, a tag taken and one free; a function's only context. -/
theorem witness_ContextEvents :
    (∀ n ∈ [1, 2, 3, 4], ContextAt (slotIs n) 0 1 ∧ (getSlot (slotIs n) 0).st = n ∧ (getSlot (slotIs n) 0).fatal = false) ∧
    ContextAt (slotIs 3 true) 0 1 ∧ (getSlot (slotIs 3 true) 0).fatal = true ∧ Canonical w ∧
    (∀ c ∈ coresOf w 1, (getCore w c).matq = [] ∧ (getCore w c).ixq = []) ∧ (getSlot w 255).st < 2 ∧
    (∃ p ∈ w.hub.slots, p.1 ≠ 255 ∧ p.2.cxctl.getLsbD 31 = true ∧ p.2.cxctl.toNat % 4096 = 1) ∧
    (w.hub.slots.filter fun p => p.2.cxctl.getLsbD 31 && decide (p.2.cxctl.toNat / 2 ^ 24 % 64 = 0)) = [(0, getSlot w 0)] := by decide +kernel

/-- No team of the context waits for another package. -/
theorem witness_ContextEvents_quiet : Quiet w ∧ (∀ t ∈ teamsOfTag w 1, ∀ m ∈ w.fabric.msgs, m.isOf t.uid = false) ∧ teamsOfTag w 1 ≠ [] := by
  decide +kernel

/-- A launch packet of tag 1. -/
def packet (sig : Nat) : List Byte :=
  leBytes 8 0x4000 ++ leBytes 4 1 ++ leBytes 2 8 ++ leBytes 10 0 ++ leBytes 8 0x99 ++ List.replicate 64 7 ++ leBytes 4 0 ++ leBytes 4 sig ++ leBytes 12 0 ++
    leBytes 2 1 ++ leBytes 10 0
/-- An image's header with a magic number. -/
def header (magic : Nat) : List Byte :=
  leBytes 4 magic ++ leBytes 2 0x300 ++ leBytes 18 0 ++ leBytes 4 0x44 ++ leBytes 4 0 ++ leBytes 4 0x40 ++ leBytes 4 0x80 ++ leBytes 4 0 ++ leBytes 4 0x80 ++
    leBytes 1 16 ++ leBytes 1 0 ++ leBytes 2 4 ++ leBytes 4 0x010101 ++ leBytes 2 1 ++ leBytes 2 64 ++ leBytes 4 0
/-- Stage 2 runs, and queue 3 of tag 1 holds a packet whose image has that magic number. -/
def queued (magic : Nat) : State :=
  let s := mb 0x4000 (header magic) mapped
  let s := { s with teams := [], hub := { s.hub with bootState := 4, launches := [] } }
  let s := setQueue s 3 { getQueue s 3 with cfg := 0xF0000001 }
  match execLaunchPacketWrite (.host false) 3 0 (packet 0) s with
  | .next s => s
  | _ => s
/-- What the header at the head of queue 3 reads as. -/
def headRead (s : State) (p : Packet → Header → Bool) : Bool := match (getQueue s 3).packets with
  | k :: _ => (match readHeader s (BitVec.ofNat 12 k.owner) k.image with
    | (_, .got b) => p k (headerOf b)
    | _ => false)
  | [] => false

/-- Packets of the right and of other lengths and owners. -/
theorem witness_LaunchEvents_packets : (packet 0).length = 128 ∧ leNat ((packet 0).drop 0x74 |>.take 2) = 1 ∧ leNat ((packet 0).drop 0x78) = 0 ∧
    (List.replicate 127 (0 : Byte)).length ≠ 128 ∧ (getQueue w 255).cfg.getLsbD 31 = false ∧
    (let s := setQueue w 255 { getQueue w 255 with cfg := 0x80000001 }
     (getQueue s 255).cfg.getLsbD 31 = true ∧ (getQueue s 255).cfg.toNat % 4096 = 1 ∧ (getQueue s 255).packets.length < 64) ∧
    (let s := setQueue w 255 { getQueue w 255 with cfg := 0x80000002 }
     (getQueue s 255).cfg.toNat % 4096 ≠ 1) := by decide +kernel

/-- Functions with a queue and without; a peer that no ACL entry lets in; an entry for it. -/
theorem witness_LaunchEvents_functions :
    (let s := setQueue w 7 { getQueue w 7 with cfg := 0x80C00001 }
     (getQueue s 7).cfg.toNat / 2 ^ 22 % 64 = 3 ∧ ((List.range 256).filter fun k => decide ((getQueue s k).cfg.toNat / 2 ^ 22 % 64 = 3)).length ≤ 1) ∧
    (let s := setQueue { w with hub := { w.hub with acl := [(0, 0x8002FFF000000007), (1, 0x0001FFF000000007)] } } 7 { getQueue w 7 with cfg := 0x80000001 }
     (getQueue s 7).cfg.getLsbD 31 = true ∧ ∀ e ∈ s.hub.acl, ¬ (e.2.getLsbD 63 = true ∧ e.2.toNat / 2 ^ 48 % 256 = 1 ∧ e.2.toNat % 256 = 7 ∧
       (e.2.toNat / 2 ^ 36 % 4096 = 9 ∨ e.2.toNat / 2 ^ 36 % 4096 = 0xFFF))) := by decide +kernel

/-- A head that is refused, one that becomes a launch, and no candidate. -/
theorem witness_LaunchEvents_dispatch :
    (∀ m ∈ [0x33464A48, 5], let s := queued m
      s.hub.bootState = 4 ∧ bestCandidate s = some (.queue 3) ∧ (candLaunch s (.queue 3)).isNone = true ∧
      headRead s (fun k h => decide (h.refusal.isSome = true ↔ m = 5) && decide (k.ltr = 0 ∧ k.sig < 2 ^ 31) &&
        decide (m = 5 ∨ k.ok s h = true) && decide ((k.flags ||| h.flags) / 4 % 2 = 0))) ∧
    (bestCandidate { w with hub := { w.hub with bootState := 4, launches := [] } }).isNone = true ∧ w.hub.bootState ≠ 4 := by decide +kernel
/-- A launch of which no team is placed yet. -/
def unplaced : State :=
  let s := queued 0x33464A48
  let l := { (w.hub.launches.headD (probeLaunch w 16 0)) with placed := 0 }
  { s with hub := { s.hub with launches := [{ l with queue := 3 }] }, cores := [] }
/-- It has a place. -/
theorem witness_LaunchEvents_place :
    (let s := unplaced
     s.hub.bootState = 4 ∧ ((bestCandidate s).bind (candLaunch s)).any (fun l => decide (launchOf s l.id = some l ∧ l.flags / 4 % 2 = 0 ∧
      l.placed < l.pkt.teams ∧ l.comp = none) && ((dieOrder s).findSome? fun d => placeIn s l d).isSome) = true ∧ s.teams = []) := by decide +kernel
/-- The launch of the running team with an elapsed time, and what is over. -/
theorem witness_LaunchEvents_end :
    ((launchOf w 0).map (fun l => (l.id, l.comp)) = some (0, none) ∧ slotOfTag w 1 = some 0 ∧ (getSlot w 0).st = 2 ∧ (∃ t ∈ w.teams, t.launch = 0)) ∧
    (let s := { w with teams := [] }
     (launchOf s 0).any (fun l => launchOver { s with hub := { s.hub with launches := [{ l with placed := l.pkt.teams }] } }
       { l with placed := l.pkt.teams } && decide (l.pkt.ltr = 0))) = true ∧
    counter w 4100 ≠ BitVec.allOnes 64 := by decide +kernel
/-- A page that another tag owns, waited for by none; a launch's page; the last waiter and one before it. -/
theorem witness_ReplayEvents_refused :
    (let e := { entry 1 0 .reissue with waiters := [] }
     (match rewalk (mb 0xA0000 (leBytes 8 (0x1F + 2 ^ 53)) (faulting e)) e with
       | .perm _ _ => true
       | _ => false) = true) ∧
    (let e := entry 1 0 (.launch 3)
     let s := queued 0x33464A48
     let s := setDie s 0 { getDie s 0 with fb := [e] }
     entryOf s 0 4 = some e ∧ e.waiters.map (·.kind) = [.launch 3] ∧
      ((getQueue s 3).packets.head?).any (fun p => decide (p.ltr = 0 ∧ p.sig < 2 ^ 31)) = true) ∧
    (∀ l ∈ [[], [{ team := 1, frag := 0, launch := 0, pc := 0, access := 1, kind := WaiterKind.reissue : Waiter }]],
      let e := entry 3 0 .reissue l
      entryOf (faulting e) 0 4 = some e ∧ e.state = 3 ∧ e.waiters.tail = l) := by decide +kernel

/-- A launch that has issued, its time run out and not, fired and not; a packet that breaks a rule of its image. -/
theorem witness_LaunchEvents_watchdog :
    (∀ x ∈ [(100000000, false), (99999999, false), (100000000, true)],
      let s := { w with hub := { w.hub with launches := w.hub.launches.map fun l => { l with tfirst := some 5, elapsed := x.1, fired := x.2 } } }
      (launchOf s 0).any (fun l => decide (l.tfirst ≠ none ∧ l.elapsed = x.1 ∧ l.fired = x.2 ∧ l.pkt.period = 0)) = true ∧ slotOfTag s 1 = some 0 ∧
        (getSlot s 0).st = 2 ∧ ∃ t ∈ s.teams, t.launch = 0) ∧
    (let s := queued 0x33464A48
     let s := setQueue s 3 { getQueue s 3 with packets := (getQueue s 3).packets.map fun p => { p with teams := 0 } }
     bestCandidate s = some (.queue 3) ∧ (candLaunch s (.queue 3)).isNone = true ∧
      headRead s fun k h => h.refusal.isNone && !k.ok s h && decide (k.ltr = 0 ∧ k.sig < 2 ^ 31)) := by decide +kernel

/-- A compensation launch that is over, whose activity failed with 5. -/
def compensated : State :=
  let a := { act .walking (some (0, 7)) with running := true }
  let l := { (w.hub.launches.headD (probeLaunch w 16 0)) with comp := some (0, 7), compStatus := some (5, 0), placed := 1 }
  let s := acting .opened none
  { s with teams := [], hub := { s.hub with launches := [{ l with pkt := { l.pkt with teams := 1 } }], acts := [a] } }
theorem witness_HubEvents_compensation :
    (let s := compensated
     (s.hub.launches.head?).any (fun l => launchOver s l && decide (launchOf s l.id = some l ∧ l.comp = some (0, 7) ∧ l.compStatus = some (5, 0) ∧
       (s.hub.acts.find? fun a => a.running && l.comp.isSome && a.last == l.comp) = actAt s 1 3 ∧
       EntrySound (entryPut (contextIdle (endLaunch (endTenancies s l.id) l 0) l.tag) (0, 7) 0x38 (leBytes 4 5)) (0, 7)))) = true := by
  decide +kernel
/-- A walk that waits for a key since k cycles, the key held by another activity's older entry or not. -/
def keyed (k : Nat) (held : Bool) : State :=
  let a := { act .walking (some (0, 7)) with keyWait := some k }
  let s := acting .opened none
  let s := { s with hub := { s.hub with acts := [{ act .opened (some (1, 3)) with slot := 1 }, a], actcfg := 0x80000005 } }
  mb (entryAddr s 0 7) (leBytes 8 3 ++ leBytes 8 99) (mb (entryAddr s 1 3) (leBytes 8 4 ++ leBytes 8 (if held then 99 else 98)) s)
theorem witness_HubEvents_key :
    (∀ b ∈ [true, false], let s := keyed 5000 b
      Canonical s ∧ (actAt s 1 3).map (fun a => (a.st, a.last, a.keyWait)) = some (.walking, some (0, 7), some 5000) ∧
      ((actAt s 1 3).bind fun a => (keyLook s a (0, 7)).2) = some b ∧ EntrySound s (0, 7) ∧
      ((actAt s 1 3).map fun a => decide (EntrySound (keyLook s a (0, 7)).1 (0, 7))) = some true) ∧
    (keyed 5000 true).hub.actcfg.toNat % 2 ^ 20 * 1000 ≤ 5000 ∧ 4999 < (keyed 4999 true).hub.actcfg.toNat % 2 ^ 20 * 1000 := by decide +kernel

/-- A walk of a context that runs, and of one that is SAVED. -/
theorem witness_HubEvents_saved :
    (slotOfTag w 1 = some 0 ∧ (getSlot w 0).st ≠ 4 ∧ walkPaused (keyed 5000 true) 1 = false ∧ walkPaused compensated 1 = false) ∧
    (let s := setSlot w 0 { getSlot w 0 with st := 4 }
     slotOfTag s 1 = some 0 ∧ (getSlot s 0).st = 4 ∧ (launchOf s 0).any (fun l => l.tag == 1) = true) := by decide +kernel

/-- The machine at a time, with a request to another package since time 5. -/
def asking (now : DWord) (q : PodReq) : State :=
  { w with
    gtime := now
    fabric := { w.fabric with msgs := [{ team := 0, frag := (fr w).num, lanes := 1, pkg := 1, va := 0x00A0000000001040, req := q, pc := 5, time := 5 }] } }

/-- Links, channels, functions and writes of the pod that are let in and that are not. -/
theorem witness_FabricEvents :
    (let s := { w with fabric := { w.fabric with tlink := [(17, 0xC000FFFF00000000)] } }
     (tabGet (0 : DWord) s.fabric.tlink 17).toNat / 2 ^ 32 % 65536 = 65535) ∧
    (let s := { mapped with hub := { mapped.hub with timelines := [(4100, 7), (4101, 9)], tlown := [(4, 0x80000001), (5, 0x80000001)] } }
     ∀ n ∈ [4100, 4101], 4096 ≤ n ∧ counterOwner s n = some 1) ∧
    (let s := { mapped with fabric := { mapped.fabric with podacl := [(0, 0x8001009001000000)], fpod := 0x101, hbar2 := [(63, 0x80000001)] } }
     let va : DWord := 0x0080800000002010
     Canonical s ∧ podAdmit s 1 9 = some 1 ∧ va.toNat % 2 ^ 47 % 64 + 48 ≤ 64 ∧ heldBehind (getDie s (homeDie s 1)) 1 0 1 9 = false ∧
      (match translateWalk s 1 0x2010 .write with
       | .ok pa _ => decide (pa < Config.hbmEnd ∧ pa % 64 = 0x10)
       | _ => false) = true ∧ podAdmit w 1 9 = none ∧ (tabGet (0 : Word) s.fabric.hbar2 63).getLsbD 31 = true ∧
      (tabGet (0 : Word) s.fabric.hbar2 0).getLsbD 31 = false) ∧
    (let s := asking 20000000 .store
     (s.fabric.msgs.findIdx? fun m => m.team == 0 && decide (10000000 ≤ s.gtime.toNat - m.time.toNat)) = some 0 ∧ ContextAt s 0 1 ∧
      (s.fabric.msgs.head?.map (·.req)) = some .store) := by decide +kernel

/-- Answers to each kind of request; a request not yet late; a write of two lines through the host's aperture, one outside it. -/
theorem witness_FabricEvents_answers :
    (∀ q ∈ [PodReq.store, .acc (.sld 3 0x1040) [], .packet], let s := asking 10000004 q
      (s.fabric.msgs.map (·.req)) = [q] ∧ teamOf s 0 = some (tm s) ∧ (tm s).scalars.length = 32 ∧
        ∀ m ∈ s.fabric.msgs, ¬ (10000000 ≤ s.gtime.toNat - m.time.toNat)) ∧
    (∀ q ∈ [PodReq.packet], let s := waits .packet (asking 20 q)
      (fragOf (tm s) (fr w).num).map (fun f => (f.st, f.wait)) = some (.parked, some .packet)) ∧
    (let s := { mapped with fabric := { mapped.fabric with hbar2 := [(5, 0x80000001)] } }
     (tabGet (0 : Word) s.fabric.hbar2 5).setWidth 12 = (1 : Tag) ∧ (match translateWalk s 1 0x1F7FF0 .write with
      | .ok pa _ => decide (pa < Config.hbmEnd ∧ pa % 64 = 0x30)
      | _ => false) = true ∧ (match translateWalk s 1 0x1F8000 .write with
      | .ok _ _ | .zero _ _ => false
      | _ => true) = true ∧ 0x1F7FF0 % 64 + 32 ≤ 128 ∧ 64 < 0x1F7FF0 % 64 + 32 ∧ 2 ^ 40 < 2 ^ 40 - 8 + 16) := by decide +kernel

/-- A bench frozen and one that is not, claims of tag 0 and of another, a broadcast of the context, samples. -/
theorem witness_BenchEvents :
    (Canonical w ∧ (3 : Nat) < (getCore w 0).benches.length ∧ (getBench w 0 0).bctl.getLsbD 0 = false ∧ (getBench w 0 0).claimant = none ∧
      (getBench w 0 0).bsample = 0 ∧ (getCore w 0).cowner.getLsbD 31 = true ∧ ContextAt w 0 ((getCore w 0).cowner.setWidth 12) ∧
      (getSlot w 0).st = 2 ∧ (∃ t ∈ w.teams, t.core = 0 ∧ t.bench = 0) ∧ (tm w).tag ≠ 0 ∧ (tm sup).tag = 0) ∧
    (let s := setBench w 0 1 { Bench.reset with bctl := 5 }
     (getBench s 0 1).bctl.getLsbD 0 = true ∧
      ∃ k ∈ s.cores, k.2.cowner = (getCore s 0).cowner ∧ ∃ y ∈ k.2.benches, y.bctl.getLsbD 0 = true ∧ y.bctl.getLsbD 2 = true) ∧
    (let s := setBench w 0 0 { Bench.reset with bsample := 5, btrace := 0x1800000000010000 }
     (getBench s 0 0).bsample ≠ 0 ∧ fld (getBench s 0 0).btrace 56 5 = 24) ∧
    (let s := setBench w 0 0 { Bench.reset with bpctl := [0, 0x80000000, 0, 0] }
     (hitOf s (tm s)).isSome = true ∧ mayIssue s (tm s) = true ∧ (getBench s 0 0).bctl.getLsbD 0 = false) ∧
    (let s := setQuad (setBench w 0 0 { Bench.reset with bpctl := [0, 0x80000000, 0, 0] }) 0 { getQuad w 0 with pattern := 0 }
     (hitOf s (tm s)).isSome = true ∧ mayIssue s (tm s) = false) := by decide +kernel

/-- A bench whose sample is due, n waiting. -/
def sampling (n : Nat) : State :=
  setBench w 0 0 { Bench.reset with bsample := 5, pulses := 5, recs := List.replicate n [], btrace := 0x0600000000000000 }
/-- Freezes that call other benches and that do not; a bench called, with a team of the context and without; samples due, waiting and dropped. -/
theorem witness_BenchEvents_more :
    (let s := setBench w 0 0 { Bench.reset with bctl := 0 }
     Quiet s ∧ Canonical s ∧ (getBench s 0 0).bctl.getLsbD 0 = false ∧ (getBench s 0 0).bctl.getLsbD 2 = false) ∧
    (Quiet w ∧ Canonical w ∧ (getBench w 0 0).bctl.getLsbD 2 = true) ∧
    (let s := modTeam (setBench w 0 0 { Bench.reset with bctl := 4 }) 0 fun t => { t with bench := 1 }
     (getBench s 0 0).bctl.getLsbD 2 = true ∧ (getCore s 0).cowner.getLsbD 31 = true ∧
      (getCore (setCore s 0 { getCore s 0 with cowner := 1 }) 0).cowner.getLsbD 31 = false ∧
      (∃ t ∈ s.teams, t.tag = (getCore s 0).cowner.setWidth 12 ∧ ¬ (t.core = 0 ∧ t.bench = 0) ∧ t.bench < (getCore s t.core).benches.length)) ∧
    (let s := setBench w 0 0 { Bench.reset with called := some 1 }
     (getBench s 0 0).called = some 1 ∧ ∃ t ∈ s.teams, t.core = 0 ∧ t.bench = 0 ∧ t.tag = 1) ∧
    (let s := setBench w 0 0 { Bench.reset with called := some 2 }
     (getBench s 0 0).called = some 2 ∧ ∀ t ∈ s.teams, ¬ (t.core = 0 ∧ t.bench = 0 ∧ t.tag = 2)) ∧
    (∀ n ∈ [0, 63, 64], let x := (getBench (sampling n) 0 0)
      x.bsample.toNat % 2 ^ 32 = 5 ∧ x.pulses = 5 ∧ fld x.btrace 56 5 = 6 ∧ fld x.btrptr 32 32 ≠ 0xFFFFFFFF ∧ x.recs.length = n) ∧
    (∀ u ∈ w.teams, u.core = 0 → u.bench = 0 → u = tm w) := by decide +kernel

/-- The state of a step that fetches, its only fragment READY; and what it is when the fragment runs. -/
def fetching : State := started (State.reset.withFetchWord 16 0x100)
/-- The fragment chosen. -/
def chosen : State := (chooseFrag fetching (tm fetching)).1
theorem witness_StepRunsDecoded : (nextChoice (settle (State.reset.withFetchWord 16 0x100))).1 = .issue 0 ∧
    teamOf fetching 0 = some (tm fetching) ∧ mayIssue fetching (tm fetching) = true ∧
    (runFrag (tm fetching) = none ∧ ((tm fetching).nextReady.map fun g => ({ g with st := .run, spilled := false } : Frag)) = some (fr chosen) ∧
      ((tm fetching).nextReady.map (·.spilled)) = some false ∧ chosen = setTeam fetching (setFrag (tm fetching) (fr chosen))) ∧
    (tm chosen).held = none ∧ (tm chosen).heldIx = [] ∧ hitOf chosen (tm chosen) = none ∧
    (match regionTurn (tm chosen) (fr chosen) with
      | .free => true
      | _ => false) = true ∧ dueTimer chosen (tm chosen) (fr chosen) = none ∧
    (match fetchCheck chosen (tm chosen) (fr chosen) with
      | .ok s => decide (decode (parcelsAt s (tm chosen) (fr chosen).pc) = .ok .nop 1) && !withheldNow s (tm chosen) (fr chosen) .nop
      | _ => false) = true := by decide +kernel

/-- An encoded instruction and a pattern that decodes. -/
theorem witness_EncodingAgrees : Instr.encoded (.ldL 3 .w64 3 31 0xFFFFFFFF) = true ∧ WellFormed (.ldL 3 .w64 3 31 0xFFFFFFFF) = true ∧
    decode [0x4522] = .ok (.fdiv 2 .rz) 1 := by decide +kernel

/-- The memories of the running machine are in their canonical form, and a step answers. -/
theorem witness_CanonicalKept : Canonical (State.reset.withFetchWord 16 0x100) ∧ (match step (State.reset.withFetchWord 16 0x100) with
    | .next _ => true
    | _ => false) = true := by decide +kernel

/-- TOS of lane 0 after an instruction. -/
def top (i : Instr) (s : State) (v : Word) : Bool := gives (exec i s) fun _ t => (t.lane 0).stack.head?.map (·.bits) == some v
/-- The two top entries, TOS first. -/
def tops (i : Instr) (s : State) (v : List Word) : Bool := gives (exec i s) fun _ t => ((t.lane 0).stack.take v.length).map (·.bits) == v
/-- A scalar after it. -/
def scalar (i : Instr) (s : State) (r : SReg) (v : DWord) : Bool := gives (exec i s) fun _ t => getS t r == v

/-- Moves: ( a b — b a ), ( a b c — b c a ), and the pair of a local with the next (R128). -/
theorem test_stack_moves : tops .swap (st [2, 1]) [1, 2] ∧ tops .rot (st [3, 2, 1]) [1, 3, 2] ∧ tops (.pick 2) (st [3, 2, 1]) [1, 3, 2, 1] ∧
    tops (.roll 2) (st [3, 2, 1]) [1, 3, 2] ∧ tops .dup2 (st [2, 1]) [2, 1, 2, 1] := by decide +kernel
/-- Integers: wraps, the order of operands, signs and saturation (R101, R133, R134). -/
theorem test_integers : top .add (st [2, 0xFFFFFFFF]) 1 ∧ top .sub (st [1, 3]) 2 ∧ top .mulh (st [2, 0xFFFFFFFF]) 0xFFFFFFFF ∧
    top .mulhu (st [2, 0xFFFFFFFF]) 1 ∧ top .adds (st [1, 0x7FFFFFFF]) 0x7FFFFFFF ∧ top .sar (st [33, 0x80000000]) 0xC0000000 ∧
    top .shr (st [33, 0x80000000]) 0x40000000 ∧ top .rotl (st [4, 0x80000001]) 0x18 ∧ top (.div 0) (st [2, 0xFFFFFFF9]) 0xFFFFFFFD ∧
    top (.rem 0) (st [2, 0xFFFFFFF9]) 0xFFFFFFFF ∧ top (.divu 0) (st [0, 5]) 0xFFFFFFFF := by decide +kernel
/-- Bit fields and bytes (R135). -/
theorem test_fields : top .bfx (st [4, 8, 0xF00]) 0xFFFFFFFF ∧ top .bfxu (st [4, 8, 0xF00]) 0xF ∧ top .bfi (st [8, 4, 0xAB, 0xFFFFFFFF]) 0xFFFFFABF ∧
    top .permb (st [0x07040300, 0x88776655, 0x44332211]) 0x88554411 ∧ top .clz (st [0x00010000]) 15 ∧ top .brev (st [1]) 0x80000000 := by
  decide +kernel
/-- Pairs hold their high half on top (R12, R137). -/
theorem test_pairs : tops .add64 (st [0, 1, 0, 0xFFFFFFFF]) [1, 0] ∧ tops .mulw (st [0xFFFFFFFF, 2]) [0xFFFFFFFF, 0xFFFFFFFE] ∧
    tops .sar64 (st [4, 0x80000000, 0]) [0xF8000000, 0] := by decide +kernel
/-- Binary32 (R105, R108 to R111, R113, R114). -/
theorem test_floats : top (.fadd .fmt) (st [0x40000000, 0x3F800000]) 0x40400000 ∧ top (.fmul .fmt) (st [0x40000000, 0x3FC00000]) 0x40400000 ∧
    top .fabs (st [0xFFC00001]) 0x7FC00000 ∧ top .fmin (st [0x80000000, 0]) 0x80000000 ∧ top (.fcmp .un) (st [0x7FC00000, 0]) 1 ∧
    top (.cvt .f32 .i32 .rz false) (st [0xBFC00000]) 0xFFFFFFFF ∧ top (.fdiv 0 .fmt) (st [0x40400000, 0x3F800000]) 0x3EAAAAAB ∧
    (gives (exec (.fdiv 0 .fmt) (st [0, 0x3F800000])) fun _ t => t.fpsf.getLsbD 1) := by decide +kernel
/-- The row of the chapter on number formats, quantised: its streams and NX (R121 to R124). -/
theorem test_quantised_row :
    let z := List.replicate 12 (0 : Word)
    let r := quantise 4 3 false ([0x40400000, 0xBFA00000, 0, 0, 0x3F000000, 0x3E800000] ++ List.replicate 10 0 ++ ([0x40200000, 0, 0, 0] ++ z) ++
      ([0x3E99999A, 0xBE4CCCCD, 0, 0] ++ z))
    r.elem = [0x6C, 3, 0x80, 8, 0, 0, 0, 0, 0, 0, 0xA, 0, 0, 0, 0, 0, 0, 0, 0, 0, 0x4A, 3, 0, 0, 0, 0, 0, 0, 0, 0] ∧ r.micro = [0xF8, 0xFC, 0xFC] ∧
      r.bmap = [5] ∧ r.exps = [0x81, 0x7E, 0] ∧ r.fl.getLsbD 4 = true := by decide +kernel
/-- Lanes with each other (R147 to R150). -/
theorem test_lanes : top .ballot flags01 1 ∧ scalar (.readl 5) (st [7]) 5 7 ∧ scalar (.reduce 0 .add false 5) (st [7]) 5 14 ∧
    (gives (exec (.shflDn 1) flags01) fun _ t => (t.lane 0).stack.head?.map (·.bits) == some 0 && (t.lane 1).stack.head?.map (·.bits) == some 0) ∧
    (gives (exec .voteAll flags01) fun _ t => !t.cc.getLsbD 0) := by decide +kernel
/-- Scalars: the carry and overflow of a sum, and no borrow (R154 to R156). -/
theorem test_scalars :
    (gives (exec (.sadd 3 1 2) (sc 1 0x7FFFFFFFFFFFFFFF (sc 2 1))) fun _ t => getS t 3 == 0x8000000000000000 && t.cc &&& 15 == 10) ∧
    (gives (exec (.scmp 1 2) (sc 1 5 (sc 2 5))) fun _ t => t.cc &&& 15 == 5) ∧ scalar (.sli 0 5) w 0 0 ∧
    scalar (.sliw 1 0x12345678) (sc 1 0xFFFFFFFF) 1 0x12345678FFFFFFFF := by decide +kernel
/-- Control: a branch, a call and its return, a loop's first end, a trap (R160 to R162, R170, R171, R180). -/
theorem test_control : (gives (exec (.brW 0x10) w) fun _ t => (fr w).pc + 0x20 == ((runFrag t).map (·.pc)).getD 0) ∧
    (gives (exec (.callW 0x10) w) fun _ t => t.calls == [⟨(fr w).pc + 4, (fr w).num⟩]) ∧
    (gives (exec .nop (looping [{ start := 0x10, last := (fr w).pc, count := 2 }])) fun _ t =>
      ((runFrag t).map (·.pc)) == some 0x10 && t.loops.map (·.count) == [1]) ∧
    (gives (exec (.trap 9) (handled 0x100)) fun _ t => ((runFrag t).map (·.pc)) == some 0x100 && t.trapcode == 0x903) := by decide +kernel
/-- A split: the then side runs, the else side waits READY at the else address, under a join record (R167). -/
theorem test_split : (gives (exec (.split 0x20 0x30) flags01) fun _ t =>
    t.frags.length == 3 && ((runFrag t).map (·.active)) == some 1 && t.frags.any fun f => f.st == .ready && f.active == 2 && f.pc == (fr w).pc + 0x40) := by
  decide +kernel
/-- Memory: bytes sign-extended, a word stored least significant byte first, the value an atomic found (R12, R216, R224). -/
theorem test_memory : top (.ldW 0 .i8 0 1) (mb 0x1040 [0x80] ld) 0xFFFFFF80 ∧ top (.ldW 0 .n16 0 1) (mb 0x1040 [0x80, 1] ld) 0x180 ∧
    (gives (exec (.stW .w32 0 1) (ld [0x40, 0x11223344])) fun s _ => byteSeen s 0 0x1040 == 0x44 && byteSeen s 0 0x1043 == 0x11 && byteSeen s 0 0x1044 == 0) ∧
    (gives (exec (.atomW 0 .add .none .die 0 1) (mb 0x1040 [5] (ld [0x40, 2]))) fun s t =>
      ((t.lane 0).stack.head?.map (·.bits)) == some 5 && ((t.lane 1).stack.head?.map (·.bits)) == some 7 && Memory.get s.mem 0x1040 == 9) ∧
    (gives (exec (.fenceRel .pkg) (cacheWrite w 0 0x1038 [9] 1 0 0 none)) fun s _ => Memory.get s.mem 0x1038 == 9) := by decide +kernel
/-- The chapter's two encodings, and an activity with the log off (R376). -/
theorem test_activities : encode (.actStep 22 20 23 24 25) = [0xF001, 0x5AF4, 0x0338, 0] ∧ encode (.poolTake 21 9) = [0xB200, 0x5409] ∧
    (gives (exec (.actOpen 6) (sc 6 9)) fun _ t => getS t 6 == 0 && t.cc.getLsbD 5) := by decide +kernel
/-- The example of the power market: with 500 tokens and start quad 10, quads 7, 12 and 3 are granted 40, 40 and 28 (R281); and their
pulses (R285). -/
theorem test_power_market :
    let bids := (List.range 52).map fun k => if k = 7 then (40, 32) else if k = 12 then (40, 16) else if k = 3 then (60, 26) else (8, 0)
    clearBids 500 10 bids = [(7, 32), (12, 32), (3, 20)] ∧ pulses 40 .normal = 16 ∧ pulses 28 .normal = 12 ∧ pulses 8 .normal = 4 ∧
      pulsePattern 2 = 0x8080 ∧ pulsePattern 8 = 0xAAAA ∧ pulsePattern 16 = 0xFFFF := by decide +kernel
/-- A step fetches and runs: the PC moves past NOP (R42, R60). -/
theorem test_step : (gives (step (State.reset.withFetchWord 16 0x100)) fun _ t => ((runFrag t).map (·.pc)) == some 0x42) := by decide +kernel

end Sys2Proof.Tests
end

section
/-! SUPPORT. The bits of a floating-point format: fields, NaNs, infinities, and what reading them gives (R103, R107, R108). -/

namespace Sys2Proof.Machine

/-- The magnitude of some bits is their exponent field above their fraction field. -/
theorem mod_signBit (F : FFmt) (c : Nat) :
    c % F.signBit = c / 2 ^ F.fb % 2 ^ F.eb * 2 ^ F.fb + c % 2 ^ F.fb := by
  rw [FFmt.signBit, Nat.add_comm F.eb, Nat.pow_add, Nat.mod_mul, Nat.add_comm, Nat.mul_comm]

/-- The fraction field of a magnitude. -/
theorem mod_signBit_mod (F : FFmt) (c : Nat) : c % F.signBit % 2 ^ F.fb = c % 2 ^ F.fb :=
  Nat.mod_mod_of_dvd c (Nat.pow_dvd_pow 2 (Nat.le_add_left F.fb F.eb))

/-- The exponent field of a magnitude. -/
theorem mod_signBit_div (F : FFmt) (c : Nat) : c % F.signBit / 2 ^ F.fb = c / 2 ^ F.fb % 2 ^ F.eb := by
  rw [FFmt.signBit, Nat.add_comm F.eb, Nat.pow_add, Nat.mod_mul_right_div_self]

theorem FFmt.signBit_pos (F : FFmt) : 0 < F.signBit := Nat.two_pow_pos _

/-- A word of the format is below twice the sign bit. -/
theorem FFmt.two_pow_width (F : FFmt) : 2 ^ F.width = 2 * F.signBit := by
  rw [FFmt.width, FFmt.signBit, Nat.add_assoc, Nat.pow_add, Nat.pow_one]

/-- Subnormals lie below +∞ in a format with an exponent. -/
theorem FFmt.le_infBits {F : FFmt} (h : 0 < F.eb) : 2 ^ F.fb ≤ F.infBits :=
  Nat.le_mul_of_pos_left _ (Nat.sub_pos_of_lt (Nat.one_lt_two_pow h.ne'))

/-- Exponent and fraction fields against +∞: a larger magnitude has an exponent of all ones and some fraction. -/
theorem fields_of_infBits_lt {F : FFmt} {c : Nat} (h : F.infBits < c % F.signBit) :
    c / 2 ^ F.fb % 2 ^ F.eb = 2 ^ F.eb - 1 ∧ c % F.signBit = F.infBits + c % 2 ^ F.fb := by
  have hex := Nat.mod_lt (c / 2 ^ F.fb) (Nat.two_pow_pos F.eb)
  have hfr := Nat.mod_lt c (Nat.two_pow_pos F.fb)
  have hle : 2 ^ F.eb - 1 ≤ c / 2 ^ F.fb % 2 ^ F.eb := by
    by_contra hlt
    have := Nat.mul_le_mul_right (2 ^ F.fb) (Nat.lt_of_not_le hlt)
    rw [mod_signBit, FFmt.infBits] at h
    rw [Nat.succ_mul] at this
    omega
  have heq : c / 2 ^ F.fb % 2 ^ F.eb = 2 ^ F.eb - 1 := by omega
  exact ⟨heq, by rw [mod_signBit, heq, FFmt.infBits]⟩

/-- The bits of a NaN read as one that signals when its quiet bit is clear. -/
theorem unpack_of_nan {F : FFmt} {c : Nat} (ftz : Bool) (h : nanBits F c = true) :
    unpack F ftz c = .nan (snanBits F c) := by
  have hlt : F.infBits < c % F.signBit := by simpa [nanBits] using h
  obtain ⟨hex, hmag⟩ := fields_of_infBits_lt hlt
  have hfr : c % 2 ^ F.fb ≠ 0 := by omega
  have hq : (c % 2 ^ F.fb / 2 ^ (F.fb - 1) == 0) = snanBits F c := by
    rw [snanBits, h, hmag, FFmt.qnan, Bool.true_and, beq_eq_decide, decide_eq_decide,
      Nat.div_eq_zero_iff_lt (Nat.two_pow_pos _), Nat.add_lt_add_iff_left]
  simp only [unpack, hex, hfr, hq, if_true, if_false]

/-- The bits of an infinity read as it. -/
theorem unpack_of_inf {F : FFmt} {c : Nat} (ftz : Bool) (h : c % F.signBit = F.infBits) :
    unpack F ftz c = .inf (negBits F c) := by
  have hex : c / 2 ^ F.fb % 2 ^ F.eb = 2 ^ F.eb - 1 := by
    rw [← mod_signBit_div, h, FFmt.infBits, Nat.mul_div_cancel _ (Nat.two_pow_pos _)]
  have hfr : c % 2 ^ F.fb = 0 := by
    rw [← mod_signBit_mod, h, FFmt.infBits, Nat.mul_mod_left]
  simp [unpack, hex, hfr, negBits, beq_eq_decide]

end Sys2Proof.Machine
end

section
/-! SUPPORT. Finite magnitudes counted in least subnormals: their order is that of their bits (R103, R110). -/

namespace Sys2Proof.Machine

/-- The significand of a finite magnitude: its fraction, with the leading one unless it is subnormal (R103). -/
def significand (F : FFmt) (mag : Nat) : Nat := if mag / 2 ^ F.fb = 0 then mag else 2 ^ F.fb + mag % 2 ^ F.fb

/-- How far the exponent of a finite magnitude lies above that of the subnormals. -/
def expAbove (F : FFmt) (mag : Nat) : Nat := mag / 2 ^ F.fb - 1

/-- A finite magnitude counted in least subnormals. -/
def inLeast (F : FFmt) (mag : Nat) : Nat := significand F mag * 2 ^ expAbove F mag

/-- Bits below an infinity, nothing flushed, read as the finite value of their sign and magnitude. -/
theorem unpack_of_finite {F : FFmt} {c : Nat} (h : c % F.signBit < F.infBits) :
    unpack F false c = .fin (negBits F c) (significand F (c % F.signBit)) (F.emin + expAbove F (c % F.signBit)) := by
  have hex : c / 2 ^ F.fb % 2 ^ F.eb ≠ 2 ^ F.eb - 1 := by
    intro hex
    rw [mod_signBit, hex, FFmt.infBits] at h
    omega
  simp only [unpack, hex, significand, expAbove, mod_signBit_div, mod_signBit_mod, negBits, if_false, beq_eq_decide,
    Bool.false_eq_true]
  by_cases h0 : c / 2 ^ F.fb % 2 ^ F.eb = 0
  · have hmag : c % F.signBit = c % 2 ^ F.fb := by rw [mod_signBit, h0, Nat.zero_mul, Nat.zero_add]
    simp [h0, hmag]
  · have : ((c / 2 ^ F.fb % 2 ^ F.eb - 1 : Nat) : Int) = (c / 2 ^ F.fb % 2 ^ F.eb : Nat) - 1 := by omega
    simp only [h0, if_false, this, Int.add_sub_assoc]

/-- The flush of R107 can be made on the bits, before they are read. -/
theorem unpack_flushed {F : FFmt} (h : 0 < F.eb) (ftz : Bool) (c : Nat) :
    unpack F ftz c = unpack F false (flushed F ftz c) := by
  have hB := Nat.two_pow_pos F.fb
  cases ftz with
  | false => simp [flushed]
  | true =>
    by_cases hs : c % F.signBit < 2 ^ F.fb
    · have hex : c / 2 ^ F.fb % 2 ^ F.eb = 0 := by rw [← mod_signBit_div, Nat.div_eq_of_lt hs]
      have hz : c / F.signBit * F.signBit % F.signBit = 0 := Nat.mul_mod_left _ _
      have hex' : c / F.signBit * F.signBit / 2 ^ F.fb % 2 ^ F.eb = 0 := by rw [← mod_signBit_div, hz, Nat.zero_div]
      have hfr' : c / F.signBit * F.signBit % 2 ^ F.fb = 0 := by rw [← mod_signBit_mod, hz, Nat.zero_mod]
      have hones : 0 ≠ 2 ^ F.eb - 1 := by have := Nat.one_lt_two_pow h.ne'; omega
      simp [flushed, hs, unpack, hex, hex', hfr', hones, Nat.mul_div_cancel _ F.signBit_pos]
    · have hex : c / 2 ^ F.fb % 2 ^ F.eb ≠ 0 := by
        rw [← mod_signBit_div]
        exact (Nat.div_pos (Nat.le_of_not_lt hs) hB).ne'
      simp [flushed, hs, unpack, hex]

/-- Flushed bits stay within the format. -/
theorem flushed_lt {F : FFmt} {ftz : Bool} {c : Nat} (h : c < 2 ^ F.width) : flushed F ftz c < 2 ^ F.width := by
  unfold flushed
  split
  · exact (Nat.div_mul_le_self _ _).trans_lt h
  · exact h

/-- Bits of the format are their magnitude under their sign. -/
theorem withSign_negBits {F : FFmt} {c : Nat} (h : c < 2 ^ F.width) : withSign F (negBits F c) (c % F.signBit) = c := by
  rw [FFmt.two_pow_width] at h
  have hq : c / F.signBit < 2 := Nat.div_lt_of_lt_mul (by rwa [Nat.mul_comm])
  have hc := Nat.div_add_mod c F.signBit
  obtain h0 | h1 := Nat.le_one_iff_eq_zero_or_eq_one.mp (Nat.le_of_lt_succ hq)
  · simpa [withSign, negBits, h0] using hc
  · simpa [withSign, negBits, h1] using hc

/-- The order of R110 on bits, by sign and magnitude. -/
theorem orderKey_eq {F : FFmt} {c : Nat} (h : c < 2 ^ F.width) :
    orderKey F c = if negBits F c then -1 - ((c % F.signBit : Nat) : Int) else ((c % F.signBit : Nat) : Int) := by
  have hm := Nat.mod_lt c F.signBit_pos
  have hc := withSign_negBits h
  unfold withSign at hc
  unfold orderKey
  cases hn : negBits F c <;> simp only [hn, if_true, if_false, Bool.false_eq_true] at hc ⊢
  · rw [if_pos (by omega), hc]
  · rw [if_neg (by omega)]; omega

/-- Counting in least subnormals keeps the order of magnitudes. -/
theorem inLeast_strictMono (F : FFmt) : StrictMono (inLeast F) := by
  refine strictMono_nat_of_lt_succ fun mag => ?_
  have hB := Nat.two_pow_pos F.fb
  have hmag := Nat.div_add_mod mag (2 ^ F.fb)
  by_cases hcarry : mag % 2 ^ F.fb + 1 < 2 ^ F.fb
  · have hd : (mag + 1) / 2 ^ F.fb = mag / 2 ^ F.fb := by
      rw [Nat.div_eq_iff hB]
      have := Nat.mul_comm (2 ^ F.fb) (mag / 2 ^ F.fb)
      omega
    have hm : (mag + 1) % 2 ^ F.fb = mag % 2 ^ F.fb + 1 := by
      have := Nat.div_add_mod (mag + 1) (2 ^ F.fb)
      rw [hd] at this; omega
    unfold inLeast significand expAbove
    rw [hd, hm]
    refine Nat.mul_lt_mul_of_pos_right ?_ (Nat.two_pow_pos _)
    split <;> omega
  · have hr : mag % 2 ^ F.fb + 1 = 2 ^ F.fb := by have := Nat.mod_lt mag hB; omega
    have hs : mag + 1 = 2 ^ F.fb * (mag / 2 ^ F.fb + 1) := by rw [Nat.mul_succ]; omega
    have hd : (mag + 1) / 2 ^ F.fb = mag / 2 ^ F.fb + 1 := by rw [hs, Nat.mul_div_cancel_left _ hB]
    have hm : (mag + 1) % 2 ^ F.fb = 0 := by rw [hs, Nat.mul_mod_right]
    unfold inLeast significand expAbove
    rw [hd, hm]
    cases hq : mag / 2 ^ F.fb with
    | zero => rw [hq] at hmag; simp; omega
    | succ q =>
      simp only [Nat.succ_ne_zero, if_false, Nat.add_sub_cancel, Nat.pow_succ, ← Nat.mul_assoc]
      have : 2 ^ F.fb + mag % 2 ^ F.fb < 2 ^ F.fb * 2 := by omega
      calc (2 ^ F.fb + mag % 2 ^ F.fb) * 2 ^ q < 2 ^ F.fb * 2 * 2 ^ q := Nat.mul_lt_mul_of_pos_right this (Nat.two_pow_pos q)
        _ = (2 ^ F.fb + 0) * 2 ^ q * 2 := by ring

/-- A magnitude counted in least subnormals is zero for zero only. -/
theorem inLeast_eq_zero {F : FFmt} {mag : Nat} : inLeast F mag = 0 ↔ mag = 0 := by
  have h0 : inLeast F 0 = 0 := by simp [inLeast, significand]
  rw [← (inLeast_strictMono F).injective.eq_iff (a := mag) (b := 0), h0]

/-- Only zero has no significand. -/
theorem significand_eq_zero {F : FFmt} {mag : Nat} : significand F mag = 0 ↔ mag = 0 := by
  rw [← inLeast_eq_zero (F := F) (mag := mag), inLeast, Nat.mul_eq_zero, or_iff_left (Nat.two_pow_pos _).ne']

/-- A signed integer over 2^q is the same number over a lower power. -/
theorem scaleTo_mul_two_pow {n : Bool} {m : Nat} {e q p : Int} (hq : q ≤ e) (hp : p ≤ q) :
    scaleTo n m e q * 2 ^ (q - p).toNat = scaleTo n m e p := by
  have : (e - p).toNat = (e - q).toNat + (q - p).toNat := by omega
  cases n <;> simp [scaleTo, this, pow_add, mul_assoc]

/-- The comparison of R110 does not depend on the power of two in which both values are counted. -/
theorem ltTotal_eq_of_le {na nb : Bool} {ma mb : Nat} {ea eb p : Int} (ha : p ≤ ea) (hb : p ≤ eb) :
    ltTotal na ma ea nb mb eb =
      if scaleTo na ma ea p = 0 && scaleTo nb mb eb p = 0 then na && !nb
      else decide (scaleTo na ma ea p < scaleTo nb mb eb p) := by
  have hpos : (0 : Int) < 2 ^ (min ea eb - p).toNat := by positivity
  rw [← scaleTo_mul_two_pow (q := min ea eb) (min_le_left ..) (le_min ha hb),
    ← scaleTo_mul_two_pow (q := min ea eb) (m := mb) (min_le_right ..) (le_min ha hb)]
  simp only [ltTotal, mul_eq_zero, hpos.ne', or_false, mul_lt_mul_iff_left₀ hpos]

/-- A finite value counted in least subnormals. -/
theorem scaleTo_emin (F : FFmt) (n : Bool) (mag : Nat) :
    scaleTo n (significand F mag) (F.emin + expAbove F mag) F.emin = if n then -(inLeast F mag : Int) else inLeast F mag := by
  simp [scaleTo, inLeast]

/-- Finite values compare as the order of R110 on sign and magnitude. -/
theorem ltTotal_finite (F : FFmt) (na nb : Bool) (x y : Nat) :
    ltTotal na (significand F x) (F.emin + expAbove F x) nb (significand F y) (F.emin + expAbove F y) =
      decide ((if na then -1 - (x : Int) else x) < if nb then -1 - (y : Int) else y) := by
  have hlt := (inLeast_strictMono F).lt_iff_lt (a := x) (b := y)
  have hgt := (inLeast_strictMono F).lt_iff_lt (a := y) (b := x)
  have hx := inLeast_eq_zero (F := F) (mag := x)
  have hy := inLeast_eq_zero (F := F) (mag := y)
  rw [ltTotal_eq_of_le (p := F.emin) (by omega) (by omega), scaleTo_emin, scaleTo_emin, Bool.eq_iff_iff]
  cases na <;> cases nb <;> simp <;> omega

end Sys2Proof.Machine
end

section
/-! SUPPORT. Reading bits and rounding the value back; the order of values against that of bits (R103, R110). -/

namespace Sys2Proof.Machine

/-- Bits that are no NaN read as the finite value of their sign and magnitude, or as an infinity of their sign. -/
theorem unpack_cases {F : FFmt} {c : Nat} (h : nanBits F c = false) :
    (c % F.signBit < F.infBits ∧ unpack F false c =
      .fin (negBits F c) (significand F (c % F.signBit)) (F.emin + expAbove F (c % F.signBit))) ∨
    (c % F.signBit = F.infBits ∧ unpack F false c = .inf (negBits F c)) := by
  have hle : c % F.signBit ≤ F.infBits := by simpa [nanBits] using h
  exact (Nat.lt_or_eq_of_le hle).imp (fun hf => ⟨hf, unpack_of_finite hf⟩) fun hi => ⟨hi, unpack_of_inf false hi⟩

/-- Values that are no NaN compare as the order of R110 on their bits. -/
theorem lt_unpack {F : FFmt} {c d : Nat} (hc : c < 2 ^ F.width) (hd : d < 2 ^ F.width) (hcn : nanBits F c = false)
    (hdn : nanBits F d = false) : (unpack F false c).lt (unpack F false d) = decide (orderKey F c < orderKey F d) := by
  rw [orderKey_eq hc, orderKey_eq hd]
  obtain ⟨hc', ec⟩ | ⟨hc', ec⟩ := unpack_cases hcn <;> obtain ⟨hd', ed⟩ | ⟨hd', ed⟩ := unpack_cases hdn <;> rw [ec, ed]
  · exact ltTotal_finite F _ _ _ _
  all_goals
    cases negBits F c <;> cases negBits F d <;> simp [FV.lt] <;> omega

/-- A significand has at most the bits of the format, and all of them above the least exponent. -/
theorem bitLen_significand (F : FFmt) (mag : Nat) :
    bitLen (significand F mag) ≤ F.fb + 1 ∧ (expAbove F mag ≠ 0 → bitLen (significand F mag) = F.fb + 1) := by
  have hB := Nat.two_pow_pos F.fb
  have hr := Nat.mod_lt mag hB
  by_cases h0 : mag / 2 ^ F.fb = 0
  · have hlt : mag < 2 ^ F.fb := (Nat.div_eq_zero_iff_lt hB).mp h0
    refine ⟨?_, fun h => absurd (by simp [expAbove, h0]) h⟩
    simp only [significand, h0, if_true, bitLen]
    split
    · exact Nat.zero_le _
    · next hm => exact Nat.succ_le_succ ((Nat.log2_lt hm).mpr hlt).le
  · have hm : 2 ^ F.fb + mag % 2 ^ F.fb ≠ 0 := by omega
    have hlog : Nat.log2 (2 ^ F.fb + mag % 2 ^ F.fb) = F.fb :=
      (Nat.log2_eq_iff hm).mpr ⟨Nat.le_add_right _ _, by rw [Nat.pow_succ]; omega⟩
    have : bitLen (significand F mag) = F.fb + 1 := by simp only [significand, h0, if_false, bitLen, hm, hlog]
    exact ⟨this.le, fun _ => this⟩

/-- The bits of a magnitude are its significand above its exponent: the leading one carries into the exponent field. -/
theorem expAbove_mul_add_significand (F : FFmt) (mag : Nat) : expAbove F mag * 2 ^ F.fb + significand F mag = mag := by
  have hmag := Nat.div_add_mod mag (2 ^ F.fb)
  rw [Nat.mul_comm] at hmag
  unfold expAbove significand
  cases hq : mag / 2 ^ F.fb with
  | zero => simp
  | succ q =>
    rw [hq, Nat.succ_mul] at hmag
    simp only [Nat.succ_ne_zero, if_false, Nat.add_sub_cancel]
    omega

/-- A shift by nothing is exact. -/
theorem roundShift_zero (md : RMode) (neg : Bool) (m : Nat) : roundShift md neg m 0 false = (m, false) := by
  cases md <;> simp [roundShift, roundsUp]

/-- A finite value of the format rounds to its own bits. -/
theorem roundPack_finite {F : FFmt} {mag : Nat} (md : RMode) (neg : Bool) (h : mag < F.infBits) :
    (roundPack F md false neg (significand F mag) (F.emin + expAbove F mag) false).bits = withSign F neg mag := by
  obtain ⟨hle, heq⟩ := bitLen_significand F mag
  have hexp : max (F.emin + expAbove F mag + bitLen (significand F mag) - (F.fb + 1 : Int)) F.emin = F.emin + expAbove F mag := by
    omega
  unfold roundPack
  split
  · next h0 =>
    have hz : mag = 0 := significand_eq_zero.mp (by simpa using h0)
    rw [hz]
  · simp only [hexp, Int.sub_self, roundShift_zero, add_sub_cancel_left, Int.toNat_natCast, expAbove_mul_add_significand,
      Nat.not_le.mpr h, if_false, Bool.false_and, Bool.false_eq_true]

/-- Bits that are no NaN, read and rounded to their own format, are themselves. -/
theorem roundV_unpack {F : FFmt} {c : Nat} (md : RMode) (hc : c < 2 ^ F.width) (hn : nanBits F c = false) :
    (roundV F md false (unpack F false c)).bits = c := by
  obtain ⟨hf, e⟩ | ⟨hi, e⟩ := unpack_cases hn
  · rw [e, roundV, roundPack_finite md _ hf, withSign_negBits hc]
  · rw [e, roundV, ← hi, withSign_negBits hc]

/-- Reading tells a NaN by its bits. -/
theorem isNaN_unpack (F : FFmt) (c : Nat) : (unpack F false c).isNaN = nanBits F c := by
  cases hn : nanBits F c with
  | true => rw [unpack_of_nan false hn]; rfl
  | false => obtain ⟨_, e⟩ | ⟨_, e⟩ := unpack_cases hn <;> rw [e] <;> rfl

/-- Reading tells a signalling NaN by its bits. -/
theorem isSNaN_unpack (F : FFmt) (c : Nat) : (unpack F false c).isSNaN = snanBits F c := by
  cases hn : nanBits F c with
  | true => rw [unpack_of_nan false hn]; rfl
  | false =>
    have hs : snanBits F c = false := by rw [snanBits, hn, Bool.false_and]
    obtain ⟨_, e⟩ | ⟨_, e⟩ := unpack_cases hn <;> rw [e, hs] <;> rfl

/-- Different bits have different places in the order of R110. -/
theorem orderKey_injective (F : FFmt) : Function.Injective (orderKey F) := by
  intro c d h
  unfold orderKey at h
  split at h <;> split at h <;> omega

end Sys2Proof.Machine
end

section
/-! SUPPORT. The model's minimum, maximum and comparison are those of the words of R110 and R111. -/

namespace Sys2Proof.Machine

/-- The model's minimum and maximum are the spec's (R110). -/
theorem fminmax_eq_numberMinMax {F : FFmt} (hF : 0 < F.eb) (mx ftz : Bool) {a b : Nat} (ha : a < 2 ^ F.width)
    (hb : b < 2 ^ F.width) : fminmax F mx ftz a b = numberMinMax F mx ftz a b := by
  have hc := flushed_lt (ftz := ftz) ha
  have hd := flushed_lt (ftz := ftz) hb
  unfold fminmax numberMinMax
  rw [unpack_flushed hF ftz a, unpack_flushed hF ftz b]
  generalize flushed F ftz a = c at *
  generalize flushed F ftz b = d at *
  simp only [isNaN_unpack, isSNaN_unpack, flIf]
  cases hcn : nanBits F c <;> cases hdn : nanBits F d
  · simp only [lt_unpack hc hd hcn hdn, lt_unpack hd hc hdn hcn, roundV_unpack .rn hc hcn, roundV_unpack .rn hd hdn]
    obtain hlt | heq | hgt := lt_trichotomy (orderKey F c) (orderKey F d)
    · cases mx <;> simp [hlt, hlt.le, hlt.not_gt]
    · rw [orderKey_injective F heq]
      simp
    · cases mx <;> simp [hgt, hgt.not_ge, hgt.not_gt]
  · simp [roundV_unpack .rn hc hcn]
  · simp [roundV_unpack .rn hd hdn]
  · rfl

/-- A zero. -/
def FV.isZero : FV → Bool
  | .fin _ m _ => m == 0
  | _ => false

/-- Equal as numbers, where neither is a NaN: zeros of both signs are (R111). -/
def FV.sameNumber (x y : FV) : Bool := x.isZero && y.isZero || !x.lt y && !y.lt x

/-- Bits that are no NaN, as a number that orders them with −0 at +0 (R111). -/
def compareKey (F : FFmt) (c : Nat) : Int := if c % F.signBit = 0 then 0 else orderKey F c

/-- Reading tells a zero by its bits. -/
theorem isZero_unpack {F : FFmt} {c : Nat} (hF : 0 < F.eb) (hn : nanBits F c = false) :
    (unpack F false c).isZero = decide (c % F.signBit = 0) := by
  obtain ⟨hf, e⟩ | ⟨hi, e⟩ := unpack_cases hn
  · rw [e, FV.isZero, beq_eq_decide, decide_eq_decide, significand_eq_zero]
  · have hpos := (Nat.two_pow_pos F.fb).trans_le (FFmt.le_infBits hF)
    simp [e, FV.isZero, hi, hpos.ne']

/-- The order of R111 is that of R110 but for the zeros. -/
theorem compareKey_eq {F : FFmt} {c : Nat} (h : c < 2 ^ F.width) : compareKey F c =
    if c % F.signBit = 0 then 0 else if negBits F c then -1 - ((c % F.signBit : Nat) : Int) else ((c % F.signBit : Nat) : Int) := by
  rw [compareKey, orderKey_eq h]

/-- Values that are no NaN are the same number when their keys of R111 agree. -/
theorem sameNumber_unpack {F : FFmt} {c d : Nat} (hF : 0 < F.eb) (hc : c < 2 ^ F.width) (hd : d < 2 ^ F.width)
    (hcn : nanBits F c = false) (hdn : nanBits F d = false) :
    (unpack F false c).sameNumber (unpack F false d) = decide (compareKey F c = compareKey F d) := by
  rw [FV.sameNumber, isZero_unpack hF hcn, isZero_unpack hF hdn, lt_unpack hc hd hcn hdn, lt_unpack hd hc hdn hcn,
    orderKey_eq hc, orderKey_eq hd, compareKey_eq hc, compareKey_eq hd, Bool.eq_iff_iff]
  cases negBits F c <;> cases negBits F d <;> simp <;> split <;> split <;> omega

/-- Values that are no NaN, and not both zeros, are in the order of their keys of R111. -/
theorem not_sameNumber_and_lt_unpack {F : FFmt} {c d : Nat} (hF : 0 < F.eb) (hc : c < 2 ^ F.width) (hd : d < 2 ^ F.width)
    (hcn : nanBits F c = false) (hdn : nanBits F d = false) :
    (!(unpack F false c).sameNumber (unpack F false d) && (unpack F false c).lt (unpack F false d)) =
      decide (compareKey F c < compareKey F d) := by
  rw [sameNumber_unpack hF hc hd hcn hdn, lt_unpack hc hd hcn hdn, orderKey_eq hc, orderKey_eq hd, compareKey_eq hc,
    compareKey_eq hd, Bool.eq_iff_iff]
  cases negBits F c <;> cases negBits F d <;> simp <;> split <;> split <;> omega

/-- A condition of R111 from what holds of two numbers: less, equal, greater, or one of them a NaN. -/
def condHolds (cc : Cc) (lt eq gt nan : Bool) : Bool :=
  match cc with
  | .eq => eq
  | .ne => !eq
  | .lt => lt
  | .le => lt || eq
  | .gt => gt
  | .ge => gt || eq
  | .un => nan
  | .or => !nan
  | .lo | .ls | .hi | .hs => false

/-- The flag of R111: signalling conditions raise it on any NaN, quiet ones on a signalling NaN. -/
def condFlag (cc : Cc) (nan snan : Bool) : Flags := if (if cc ∈ [Cc.lt, .le, .gt, .ge] then nan else snan) then flNV else 0

/-- The spec's comparison as a condition on its keys. -/
theorem numberCompare_eq_cond (F : FFmt) (ftz : Bool) (cc : Cc) (a b : Nat) :
    let c := flushed F ftz a
    let d := flushed F ftz b
    let nan := nanBits F c || nanBits F d
    numberCompare F cc ftz a b =
      (condHolds cc (!nan && decide (compareKey F c < compareKey F d)) (!nan && decide (compareKey F c = compareKey F d))
          (!nan && decide (compareKey F c > compareKey F d)) nan,
        condFlag cc nan (snanBits F c || snanBits F d)) := by
  cases cc <;> rfl

/-- The model's comparison as a condition on the values read. -/
theorem fcmp_eq_cond (F : FFmt) (ftz : Bool) (cc : Cc) (a b : Nat) :
    let x := unpack F ftz a
    let y := unpack F ftz b
    let nan := x.isNaN || y.isNaN
    let eq := !nan && x.sameNumber y
    let lt := !nan && !eq && x.lt y
    fcmp F ftz cc a b = (condHolds cc lt eq (!nan && !lt && !eq) nan, condFlag cc nan (x.isSNaN || y.isSNaN)) := by
  intro x y nan eq lt
  have hge : (!nan && !lt) = (!nan && !lt && !eq || eq) := by
    simp only [lt, eq]
    cases nan <;> cases x.sameNumber y <;> simp
  cases cc
  case ge => exact congrArg (·, condFlag .ge nan _) hge
  all_goals rfl

/-- The model's comparison is the spec's (R111). -/
theorem fcmp_eq_numberCompare {F : FFmt} (hF : 0 < F.eb) (ftz : Bool) (cc : Cc) {a b : Nat} (ha : a < 2 ^ F.width)
    (hb : b < 2 ^ F.width) : fcmp F ftz cc a b = numberCompare F cc ftz a b := by
  have hc := flushed_lt (ftz := ftz) ha
  have hd := flushed_lt (ftz := ftz) hb
  rw [fcmp_eq_cond, numberCompare_eq_cond, unpack_flushed hF ftz a, unpack_flushed hF ftz b]
  generalize flushed F ftz a = c at *
  generalize flushed F ftz b = d at *
  simp only [isNaN_unpack, isSNaN_unpack]
  cases hn : nanBits F c || nanBits F d with
  | true => rfl
  | false =>
    obtain ⟨hcn, hdn⟩ := Bool.or_eq_false_iff.mp hn
    have hgt : decide (compareKey F c > compareKey F d) =
        (!decide (compareKey F c < compareKey F d) && !decide (compareKey F c = compareKey F d)) := by
      simp only [← decide_not, ← Bool.decide_and, decide_eq_decide]
      omega
    simp only [Bool.not_false, Bool.true_and]
    rw [not_sameNumber_and_lt_unpack hF hc hd hcn hdn, sameNumber_unpack hF hc hd hcn hdn, hgt]

end Sys2Proof.Machine
end

section
/-! SUPPORT. Lane instructions that compute on words under FMT: where they may issue, and where a limit of decoding refuses them. -/

namespace Sys2Proof.Machine

/-- No instruction-specific limit applies to a lane instruction: where it may issue, it changes its team alone (R87). -/
theorem laneIns_clear {i : Instr} {p q : Nat} {g : Team → Frag → Nat → List Word → List Word × Flags} {s : State} {t : Team}
    {f : Frag} (hr : Runs s t f) (hc : Clear s t f { pops := p, pushes := q }) :
    laneIns i p q g s = .next (after i s t f { pops := p, pushes := q } fun u => laneOp p q g u f) := by
  rw [laneIns, issue_clear hr hc rfl]
  rfl

/-- An instruction whose operands a limit of decoding refuses stops there (R51). -/
theorem issue_limited {i : Instr} {sh : Shape} {limits : Team → Run Unit} {body : State → Team → Frag → Run State} {s : State}
    {t : Team} {f : Frag} {e : Stop} (hr : Runs s t f) (hl : limits t = .error e) :
    issue i sh limits body s = .next (raise s i t f (bytesOf i) e) := by
  obtain ⟨hcur, hteam, hrun, -⟩ := hr
  unfold issue
  rw [hcur]
  simp only [Option.bind_some, hteam, hrun, hl]
  rfl

/-- A pair's number (R12). -/
theorem toNat_pair (lo hi : Word) : (pair lo hi).toNat = pairNat lo hi := by
  have hlo : lo.toNat % 2 ^ 64 = lo.toNat := Nat.mod_eq_of_lt (lo.isLt.trans (by decide))
  have hhi : (hi.toNat % 2 ^ 64) <<< 32 % 2 ^ 64 = hi.toNat <<< 32 := by
    have := hi.isLt
    rw [Nat.shiftLeft_eq, Nat.shiftLeft_eq]
    omega
  rw [pair, BitVec.toNat_or, BitVec.toNat_shiftLeft, BitVec.toNat_setWidth, BitVec.toNat_setWidth, hlo, hhi,
    ← Nat.shiftLeft_add_eq_or_of_lt lo.isLt, Nat.shiftLeft_eq, pairNat, Nat.add_comm, Nat.mul_comm]

/-- A pair's number fits a dword. -/
theorem pairNat_lt (lo hi : Word) : pairNat lo hi < 2 ^ 64 := toNat_pair lo hi ▸ (pair lo hi).isLt

/-- An element of a packed entry fits 16 bits. -/
theorem half_lt (w : Word) (j : Nat) : half w j < 2 ^ 16 := Nat.mod_lt _ (by decide)

section
variable {i : Instr} {s : State} {t : Team} {f : Frag}

/-- A lane instruction that computes on words under FMT, where it may issue. -/
theorem laneIns_float {p q : Nat} {g : Team → Frag → Nat → List Word → List Word × Flags}
    {g' : Word → List Word → List Word × Flags} (hg : ∀ u x l ws, g u x l ws = g' x.fmt ws) (hr : Runs s t f)
    (hc : Clear s t f { pops := p, pushes := q }) :
    laneIns i p q g s = .next (after i s t f { pops := p, pushes := q } fun u => floatLanes p q g' u f) := by
  have : g = fun _ x _ ws => g' x.fmt ws := by
    funext u x l ws
    exact hg u x l ws
  rw [this]
  exact laneIns_clear hr hc

/-- A comparison whose condition R53 allows, where it may issue. -/
theorem fcmpIns_clear {cc : Cc} {p : Nat} {g : Frag → List Word → List Word × Flags} {g' : Word → List Word → List Word × Flags}
    (hcc : cc.fcmpOk = true) (hg : ∀ x ws, g x ws = g' x.fmt ws) (hr : Runs s t f) (hc : Clear s t f { pops := p, pushes := 1 }) :
    fcmpIns i cc p g s = .next (after i s t f { pops := p, pushes := 1 } fun u => floatLanes p 1 g' u f) := by
  have : g = fun x ws => g' x.fmt ws := by
    funext x ws
    exact hg x ws
  rw [this, fcmpIns, issue_clear hr hc (need_true hcc)]
  rfl

/-- A comparison whose condition R53 makes illegal. -/
theorem fcmpIns_illegal {cc : Cc} {p : Nat} {g : Frag → List Word → List Word × Flags} (hcc : cc.fcmpOk = false) (hr : Runs s t f) :
    fcmpIns i cc p g s = .next (raise s i t f (bytesOf i) (.illop 4)) := by
  rw [fcmpIns, issue_limited (e := .illop 4) hr (by rw [hcc]; rfl)]

variable {g g' : Word → Nat → Nat → FRes}

/-- A binary32 instruction of two operands whose function is g' on words. -/
theorem f2_clear (hg : ∀ m a b, a < 2 ^ 32 → b < 2 ^ 32 → g m a b = g' m a b) (hr : Runs s t f)
    (hc : Clear s t f { pops := 2, pushes := 1 }) :
    f2 i g s = .next (after i s t f { pops := 2, pushes := 1 } fun u => floatLanes 2 1 (fun m => single2 (g' m)) u f) :=
  laneIns_float (fun _ x _ ws => match ws with
    | [b, a] => by simp only [outW, single2, hg x.fmt _ _ a.isLt b.isLt]
    | [] | [_] | _ :: _ :: _ :: _ => rfl) hr hc

/-- A binary64 instruction of two operands whose function is g' on dwords. -/
theorem d2_clear (hg : ∀ m a b, a < 2 ^ 64 → b < 2 ^ 64 → g m a b = g' m a b) (hr : Runs s t f)
    (hc : Clear s t f { pops := 4, pushes := 2 }) :
    d2 i g s = .next (after i s t f { pops := 4, pushes := 2 } fun u => floatLanes 4 2 (fun m => double2 (g' m)) u f) :=
  laneIns_float (fun _ x _ ws => match ws with
    | [bhi, blo, ahi, alo] => by
      simp only [d2of, toNat_pair, double2, hg x.fmt _ _ (pairNat_lt alo ahi) (pairNat_lt blo bhi)]
      rfl
    | [] | [_] | [_, _] | [_, _, _] | _ :: _ :: _ :: _ :: _ :: _ => rfl) hr hc

/-- A packed instruction of two operands whose function is g' on elements. -/
theorem h2_clear {h : FFmt → Word → Nat → Nat → FRes} (hg : ∀ m a b, a < 2 ^ 16 → b < 2 ^ 16 → h (packF m) m a b = g' m a b)
    (hr : Runs s t f) (hc : Clear s t f { pops := 2, pushes := 1 }) :
    h2 i h s = .next (after i s t f { pops := 2, pushes := 1 } fun u => floatLanes 2 1 (fun m => packed2 (g' m)) u f) :=
  laneIns_float (fun _ x _ ws => match ws with
    | [b, a] => by
      simp only [packed2, ← hg x.fmt _ _ (half_lt a _) (half_lt b _)]
      rfl
    | [] | [_] | _ :: _ :: _ :: _ => rfl) hr hc

end

end Sys2Proof.Machine
end

section
/-! PROOFS of O6 and O5 (R110, R111). -/

namespace Sys2Proof.Machine

/-- The elements of a packed entry are 16 bits wide in both of their formats (R103, R104). -/
theorem packF_width (m : Word) : (packF m).width = 16 := by
  unfold packF
  split <;> rfl

/-- Both formats of a packed element have an exponent. -/
theorem packF_eb_pos (m : Word) : 0 < (packF m).eb := by
  unfold packF
  split <;> decide

/-- Settles O6: each instruction of the table applies one function of the model, which is the spec's minimum or maximum. -/
theorem minMaxRule : Obligations.MinMaxRule := by
  intro s t f i p q g hr ht hc
  unfold minMaxTable at ht
  split at ht
  case h_1 =>
    cases ht
    exact f2_clear (g := fun m => fminmax f32F false (fmtFtz m))
      (fun m _ _ ha hb => fminmax_eq_numberMinMax (by decide) false (fmtFtz m) ha hb) hr hc
  case h_2 =>
    cases ht
    exact f2_clear (g := fun m => fminmax f32F true (fmtFtz m))
      (fun m _ _ ha hb => fminmax_eq_numberMinMax (by decide) true (fmtFtz m) ha hb) hr hc
  case h_3 =>
    cases ht
    exact d2_clear (g := fun m => fminmax f64F false (fmtFtz m))
      (fun m _ _ ha hb => fminmax_eq_numberMinMax (by decide) false (fmtFtz m) ha hb) hr hc
  case h_4 =>
    cases ht
    exact d2_clear (g := fun m => fminmax f64F true (fmtFtz m))
      (fun m _ _ ha hb => fminmax_eq_numberMinMax (by decide) true (fmtFtz m) ha hb) hr hc
  case h_5 =>
    cases ht
    refine h2_clear (h := fun F m => fminmax F true (fmtFtz m)) (fun m a b ha hb => ?_) hr hc
    rw [← packF_width m] at ha hb
    exact fminmax_eq_numberMinMax (packF_eb_pos m) true (fmtFtz m) ha hb
  case h_6 => cases ht

/-- The conditions that R53 makes illegal in FCMP and DCMP. -/
theorem fcmpOk_unsigned : ∀ cc ∈ [Cc.lo, .ls, .hi, .hs], cc.fcmpOk = false := by decide

/-- The comparison table speaks of FCMP and DCMP alone. -/
theorem floatCmpTable_eq_some {i : Instr} {r : Nat × (Word → List Word → List Word × Flags)} (h : floatCmpTable i = some r) :
    ∃ cc, i = .fcmp cc ∨ i = .dcmp cc := by
  unfold floatCmpTable at h
  split at h
  · exact ⟨_, .inl rfl⟩
  · exact ⟨_, .inr rfl⟩
  · cases h

/-- FCMP where R53 allows its condition: the table's comparison of words. -/
theorem exec_fcmp_clear {s : State} {t : Team} {f : Frag} {cc : Cc} {p : Nat} {g : Word → List Word → List Word × Flags}
    (ht : floatCmpTable (.fcmp cc) = some (p, g)) (hr : Runs s t f) (hc : Clear s t f { pops := p, pushes := 1 }) :
    exec (.fcmp cc) s = .next (after (.fcmp cc) s t f { pops := p, pushes := 1 } fun u => floatLanes p 1 g u f) := by
  obtain ⟨hcc, ht⟩ := Option.ite_none_right_eq_some.mp ht
  cases ht
  exact fcmpIns_clear hcc (fun x ws => match ws with
    | [b, a] => by
      simp only [fcmp_eq_numberCompare (F := f32F) (by decide) _ cc a.isLt b.isLt]
      rfl
    | [] | [_] | _ :: _ :: _ :: _ => rfl) hr hc

/-- DCMP where R53 allows its condition: the table's comparison of dwords. -/
theorem exec_dcmp_clear {s : State} {t : Team} {f : Frag} {cc : Cc} {p : Nat} {g : Word → List Word → List Word × Flags}
    (ht : floatCmpTable (.dcmp cc) = some (p, g)) (hr : Runs s t f) (hc : Clear s t f { pops := p, pushes := 1 }) :
    exec (.dcmp cc) s = .next (after (.dcmp cc) s t f { pops := p, pushes := 1 } fun u => floatLanes p 1 g u f) := by
  obtain ⟨hcc, ht⟩ := Option.ite_none_right_eq_some.mp ht
  cases ht
  exact fcmpIns_clear hcc (fun x ws => match ws with
    | [bhi, blo, ahi, alo] => by
      simp only [toNat_pair, fcmp_eq_numberCompare (F := f64F) (by decide) _ cc (pairNat_lt alo ahi) (pairNat_lt blo bhi)]
      rfl
    | [] | [_] | [_, _] | [_, _, _] | _ :: _ :: _ :: _ :: _ :: _ => rfl) hr hc

/-- Settles O5: where the condition is one of R111's, by the model's comparison being the spec's; the others are refused by the limit
that comes before the checks. -/
theorem floatCompareRule : Obligations.FloatCompareRule := by
  intro s t f hr
  refine ⟨fun i p g ht hc => ?_, fun cc hcc i hi => ?_⟩
  · obtain ⟨cc, rfl | rfl⟩ := floatCmpTable_eq_some ht
    · exact exec_fcmp_clear ht hr hc
    · exact exec_dcmp_clear ht hr hc
  · obtain rfl | rfl := List.mem_pair.mp hi
    · exact fcmpIns_illegal (fcmpOk_unsigned cc hcc) hr
    · exact fcmpIns_illegal (fcmpOk_unsigned cc hcc) hr

end Sys2Proof.Machine
end

section
/-! PROOF of O11 (R116). -/

namespace Sys2Proof.Machine

/-- One level of the tree of R115 over absent lanes gives absent values. -/
theorem redStep_absent (op : RedOp) (fmt : Word) (l : List (Option (Word × Flags))) (h : ∀ x ∈ l, x = none) :
    ∀ x ∈ redStep op fmt l, x = none := by
  induction l using redStep.induct with
  | case1 x y r ih =>
    simp only [List.forall_mem_cons] at h
    obtain ⟨rfl, rfl, hr⟩ := h
    exact List.forall_mem_cons.mpr ⟨rfl, ih hr⟩
  | case2 l hl => rwa [redStep]; exact hl

/-- A word of absent lanes has no value. -/
theorem redWord_absent (op : RedOp) (fmt : Word) {l : List (Option (Word × Flags))} (h : ∀ x ∈ l, x = none) :
    redWord op fmt l = none := by
  have hn : ∀ n, ∀ x ∈ foldNat (fun l _ => redStep op fmt l) l n, x = none := fun n => by
    induction n with
    | zero => exact h
    | succ n ih => exact redStep_absent op fmt _ ih
  unfold redWord
  split
  · next x r hx => exact hn 5 x (hx ▸ List.mem_cons_self)
  · rfl

/-- The model's identities are those of R116's table. -/
theorem redId_eq_identityOf (op : RedOp) : redId op = identityOf op := by cases op <;> rfl

/-- Where every lane is absent the reduction is the identity, with no flag (R116). -/
theorem reduceTeam_absent (op : RedOp) (fmt : Word) (words : Nat) {v : Nat → Option Word} (h : ∀ k, v k = none) :
    reduceTeam op fmt words v = (identityOf op, 0) := by
  have hword : ∀ k, redWord op fmt ((List.range 32).map fun j => (v (32 * k + j)).map fun x => (x, (0 : Flags))) = none :=
    fun k => redWord_absent op fmt (by simp [h])
  rw [reduceTeam, List.foldl_fixed' (fun k => by rw [hword]; rfl), redId_eq_identityOf]
  rfl

/-- Where no source lane of a side lies below the bound, its reduction is the identity, with no flag (R116). -/
theorem reduceSide_absent {t : Team} {f : Frag} {side bound : Nat} (op : RedOp)
    (h : ∀ v, v < bound → sourceVals t f side bound v = none) : reduceSide t f op side bound = (identityOf op, 0) := by
  refine reduceTeam_absent op f.fmt _ fun v => ?_
  by_cases hv : v < bound
  · exact h v hv
  · simp [sourceVals, hv]

/-- Settles O11: with no present lane below the bound, every leaf of the tree is absent. -/
theorem reduceIdentities : Obligations.ReduceIdentities := fun _ _ op _ =>
  ⟨fun _ h => reduceSide_absent op h, fun _ h => reduceSide_absent op fun v hv => by simp [sourceVals, h v hv]⟩

end Sys2Proof.Machine
end
